-- ==== Sys2Proof/Word.lean ====
section
/-! DEFINITION. The word types of the Pyrrax 9 (data sizes of R8). -/

namespace Sys2Proof

/-- A byte (R8). -/
abbrev Byte := BitVec 8

/-- A word: 32 bits (R8), the width of a vector register. -/
abbrev Word := BitVec 32

/-- A dword: 64 bits (R8), the width of a uniform register. -/
abbrev DWord := BitVec 64

/-- A virtual code address: 54 bits (R15, R344). -/
abbrev CodeAddr := BitVec 54

end Sys2Proof
end

