-- ==== Sys2Proof/Config.lean ====
section
/-! DEFINITION. What the part fixes (R15, R279, R280) and the values the spec leaves open: opaque constants without a body. -/

namespace Sys2Proof.Config

/-- Lanes per partition, `LANES` (R15). -/
def lanes : Nat := 32
/-- Partitions of a core (R15). -/
def partitions : Nat := 16
/-- Thread slots per lane (R15). -/
def threadSlots : Nat := 8
/-- Logical cores (R15). -/
def cores : Nat := 192
/-- Logical quads (R15). -/
def quads : Nat := 48
/-- Tenants (R15). -/
def tenants : Nat := 16
/-- Fabric ports (R36). -/
def ports : Nat := 16
/-- Slot-table entries of a core (R117). -/
def slotEntries : Nat := 16
/-- Scratchpad bytes that blocks of one core may hold together (R117). -/
def scratchMax : Nat := 458752
/-- The SRAM of a core in bytes (R184). -/
def sramBytes : Nat := 524288
/-- The B-store tile of a quad in bytes (R188). -/
def tileBytes : Nat := 8388608
/-- Bytes of a cache line (R184). -/
def lineBytes : Nat := 128
/-- Side-log entries of a core (R203). -/
def sideLogMax : Nat := 256
/-- Copy commands of a block that may be queued (R424). -/
def copyMax : Nat := 64
/-- Fabric commands of a core that may be in flight (R428). -/
def fabricMax : Nat := 256
/-- Chains that may run at once (R63). -/
def chainMax : Nat := 64
/-- Entries of a reservation table (R437). -/
def mxTableMax : Nat := 32
/-- Instruction-buffer blocks of a core (R324). -/
def ibufBlocks : Nat := 512
/-- L1 TLB entries of a core (R198). -/
def coreTlb : Nat := 256
/-- TLB entries of a quad (R198). -/
def quadTlb : Nat := 4096
/-- Residence indices of a grid (R117). -/
def residences : Nat := 3072
/-- First tier-2 physical address (R184). -/
def tier2Base : Nat := 0x10000000000
/-- One past the last tier-2 physical address (R184). -/
def tier2End : Nat := 0x20000000000
/-- One past the last tier-1 physical address with all stacks present (R184). -/
def tier1End : Nat := 0x6000000000
/-- Bytes of one HBM stack (R17). -/
def stackBytes : Nat := 0xC00000000
/-- Bytes that Fevar reserves at the top of tier 1 (R105). -/
def reservedBytes : Nat := 0x240000000
/-- Bytes of the launch store (R105). -/
def launchStoreBytes : Nat := 0x10000000
/-- Bytes of the image pool (R105). -/
def poolBytes : Nat := 0x200000000
/-- Bytes of the image pool kept for remapping (R105). -/
def poolRemapBytes : Nat := 0x10000000
/-- The greatest power limit in watts (R23). -/
def powerMax : Nat := 2200
/-- The least power limit in watts (R23). -/
def powerMin : Nat := 1400

/-- The stamp that an access checks while a PERM command changes it: the old one or the new one (R213).
OPEN: nothing fixes which (assumption 9). -/
opaque permStampOld : Nat → Bool

/-- A byte read through SPACE 2 from the scratchpad of a gang member whose block has ended, by cycle and offset: the
spec gives a block's scratchpad up to its end (R111, R117) and no value after it. OPEN (assumption 25). -/
opaque absentMember : Nat → Nat → BitVec 8

/-- Whether a signature verifies an image against the fused Stakel key (R34): SLH-DSA-SHA2-192s, whose
computation the spec does not give. OPEN (assumption 10). -/
opaque verifyImage : List Byte → List Byte → Bool

/-- Byte `i` of the signature by the identity key over a message (R103). OPEN (assumption 10). -/
opaque identitySign : List Byte → Nat → Byte

/-- Byte `i` of the Stakel signature of the certificate over the public key and the serial (R102). OPEN (assumption 10). -/
opaque stakelSignature : List Byte → Nat → Byte

/-- The 48 bytes of the identity public key, from the fused secrets (R100). OPEN (assumption 10). -/
opaque identityKey : Nat → Byte

/-- The 16 bytes of the module serial (R102). OPEN (assumption 10). -/
opaque moduleSerial : Nat → Byte

/-- The half nanoseconds that a step of bring-up takes (R34 gives no time). OPEN (assumption 78). -/
opaque bringUpTime : Nat → Nat

/-- The lane in which the rotated issue of a rendezvous's executing shed differs, by cycle, core and weave; none where they agree
(R175, R295). OPEN (assumption 87). -/
opaque twinMeet : Nat → Nat → Nat → Option Nat

/-- The readings of the monitors, by sample and sensor, in quarters of a degree: 50 physical quads, 96 along the edges of the three
dies, 8 HBM sites, then coolant inlet and outlet (R25). OPEN (assumption 79). -/
opaque temperature : Nat → Nat → Int

/-- Whether a core's droop monitor reports a dip in a sample. OPEN (assumption 79). -/
opaque dips : Nat → Nat → Bool

/-- The watts of each supply rail averaged over 10 µs, by sample. OPEN (assumption 79). -/
opaque railPower : Nat → List Nat

/-- The watts of the module averaged over 1 ms, by sample. OPEN (assumption 79). -/
opaque modulePower : Nat → Nat

/-- The counts of the ring oscillators, by second and oscillator: 50 physical quads, then the I/O die (R25). OPEN (assumption 79). -/
opaque oscillator : Nat → Nat → Nat

/-- The energy in µJ of a meter update: of a logical core, an engine, a kind of request and the module (R30). OPEN (assumption 80). -/
opaque coreEnergy : Nat → Nat → Nat
opaque engineEnergy : Nat → Nat → Nat
opaque requestEnergy : Nat → Nat → Nat
opaque moduleEnergy : Nat → Nat

end Sys2Proof.Config
end

