-- ==== Sys2Proof/Syntax.lean ====
section
/-! DEFINITION. Instructions and device events: one constructor of `Instr` per row of the opcode table. -/

namespace Sys2Proof

/-! ## Fields of a program instruction -/

/-- The GUARD and HINT groups of a word (R308, R316, R318). -/
structure Head where
  /-- guard condition, 0 to 15 -/
  cond : BitVec 4
  /-- guard condition register -/
  csel : BitVec 2
  /-- chain hint -/
  chain : Bool
  /-- last use of source A -/
  lua : Bool
  /-- last use of source B -/
  lub : Bool
  /-- last use of source C -/
  luc : Bool
  /-- issue-gap hint -/
  gap : BitVec 2
  deriving DecidableEq, Repr

/-- The special sources of R312; there is no other. -/
inductive Special where
  | zero | imm | immhi | immz | lane | weave | tid | blk | rank | lanes | nthreads | gsize
  | gridx | gridy | gridz | part | slot | core | ctr | time
  deriving DecidableEq, Repr

/-- A source operand (R310). -/
inductive Src where
  /-- vector register, frame-relative -/
  | v (r : BitVec 8)
  /-- uniform register -/
  | s (r : BitVec 8)
  /-- bypass latch -/
  | b (l : BitVec 2)
  /-- special source -/
  | sp (c : Special)
  deriving DecidableEq, Repr

/-- The destination field FD (R314). -/
structure Dst where
  nwb : Bool
  cce : Bool
  cct : BitVec 2
  reg : BitVec 8
  deriving DecidableEq, Repr

/-- The type codes of R319, without the reserved one. -/
inductive Ty where
  | i8 | i16 | i32 | i64 | n8 | n16 | n32 | n64 | f16 | bf16 | f32 | f64 | f4 | tr | qs
  deriving DecidableEq, Repr

/-- The rounding codes of R319. -/
inductive Rnd where
  | rne | rtz | rup | rdn | ctr
  deriving DecidableEq, Repr

/-- The orders of R319. -/
inductive Ord where
  | rlx | acq | rel | ar
  deriving DecidableEq, Repr

/-- The scopes of R319. -/
inductive Scope where
  | blk | gang | dev | sys
  deriving DecidableEq, Repr

/-- Integer comparisons of `ICMP` (R355). -/
inductive Cmp where
  | eq | ne | lt | le | gt | ge
  deriving DecidableEq, Repr

/-- Floating-point comparisons of `FCMP` (R376). -/
inductive FCmp where
  | eq | ne | lt | le | gt | ge | un
  deriving DecidableEq, Repr

/-- Element formats of `CVTP`, `QSCALE`, `QNT` and `DQNT` (R384). -/
inductive EF where
  | i8 | n8 | nib | nibn | f4 | tr | f16 | bf16
  deriving DecidableEq, Repr

/-- Shuffle modes of `XSHF` (R395). -/
inductive ShMode where
  | up | down | xor | idx
  deriving DecidableEq, Repr

/-- Operations of `XRED` and `XSCAN` (R395). -/
inductive RedOp where
  | add | min | max | and | or | xor
  deriving DecidableEq, Repr

/-- Operations of `XVOTE` (R395). -/
inductive VoteOp where
  | orp | andp | map | eqv | cnt | first | below
  deriving DecidableEq, Repr

/-- Operations of `ATOM` and `RED` (R405). -/
inductive AtomOp where
  | add | min | max | and | or | xor | exch
  deriving DecidableEq, Repr

/-- A memory operand `s`k`[`x`+`off`]` (R404). -/
structure MemOp where
  rcd : BitVec 8
  x : Src
  off : BitVec 16
  deriving DecidableEq, Repr

/-! ## Operand shapes of the program instructions -/

/-- No operand: `NOP`, `RET`, `EXIT`, `DEMOTE`, `YIELD`, `TRET` (R343), `MEET` (R395). -/
structure Plain where
  head : Head
  deriving DecidableEq, Repr

/-- A block-offset target: `BRA` (R343). -/
structure Branch where
  head : Head
  off : Word
  deriving DecidableEq, Repr

/-- A register target: `BRX` (R343). -/
structure BranchX where
  head : Head
  a : Src
  imm : Word
  deriving DecidableEq, Repr

/-- `CALL` (R343): slide and block offset. -/
structure Call where
  head : Head
  n : BitVec 8
  off : Word
  deriving DecidableEq, Repr

/-- `CALLX` (R343): slide and register target. -/
structure CallX where
  head : Head
  n : BitVec 8
  a : Src
  imm : Word
  deriving DecidableEq, Repr

/-- `TRAP n` (R343). -/
structure TrapN where
  head : Head
  n : BitVec 5
  deriving DecidableEq, Repr

/-- `BKPT tag` (R343). -/
structure Bkpt where
  head : Head
  tag : BitVec 16
  deriving DecidableEq, Repr

/-- `LOOP vd, label` (R343). -/
structure Loop where
  head : Head
  reg : BitVec 8
  off : Word
  deriving DecidableEq, Repr

/-- Two sources, a type and SAT: integer and logic opcodes (R355, R360). -/
structure Alu2 where
  head : Head
  ty : Ty
  sat : Bool
  d : Dst
  a : Src
  b : Src
  imm : Word
  deriving DecidableEq, Repr

/-- Two sources and a carry-in register: `IADC`, `ISBC` (R355). -/
structure AluC where
  head : Head
  ty : Ty
  k : BitVec 2
  d : Dst
  a : Src
  b : Src
  imm : Word
  deriving DecidableEq, Repr

/-- Three sources: `IMAD`, `IMADW`, `ISAD`, `IADD3`, `FSHF`, `BFI` (R355, R360). -/
structure Alu3 where
  head : Head
  ty : Ty
  sat : Bool
  d : Dst
  a : Src
  b : Src
  c : Src
  deriving DecidableEq, Repr

/-- One source: `IABS`, `POPC`, `CLZ`, `BREV`, `MOV` (R355, R360, R366). -/
structure Alu1 where
  head : Head
  ty : Ty
  sat : Bool
  d : Dst
  a : Src
  imm : Word
  deriving DecidableEq, Repr

/-- `ICMP` (R355). -/
structure Cmp2 where
  head : Head
  ty : Ty
  cmp : Cmp
  d : Dst
  a : Src
  b : Src
  imm : Word
  deriving DecidableEq, Repr

/-- `SEL` (R355): condition register and condition in IMM. -/
structure Sel where
  head : Head
  ty : Ty
  d : Dst
  a : Src
  b : Src
  k : BitVec 2
  cond : BitVec 4
  deriving DecidableEq, Repr

/-- `BOOL3` (R360). -/
structure Bool3 where
  head : Head
  ty : Ty
  d : Dst
  a : Src
  b : Src
  c : Src
  tt : BitVec 8
  deriving DecidableEq, Repr

/-- `PERMB` (R360, R365). -/
structure Permb where
  head : Head
  d : Dst
  a : Src
  tbl : Src
  imm : Word
  deriving DecidableEq, Repr

/-- `MOVI` (R366): `wide` is the `.N64` form, the only one with a source. -/
structure Movi where
  head : Head
  wide : Bool
  d : Dst
  a : Src
  imm : Word
  deriving DecidableEq, Repr

/-- `SSET` and its halves (R366). -/
structure Sset where
  head : Head
  reg : BitVec 8
  a : Src
  imm : Word
  deriving DecidableEq, Repr

/-- `SADD` (R366). -/
structure Sadd where
  head : Head
  d : Dst
  a : Src
  b : Src
  imm : Word
  deriving DecidableEq, Repr

/-- `SLD` (R366): record, index and a signed 32-bit byte offset. -/
structure Sld where
  head : Head
  wide : Bool
  reg : BitVec 8
  rcd : BitVec 8
  x : Src
  off : Word
  deriving DecidableEq, Repr

/-- `RDSR` (R366). -/
structure Rdsr where
  head : Head
  wide : Bool
  d : Dst
  num : BitVec 12
  deriving DecidableEq, Repr

/-- `WRSR` (R366). -/
structure Wrsr where
  head : Head
  wide : Bool
  a : Src
  num : BitVec 12
  deriving DecidableEq, Repr

/-- `RAND` (R366). -/
structure Rand where
  head : Head
  wide : Bool
  d : Dst
  deriving DecidableEq, Repr

/-- A destination only: `ELECT` (R366), `MXSTAT` (R460). -/
structure DstOnly where
  head : Head
  d : Dst
  deriving DecidableEq, Repr

/-- One floating-point source: `FRND` (R376) and the special functions (R391). -/
structure Fp1 where
  head : Head
  ty : Ty
  rnd : Rnd
  d : Dst
  a : Src
  imm : Word
  deriving DecidableEq, Repr

/-- Two floating-point sources (R376, R382). -/
structure Fp2 where
  head : Head
  ty : Ty
  rnd : Rnd
  d : Dst
  a : Src
  b : Src
  imm : Word
  deriving DecidableEq, Repr

/-- Three floating-point sources: `FFMA`, `HFMA2`, `HDOT2` (R376, R382). -/
structure Fp3 where
  head : Head
  ty : Ty
  rnd : Rnd
  d : Dst
  a : Src
  b : Src
  c : Src
  deriving DecidableEq, Repr

/-- `FCMP` (R376). -/
structure Fcmp where
  head : Head
  ty : Ty
  cmp : FCmp
  d : Dst
  a : Src
  b : Src
  imm : Word
  deriving DecidableEq, Repr

/-- `HMNMX2` (R382). -/
structure Hmnmx where
  head : Head
  ty : Ty
  max : Bool
  d : Dst
  a : Src
  b : Src
  imm : Word
  deriving DecidableEq, Repr

/-- `CVT` (R385). -/
structure Cvt where
  head : Head
  dty : Ty
  sty : Ty
  rnd : Rnd
  d : Dst
  a : Src
  imm : Word
  deriving DecidableEq, Repr

/-- `CVTP.P` (R385). -/
structure CvtpP where
  head : Head
  ef : EF
  rnd : Rnd
  d : Dst
  a : Src
  q : Src
  i : BitVec 4
  deriving DecidableEq, Repr

/-- `CVTP.U` (R385). -/
structure CvtpU where
  head : Head
  ef : EF
  d : Dst
  q : Src
  i : BitVec 4
  deriving DecidableEq, Repr

/-- `QSCALE` (R385). -/
structure Qscale where
  head : Head
  ef : EF
  d : Dst
  a : Src
  imm : Word
  deriving DecidableEq, Repr

/-- `QNT` (R385). -/
structure Qnt where
  head : Head
  ef : EF
  rnd : Rnd
  d : Dst
  a : Src
  s : Src
  q : Src
  i : BitVec 4
  deriving DecidableEq, Repr

/-- `DQNT` (R385). -/
structure Dqnt where
  head : Head
  ef : EF
  rnd : Rnd
  d : Dst
  q : Src
  s : Src
  i : BitVec 4
  deriving DecidableEq, Repr

/-- `XSHF` (R395). -/
structure Xshf where
  head : Head
  md : ShMode
  w : Bool
  wide : Bool
  d : Dst
  a : Src
  b : Src
  imm : Word
  deriving DecidableEq, Repr

/-- `XRED` and `XSCAN` (R395); `exc` is zero for `XRED`. -/
structure Xred where
  head : Head
  ty : Ty
  op : RedOp
  exc : Bool
  d : Dst
  a : Src
  imm : Word
  deriving DecidableEq, Repr

/-- `XVOTE` (R395). -/
structure Xvote where
  head : Head
  op : VoteOp
  k : BitVec 2
  d : Dst
  a : Src
  imm : Word
  deriving DecidableEq, Repr

/-- `XCMX` (R395). -/
structure Xcmx where
  head : Head
  ty : Ty
  d : Dst
  a : Src
  b : Src
  j : BitVec 3
  k : BitVec 3
  deriving DecidableEq, Repr

/-- `LD`, `LDFX` (R405). -/
structure Ld where
  head : Head
  ty : Ty
  ord : Ord
  sc : Scope
  d : Dst
  m : MemOp
  deriving DecidableEq, Repr

/-- `ST`, `ATFX` (R405). -/
structure St where
  head : Head
  ty : Ty
  ord : Ord
  sc : Scope
  m : MemOp
  c : Src
  deriving DecidableEq, Repr

/-- `ATOM` (R405); `RED` has no destination. -/
structure Atom where
  head : Head
  op : AtomOp
  ty : Ty
  ord : Ord
  sc : Scope
  d : Dst
  m : MemOp
  c : Src
  deriving DecidableEq, Repr

/-- `RED` (R405). -/
structure Red where
  head : Head
  op : AtomOp
  ty : Ty
  ord : Ord
  sc : Scope
  m : MemOp
  c : Src
  deriving DecidableEq, Repr

/-- `CAS` (R405, R408): the group's first vector register. -/
structure Cas where
  head : Head
  ty : Ty
  ord : Ord
  sc : Scope
  d : Dst
  m : MemOp
  g : BitVec 8
  deriving DecidableEq, Repr

/-- `PREF` (R405): `dev` is the form into L2 only. -/
structure Pref where
  head : Head
  dev : Bool
  m : MemOp
  deriving DecidableEq, Repr

/-- `BAR.INIT`, `BAR.EXPECT`, `BAR.WAIT` (R411). -/
structure BarV where
  head : Head
  gang : Bool
  m : MemOp
  c : Src
  deriving DecidableEq, Repr

/-- `BAR.ARRIVE`, `BAR.ARRWAIT` (R411). -/
structure BarD where
  head : Head
  gang : Bool
  d : Dst
  m : MemOp
  deriving DecidableEq, Repr

/-- A scope only: `PHASE`, `FENCE` (R415). -/
structure Scoped where
  head : Head
  sc : Scope
  deriving DecidableEq, Repr

/-- `WAITA` (R416). -/
structure Waita where
  head : Head
  d : Dst
  m : MemOp
  deriving DecidableEq, Repr

/-- `CPY`, `CPYT` (R419). -/
structure Cpy where
  head : Head
  bar : Bool
  flg : Bool
  src : BitVec 8
  dst : BitVec 8
  g : BitVec 8
  comp : BitVec 15
  deriving DecidableEq, Repr

/-- `MXLDB` (R455). -/
structure Mxldb where
  head : Head
  bar : Bool
  flg : Bool
  src : BitVec 8
  g : BitVec 8
  comp : BitVec 15
  deriving DecidableEq, Repr

/-- `PUT`, `PUTS`, `GET` (R425). -/
structure Fab where
  head : Head
  ord : Ord
  a : Src
  b : Src
  c : Src
  deriving DecidableEq, Repr

/-- One source and a result: `COLL`, `NSIG.DEC`, `NSIG.CAN`, `MXSTAT.CLR` (R429, R431, R460). -/
structure Coll where
  head : Head
  d : Dst
  a : Src
  imm : Word
  deriving DecidableEq, Repr

/-- Two sources and a result: `LAUNCH`, `NSIG.ARM`, `NSIG.QRY` (R430, R431). -/
structure Launch where
  head : Head
  d : Dst
  a : Src
  b : Src
  imm : Word
  deriving DecidableEq, Repr

/-- `MXOP` (R443). -/
structure Mxop where
  head : Head
  a : Src
  b : Src
  imm : Word
  deriving DecidableEq, Repr

/-- `MXACC` (R457): format and operand group. -/
structure Mxacc where
  head : Head
  f : BitVec 3
  g : BitVec 8
  deriving DecidableEq, Repr

/-! ## Data that device events carry from outside -/

/-- One entry of the quad map (R31). -/
structure QuadEntry where
  ok : Bool
  die : Bool
  pq : BitVec 5
  deriving DecidableEq, Repr

/-- A firmware image with its signature and its version (R34, R35, R103). -/
structure Firmware where
  image : List Byte
  signature : List Byte
  version : DWord
  deriving DecidableEq, Repr

/-- What bring-up meets (R34): the fuses, the images of the flash, absent stacks, failing quads, port lanes. -/
structure BootReport where
  /-- step 1 succeeds -/
  romOk : Bool
  /-- the image tried first -/
  main : Firmware
  /-- the alternate image -/
  alt : Firmware
  /-- what the repair record names: logical quads and the physical quads that took their places before shipment -/
  record : List (Nat × BitVec 5)
  /-- the bytes of the repair record, which MEAS1 covers -/
  repairRecord : List Byte
  /-- the process monitors, as step 4 reads them -/
  process : List Nat
  /-- HBM stacks in which step 4 spares a row or a bank -/
  spares : List Nat
  /-- HBM stacks that failed training -/
  absentStacks : List Nat
  /-- physical quads that fail their test: die and quad -/
  badQuads : List (Bool × BitVec 5)
  /-- lanes in service of each of the 16 ports -/
  laneOk : List (BitVec 8)
  /-- routes of the fabric routing table: destination module and the ports in order (R46) -/
  routes : List (Nat × List Nat)
  /-- the module's own number in the pod -/
  self : BitVec 11
  /-- the sweeper's period in µs that Fevar sets (R218) -/
  sweep : Nat
  deriving DecidableEq, Repr

/-- One reading of the monitors (R25); temperatures in quarters of a degree. -/
structure Sample where
  /-- one sensor per physical quad -/
  quads : List Int
  /-- eight sensors along each edge of each die -/
  edges : List Int
  /-- one sensor at each HBM site -/
  hbm : List Int
  coolIn : Int
  coolOut : Int
  /-- cores whose droop monitor reports a dip -/
  droops : List Nat
  /-- power of each supply rail averaged over 10 µs, in watts -/
  rails : List Nat
  /-- module power averaged over 1 ms, in watts -/
  power1000 : Nat
  deriving DecidableEq, Repr

/-- The die and HBM sensors of a sample. -/
def Sample.temps (m : Sample) : List Int := m.quads ++ m.edges ++ m.hbm

/-- Module power averaged over 10 µs. -/
def Sample.power10 (m : Sample) : Nat := m.rails.sum

/-- Energy measured in one 10 µs update, in µJ (R29, R30). -/
structure EnergyReport where
  /-- logical core and its own energy -/
  cores : List (Nat × Nat)
  /-- logical quad and its engine's own energy -/
  engines : List (Nat × Nat)
  /-- kind of request (0 L2 and HBM, 1 tier 2, 2 fabric) and the energy of the requests of the kind -/
  requests : List (Nat × Nat)
  /-- energy of the whole module -/
  module : Nat
  deriving DecidableEq, Repr

/-- The unsupported host requests of R74. -/
inductive HostRequest where
  | ats | pasid | intx | ioSpace | peerToPeer
  deriving DecidableEq, Repr

/-- A quad that has failed (R32), and whether it still responds, so that its gangs can be saved (R124). -/
structure QuadFault where
  quad : Nat
  responds : Bool
  deriving DecidableEq, Repr

/-- A gang to be saved, by the slot-table entry of one of its blocks, and whether an uncorrectable error prevents the save (R124). -/
structure Saving where
  ent : Nat
  lost : Bool
  deriving DecidableEq, Repr

/-- Hidden structures of R285. -/
inductive HiddenPlace where
  /-- attributed to the gang of a slot-table entry -/
  | slotEntry (core ent : Nat)
  /-- a saved context image -/
  | image (node block : Nat)
  /-- FORMAT and LANES of a saved image's header, found at its restore (R128) -/
  | imageHeader (node block format lanes : Nat)
  /-- a node-table entry -/
  | nodeEntry (node : Nat)
  /-- nothing it can be attributed to -/
  | unattributed
  deriving DecidableEq, Repr

/-- Where a corrected error was found (R284, R290). -/
structure Corrected where
  src : BitVec 4
  core : Nat
  syndrome : BitVec 16
  paddr : DWord
  deriving DecidableEq, Repr

/-- The reserved fields of a packet's header, by word (R39): all zero in a valid packet. -/
structure Reserved where
  /-- word 0, bits 15:14, 31:27, 47:43 and 63:56 -/
  w0a : BitVec 2
  w0b : BitVec 5
  w0c : BitVec 5
  w0d : BitVec 8
  /-- word 1, bits 63:45 -/
  w1 : BitVec 19
  /-- word 2, bits 63:54 -/
  w2 : BitVec 10
  /-- word 5, bits 63:20 -/
  w5 : BitVec 44
  w6 : DWord
  w7 : DWord
  deriving DecidableEq, Repr

/-- A fabric packet (R39): the fields of its eight-word header, LEN being the length of the payload. `marks`, `follows` and
`port` go beside the header (assumption 24). -/
structure Packet where
  kind : BitVec 8
  cls : BitVec 2
  path : BitVec 4
  smod : BitVec 11
  dmod : BitVec 11
  sten : BitVec 4
  dten : BitVec 4
  seq : Word
  addr : CodeAddr
  opnd : DWord
  opnd2 : DWord
  signode : BitVec 16
  sigkind : BitVec 4
  rsv : Reserved
  payload : List Byte
  /-- poisoned granules, counted from the one that holds ADDR, or elements of step data that carry a clamp mark (R67, R287) -/
  marks : List Nat
  /-- the flush markers that the destination gathers first: tenants and SEQ of each (R50) -/
  follows : List (BitVec 4 × BitVec 4 × Word)
  /-- the port by which the packet leaves its module; none where it crosses no link (R46, R427) -/
  port : Option Nat
  deriving DecidableEq, Repr

/-- What another member of a communicator has posted, and the contracts that it carries (R58, R59). -/
structure SetupReport where
  rank : Nat
  size : Nat
  mode : Nat
  ceil : Nat
  /-- its RANKMAP: module and tenant of each rank -/
  ranks : List (Nat × Nat)
  /-- contract numbers that it carries with a SPEED other than 15 -/
  contracts : List Nat
  deriving DecidableEq, Repr

/-- The time limit of a set-up has passed: at this member, or as another that did post tells it (R58). -/
structure SetupExpiry where
  comm : BitVec 8
  elsewhere : Bool
  deriving DecidableEq, Repr

/-- An uncorrectable error that the accesses of a cycle find, or that arises in memory (R284, R298). -/
inductive FoundError where
  /-- a register of the shed's thread in a lane, frame-relative -/
  | vreg (lane i : Nat)
  /-- a condition register of the shed's thread in a lane -/
  | creg (lane : Nat) (k : BitVec 2)
  /-- a uniform register of the shed's block -/
  | ureg (i : Nat)
  /-- a latch of the lane of the shed's thread -/
  | latch (lane : Nat) (k : BitVec 2)
  /-- a granule of the core's SRAM in use as scratchpad -/
  | scratch (g : Nat)
  /-- a granule of a line of the core's L1 -/
  | l1 (line g : Nat)
  /-- a granule of physical memory, or of its copy in L2, in which an error arises that the next read finds -/
  | memory (granule : Nat) (l2 : Bool)
  deriving DecidableEq, Repr

/-- An error and the syndrome of its code (R291). -/
structure Found where
  error : FoundError
  syndrome : Word
  deriving DecidableEq, Repr

/-- What one cycle of a partition meets from outside the program: L1 lines evicted, TLB entries replaced
(R198, R233), the lane at which a twin issue differs (R295), and uncorrectable errors found (R284). -/
structure CycleEnv where
  evict : List Nat
  dropTlb : List Nat
  twinLane : Option Nat
  found : List Found
  deriving DecidableEq, Repr

/-- What a pass of a matrix engine meets from outside the program: whether it fails its residue check (R463), and the uncorrectable
errors that it finds in granules of its tile and in entries, by row and column, of its bank, with their syndromes (R284). -/
structure PassEnv where
  residueFails : Bool
  tile : List (Nat × Word)
  acc : List (Nat × Nat × Word)
  deriving DecidableEq, Repr

/-- The instructions and events of the part: one constructor per row of the opcode table. -/
inductive Instr where
  -- bring-up, power and repair
  | moduleReset (r : BootReport)
  | linkTraining (width rate : Nat)
  | unsupportedRequest (fn : Nat) (q : HostRequest)
  | liveFirmwareUpdate (fw : Firmware)
  | monitorSample (m : Sample)
  | powerAlarmClear
  | thermalTripEnd
  | processMonitorRead (counts : List Nat)
  | energyMeterUpdate (e : EnergyReport)
  | planningInterval
  | pwrlimWrite (v : Word)
  | quadFailureRepair (quad : QuadFault)
  | quadRemap (quad : Nat) (pq : BitVec 5)
  | hbmRowSpare (stack : Nat)
  | hbmPageRetire (frames : List Nat)
  | fabricLaneRetire (port : Nat) (lane : Nat)
  | moduleHotSwap (module : BitVec 11)
  | memoryScrub
  | hiddenStructureError (place : HiddenPlace) (syndrome : Word)
  | correctedError (c : Corrected)
  -- host interface
  | launchSlotWrite (vf : Nat) (off : Nat) (bytes : List Byte)
  | launchCommit (vf : Nat) (off : Nat) (bytes : List Byte)
  | slotStatusRead (vf slot : Nat)
  | tcfgWrite (t : Nat) (v : DWord)
  | memoryWindowWrite (t : Nat) (off : Nat) (v : DWord)
  | peerEntryWrite (t : Nat) (e : Nat) (v : DWord)
  | pathcfgWrite (t : Nat) (v : DWord)
  | agemaxWrite (t : Nat) (v : DWord)
  | ptrootWrite (vf : Nat) (v : DWord)
  | stampWrite (vf : Nat) (idx : Nat) (v : Word)
  | tmeasinWrite (vf : Nat) (v : DWord)
  | attestationReport (fn : Nat)
  | attestationCertificate (fn : Nat)
  | attestationRequestEnd (written : Bool)
  | registerWrite (fn : Nat) (off : Nat) (size : Nat) (v : DWord)
  | flinkRead (fn : Nat) (port : Nat)
  | msixUnmask (fn : Nat) (vec : Nat)
  | functionLevelReset (vf : Nat)
  | apertureRead (vf : Nat) (off : Nat) (size : Nat)
  | apertureWrite (vf : Nat) (off : Nat) (bytes : List Byte)
  -- fabric
  | flitLinkCheckFailure (port : Nat)
  | writePacket (port : Nat) (p : Packet)
  | writeWithSignalPacket (port : Nat) (p : Packet)
  | readRequestPacket (port : Nat) (p : Packet)
  | readResponsePacket (port : Nat) (p : Packet)
  | atomicRequestPacket (port : Nat) (p : Packet)
  | atomicResponsePacket (port : Nat) (p : Packet)
  | flushMarkerPacket (port : Nat) (p : Packet)
  | markerAckPacket (port : Nat) (p : Packet)
  | deliveryAckPacket (port : Nat) (p : Packet)
  | deliveryRefusalPacket (port : Nat) (p : Packet)
  | packetResendTimeout (dmod : BitVec 11) (sten dten : BitVec 4) (seq : Word)
  | remoteHoldTimeout (smod : BitVec 11) (sten dten : BitVec 4) (seq : Word)
  | stepReadyPacket (port : Nat) (p : Packet)
  | stepDataPacket (port : Nat) (p : Packet)
  | barrierArrivalPacket (port : Nat) (p : Packet)
  | barrierReleasePacket (port : Nat) (p : Packet)
  | commSetupComplete (comm : BitVec 8) (others : List SetupReport)
  | commSetupTimeout (e : SetupExpiry)
  | stepMatchTimeout (chain : Nat)
  -- collective steps
  | exchr (chain : Nat)
  | exchc (chain : Nat)
  | send (chain : Nat)
  | recv (chain : Nat)
  | rscat (chain : Nat)
  | allred (chain : Nat)
  | agath (chain : Nat)
  | barrier (chain : Nat)
  | collStepComplete (chain : Nat)
  -- scheduler
  | gangBind
  | gangStart (quad : Nat) (node : Nat)
  | gangPreempt (core : Nat) (ent : Saving)
  | gangRestore (node block : Nat)
  | blockEnd (core ent : Nat)
  -- execution
  | issueOpportunity (core part : Nat) (env : CycleEnv)
  | gapElapsed (core ent tid : Nat)
  | yieldWake (core ent tid : Nat)
  | loadDataReturn (core ent tid : Nat)
  | fetchBlockFill (core ent tid : Nat)
  | granuleFill (core ent tid g : Nat)
  -- translation
  | pageWalk (core : Nat) (t : Nat) (va : CodeAddr) (write : Bool)
  | walkRetry (t : Nat)
  | sideLogReplay (core : Nat)
  | sweeperVisit (t : Nat)
  | translationServicePoll (t : Nat)
  | inval (t : Nat)
  | perm (t : Nat)
  | migrate (t : Nat)
  -- engines
  | copyComplete (core ent idx : Nat)
  | fabricCommandComplete (id : Nat)
  | matrixGrant (quad : Nat)
  | matrixPass (quad : Nat) (env : PassEnv)
  | matrixComplete (quad : Nat)
  -- recovery
  | snapshotPoint (core ent : Nat)
  | rollback (core ent : Nat)
  | verifyTimeout (core ent tid : Nat)
  -- control flow
  | nop (p : Plain)
  | bra (p : Branch)
  | brx (p : BranchX)
  | call (p : Call)
  | callx (p : CallX)
  | ret (p : Plain)
  | exit (p : Plain)
  | demote (p : Plain)
  | yield (p : Plain)
  | trap (p : TrapN)
  | tret (p : Plain)
  | loop (p : Loop)
  | bkpt (p : Bkpt)
  -- integer
  | iadd (p : Alu2)
  | isub (p : Alu2)
  | iadc (p : AluC)
  | isbc (p : AluC)
  | imul (p : Alu2)
  | imulh (p : Alu2)
  | imad (p : Alu3)
  | imadw (p : Alu3)
  | imin (p : Alu2)
  | imax (p : Alu2)
  | iabs (p : Alu1)
  | isad (p : Alu3)
  | icmp (p : Cmp2)
  | sel (p : Sel)
  | iadd3 (p : Alu3)
  | idivQ (p : Alu2)
  | idivR (p : Alu2)
  -- logic and bits
  | and (p : Alu2)
  | or (p : Alu2)
  | xor (p : Alu2)
  | andn (p : Alu2)
  | bool3 (p : Bool3)
  | shl (p : Alu2)
  | shr (p : Alu2)
  | sar (p : Alu2)
  | rotL (p : Alu2)
  | rotR (p : Alu2)
  | fshfL (p : Alu3)
  | fshfR (p : Alu3)
  | bfx (p : Alu2)
  | bfi (p : Alu3)
  | popc (p : Alu1)
  | clz (p : Alu1)
  | brev (p : Alu1)
  | permb (p : Permb)
  -- move, uniform and system
  | mov (p : Alu1)
  | movi (p : Movi)
  | sset (p : Sset)
  | ssetLo (p : Sset)
  | ssetHi (p : Sset)
  | sadd (p : Sadd)
  | sld (p : Sld)
  | rdsr (p : Rdsr)
  | wrsr (p : Wrsr)
  | rand (p : Rand)
  | electWv (p : DstOnly)
  | electBlk (p : DstOnly)
  -- floating point
  | fadd (p : Fp2)
  | fsub (p : Fp2)
  | fmul (p : Fp2)
  | ffma (p : Fp3)
  | fmin (p : Fp2)
  | fmax (p : Fp2)
  | fcmp (p : Fcmp)
  | frnd (p : Fp1)
  | fcls (p : Fp2)
  | fscl (p : Fp2)
  | hadd2 (p : Fp2)
  | hmul2 (p : Fp2)
  | hfma2 (p : Fp3)
  | hmnmx2 (p : Hmnmx)
  | hdot2 (p : Fp3)
  -- conversion and special functions
  | cvt (p : Cvt)
  | cvtpP (p : CvtpP)
  | cvtpU (p : CvtpU)
  | qscale (p : Qscale)
  | qnt (p : Qnt)
  | dqnt (p : Dqnt)
  | rcp (p : Fp1)
  | rsq (p : Fp1)
  | sqrt (p : Fp1)
  | exp2 (p : Fp1)
  | log2 (p : Fp1)
  | sinpi (p : Fp1)
  | cospi (p : Fp1)
  | tanh (p : Fp1)
  -- cross-lane
  | xshf (p : Xshf)
  | xred (p : Xred)
  | xscan (p : Xred)
  | xvote (p : Xvote)
  | xcmx (p : Xcmx)
  | meet (p : Plain)
  -- memory
  | ld (p : Ld)
  | st (p : St)
  | atom (p : Atom)
  | red (p : Red)
  | cas (p : Cas)
  | atfx (p : St)
  | ldfx (p : Ld)
  | pref (p : Pref)
  -- synchronisation
  | barInit (p : BarV)
  | barExpect (p : BarV)
  | barArrive (p : BarD)
  | barWait (p : BarV)
  | barArrwait (p : BarD)
  | phaseAcq (p : Scoped)
  | phaseRel (p : Scoped)
  | phaseAr (p : Scoped)
  | fence (p : Scoped)
  | waita (p : Waita)
  -- engines
  | cpyLin (p : Cpy)
  | cpyGath (p : Cpy)
  | cpytG2s (p : Cpy)
  | cpytS2g (p : Cpy)
  | put (p : Fab)
  | puts (p : Fab)
  | get (p : Fab)
  | collStep (p : Coll)
  | collSetup (p : Coll)
  | collFree (p : Coll)
  | launch (p : Launch)
  | nsigArm (p : Launch)
  | nsigDec (p : Coll)
  | nsigCan (p : Coll)
  | nsigQry (p : Launch)
  -- matrix
  | mxop (p : Mxop)
  | mxldb (p : Mxldb)
  | mxaccZero (p : Mxacc)
  | mxaccLd (p : Mxacc)
  | mxaccSt (p : Mxacc)
  | mxaccFree (p : Mxacc)
  | mxstat (p : DstOnly)
  | mxstatClr (p : Coll)
  -- host and collective rows at the end of the table
  | sriovVfEnable (numVfs : Nat)
  | chainStepReadTimeout (chain : Nat)
  deriving DecidableEq, Repr

end Sys2Proof
end

