-- ==== Sys2Proof/WellFormed.lean ====
section
/-! DEFINITION. Which instructions are well formed: the operand, guard and hint rules of R313 to R318 and of each opcode's table. -/

namespace Sys2Proof

/-- Types of 64 bits (R319). -/
def Ty.wide : Ty → Bool
  | .i64 => true
  | .n64 => true
  | .f64 => true
  | _ => false

/-- The guard rules of R316: COND 15 is illegal, and COND 14 needs CSEL zero. -/
def Head.guardOk (h : Head) : Bool :=
  h.cond != 15 && (h.cond != 14 || h.csel == 0)

/-- A source is a vector register. -/
def Src.isVec : Src → Bool
  | .v _ => true
  | _ => false

/-- A source reads IMM (R312). -/
def Src.isImm : Src → Bool
  | .sp .imm => true
  | .sp .immhi => true
  | .sp .immz => true
  | _ => false

/-- A last-use mark needs a vector register in a source that the opcode uses (R318). -/
def markOk (mark : Bool) (s : Option Src) : Bool :=
  !mark || (match s with | some x => x.isVec | none => false)

/-- The hint rules of R318 and R162: `last` opcodes may only end a chain. -/
def Head.hintOk (h : Head) (last : Bool) (a b c : Option Src) : Bool :=
  !(last && h.chain) && markOk h.lua a && markOk h.lub b && markOk h.luc c

/-- The operand rules of R311 and R313 for one source: even pairs, and immediates only where allowed. -/
def Src.ok (wide immOk : Bool) : Src → Bool
  | .v r => !wide || r.getLsbD 0 == false
  | .s _ => true
  | .b _ => true
  | .sp .imm => immOk
  | .sp .immz => immOk
  | .sp .immhi => immOk && wide
  | .sp _ => true

/-- The destination rules of R314 and R311. -/
def Dst.ok (wide cceOk nwbOk : Bool) (d : Dst) : Bool :=
  (!d.nwb || (nwbOk && d.reg == 0)) && (!d.cce || cceOk) && (d.cce || d.cct == 0)
    && (!wide || d.reg.getLsbD 0 == false)

/-- IMM is zero unless some source reads it (R341). -/
def immUsed (imm : Word) (ss : List Src) : Bool :=
  imm == 0 || ss.any Src.isImm

/-- A record operand is named by a register number that is a multiple of 4 (R177). -/
def recordOk (r : BitVec 8) : Bool := r.extractLsb' 0 2 == 0

/-- A memory operand (R404): a record and a 32-bit index that is not an immediate. -/
def MemOp.ok (m : MemOp) : Bool := recordOk m.rcd && m.x.ok false false

def intTys : List Ty := [.i32, .i64, .n32, .n64]
def fpTys : List Ty := [.f32, .f64]
def hTys : List Ty := [.f16, .bf16]

def Plain.wf (last : Bool) (p : Plain) : Bool :=
  p.head.guardOk && p.head.hintOk last none none none

def Branch.wf (p : Branch) : Bool := p.head.guardOk && p.head.hintOk true none none none

/-- Targets of `BRX` and `CALLX` admit no special source but the immediates (R343). -/
def targetOk (a : Src) : Bool :=
  a.ok true true && (match a with | .sp _ => a.isImm | _ => true)

def BranchX.wf (p : BranchX) : Bool :=
  p.head.guardOk && p.head.hintOk true (some p.a) none none && targetOk p.a && immUsed p.imm [p.a]

def Call.wf (p : Call) : Bool := p.head.guardOk && p.head.hintOk true none none none

def CallX.wf (p : CallX) : Bool :=
  p.head.guardOk && p.head.hintOk true (some p.a) none none && targetOk p.a && immUsed p.imm [p.a]

def TrapN.wf (p : TrapN) : Bool := p.head.guardOk && p.head.hintOk true none none none
def Bkpt.wf (p : Bkpt) : Bool := p.head.guardOk && p.head.hintOk true none none none
def Loop.wf (p : Loop) : Bool := p.head.guardOk && p.head.hintOk true none none none

/-- Two sources of the type's width unless `bw` says that source B is 32 bits, `dw` that the result is. -/
def Alu2.wf (tys : List Ty) (satOk cceOk b32 : Bool) (p : Alu2) : Bool :=
  p.head.guardOk && p.head.hintOk false (some p.a) (some p.b) none && tys.contains p.ty && (!p.sat || satOk)
    && p.d.ok p.ty.wide cceOk true && p.a.ok p.ty.wide true && p.b.ok (p.ty.wide && !b32) true
    && immUsed p.imm [p.a, p.b]

def AluC.wf (p : AluC) : Bool :=
  p.head.guardOk && p.head.hintOk false (some p.a) (some p.b) none && intTys.contains p.ty
    && p.d.ok p.ty.wide true true && p.a.ok p.ty.wide true && p.b.ok p.ty.wide true && immUsed p.imm [p.a, p.b]

/-- Three sources; each width flag says whether that operand is a pair. -/
def Alu3.wf (tys : List Ty) (satOk dw aw bw cw : Bool) (p : Alu3) : Bool :=
  p.head.guardOk && p.head.hintOk false (some p.a) (some p.b) (some p.c) && tys.contains p.ty && (!p.sat || satOk)
    && p.d.ok dw true true && p.a.ok aw false && p.b.ok bw false && p.c.ok cw false

/-- Source C of `IMADW`: a register pair, a uniform register, a latch or `%zero` (R357). -/
def Src.addend : Src → Bool
  | .sp .zero => true
  | .sp _ => false
  | _ => true

def Alu1.wf (tys : List Ty) (satOk cceOk d32 : Bool) (p : Alu1) : Bool :=
  p.head.guardOk && p.head.hintOk false (some p.a) none none && tys.contains p.ty && (!p.sat || satOk)
    && p.d.ok (p.ty.wide && !d32) cceOk true && p.a.ok p.ty.wide true && immUsed p.imm [p.a]

def Cmp2.wf (p : Cmp2) : Bool :=
  p.head.guardOk && p.head.hintOk false (some p.a) (some p.b) none && intTys.contains p.ty
    && p.d.ok p.ty.wide true true && p.a.ok p.ty.wide true && p.b.ok p.ty.wide true && immUsed p.imm [p.a, p.b]

def Sel.wf (p : Sel) : Bool :=
  p.head.guardOk && p.head.hintOk false (some p.a) (some p.b) none && [Ty.n32, .n64].contains p.ty
    && p.d.ok p.ty.wide false true && p.a.ok p.ty.wide false && p.b.ok p.ty.wide false
    && p.cond != 14 && p.cond != 15

def Bool3.wf (p : Bool3) : Bool :=
  p.head.guardOk && p.head.hintOk false (some p.a) (some p.b) (some p.c) && intTys.contains p.ty
    && p.d.ok p.ty.wide true true && p.a.ok p.ty.wide false && p.b.ok p.ty.wide false && p.c.ok p.ty.wide false

/-- The table of `PERMB` is a vector register or a uniform register of a number that is a multiple of 4 (R365). -/
def Permb.wf (p : Permb) : Bool :=
  p.head.guardOk && p.head.hintOk false (some p.a) (some p.tbl) none && p.d.ok false false true
    && p.a.ok false true && (match p.tbl with | .v _ => true | .s r => recordOk r | _ => false)
    && immUsed p.imm [p.a]

def Movi.wf (p : Movi) : Bool :=
  p.head.guardOk && p.head.hintOk false (if p.wide then some p.a else none) none none && p.d.ok p.wide false true
    && (if p.wide then p.a.ok false false else p.a == .v 0)

def Sset.wf (wide : Bool) (p : Sset) : Bool :=
  p.head.guardOk && p.head.hintOk false (some p.a) none none && p.a.ok wide true && immUsed p.imm [p.a]

def Sadd.wf (p : Sadd) : Bool :=
  p.head.guardOk && p.head.hintOk false (some p.a) (some p.b) none && p.d.ok false true false
    && p.a.ok true true && p.b.ok true true && immUsed p.imm [p.a, p.b]

def Sld.wf (p : Sld) : Bool :=
  p.head.guardOk && p.head.hintOk true none (some p.x) none && recordOk p.rcd && p.x.ok false false

/-- The numbers of R331; `RDSR` and `WRSR` with any other are illegal. -/
def statusNumber (n : BitVec 12) : Bool :=
  decide (n.toNat ≤ 8) || (decide (0x10 ≤ n.toNat) && decide (n.toNat ≤ 0x1F))

def Rdsr.wf (p : Rdsr) : Bool :=
  p.head.guardOk && p.head.hintOk true none none none && p.d.ok p.wide false true && statusNumber p.num

def Wrsr.wf (p : Wrsr) : Bool :=
  p.head.guardOk && p.head.hintOk true (some p.a) none none && p.a.ok p.wide false && statusNumber p.num

def Rand.wf (p : Rand) : Bool :=
  p.head.guardOk && p.head.hintOk false none none none && p.d.ok p.wide false true

def DstOnly.wf (cceOk : Bool) (p : DstOnly) : Bool :=
  p.head.guardOk && p.head.hintOk true none none none && p.d.ok false cceOk true

def Fp1.wf (tys : List Ty) (p : Fp1) : Bool :=
  p.head.guardOk && p.head.hintOk false (some p.a) none none && tys.contains p.ty
    && p.d.ok p.ty.wide false true && p.a.ok p.ty.wide true && immUsed p.imm [p.a]

/-- `rndOk` admits a rounding code; `d32` and `b32` make the destination or source B a single register. -/
def Fp2.wf (tys : List Ty) (rndOk cceOk d32 b32 : Bool) (p : Fp2) : Bool :=
  p.head.guardOk && p.head.hintOk false (some p.a) (some p.b) none && tys.contains p.ty && (rndOk || p.rnd == .rne)
    && p.d.ok (p.ty.wide && !d32) cceOk true && p.a.ok p.ty.wide true && p.b.ok (p.ty.wide && !b32) true
    && immUsed p.imm [p.a, p.b]

def Fp3.wf (tys : List Ty) (rndOk : Bool) (p : Fp3) : Bool :=
  p.head.guardOk && p.head.hintOk false (some p.a) (some p.b) (some p.c) && tys.contains p.ty
    && (rndOk || p.rnd == .rne) && p.d.ok p.ty.wide false true && p.a.ok p.ty.wide false
    && p.b.ok p.ty.wide false && p.c.ok p.ty.wide false

def Fcmp.wf (p : Fcmp) : Bool :=
  p.head.guardOk && p.head.hintOk false (some p.a) (some p.b) none && fpTys.contains p.ty
    && p.d.ok false true true && p.a.ok p.ty.wide true && p.b.ok p.ty.wide true && immUsed p.imm [p.a, p.b]

def Hmnmx.wf (p : Hmnmx) : Bool :=
  p.head.guardOk && p.head.hintOk false (some p.a) (some p.b) none && hTys.contains p.ty
    && p.d.ok false false true && p.a.ok false true && p.b.ok false true && immUsed p.imm [p.a, p.b]

def Cvt.wf (p : Cvt) : Bool :=
  p.head.guardOk && p.head.hintOk false (some p.a) none none && p.dty != .qs && p.sty != .qs
    && p.d.ok p.dty.wide false true && p.a.ok p.sty.wide true && immUsed p.imm [p.a]

/-- Elements of a 32-bit word in each format (R384). -/
def EF.count : EF → Nat
  | .i8 => 4
  | .n8 => 4
  | .nib => 8
  | .nibn => 8
  | .f4 => 8
  | .tr => 16
  | .f16 => 2
  | .bf16 => 2

/-- Formats that `QNT` and `DQNT` accept (R385). -/
def EF.quantised : EF → Bool
  | .f16 => false
  | .bf16 => false
  | _ => true

def CvtpP.wf (p : CvtpP) : Bool :=
  p.head.guardOk && p.head.hintOk false (some p.a) none (some p.q) && decide (p.i.toNat < p.ef.count)
    && p.d.ok false false true && p.a.ok false false && p.q.ok false false

def CvtpU.wf (p : CvtpU) : Bool :=
  p.head.guardOk && p.head.hintOk false (some p.q) none none && decide (p.i.toNat < p.ef.count)
    && p.d.ok false false true && p.q.ok false false

def Qscale.wf (p : Qscale) : Bool :=
  p.head.guardOk && p.head.hintOk false (some p.a) none none && [EF.i8, .nib, .f4, .tr].contains p.ef
    && p.d.ok false true true && p.a.ok false true && immUsed p.imm [p.a]

def Qnt.wf (p : Qnt) : Bool :=
  p.head.guardOk && p.head.hintOk false (some p.a) (some p.s) (some p.q) && p.ef.quantised
    && decide (p.i.toNat < p.ef.count) && p.d.ok false false true && p.a.ok false false && p.s.ok false false
    && p.q.ok false false

def Dqnt.wf (p : Dqnt) : Bool :=
  p.head.guardOk && p.head.hintOk false (some p.q) (some p.s) none && p.ef.quantised
    && decide (p.i.toNat < p.ef.count) && p.d.ok false false true && p.q.ok false false && p.s.ok false false

def Xshf.wf (p : Xshf) : Bool :=
  p.head.guardOk && p.head.hintOk true (some p.a) (some p.b) none && p.d.ok p.wide false true
    && p.a.ok p.wide true && p.b.ok false true && immUsed p.imm [p.a, p.b]

/-- Bitwise operations take integer types only (R395). -/
def RedOp.bitwise : RedOp → Bool
  | .and => true
  | .or => true
  | .xor => true
  | _ => false

def Xred.wf (excOk : Bool) (p : Xred) : Bool :=
  p.head.guardOk && p.head.hintOk true (some p.a) none none && (intTys.contains p.ty || fpTys.contains p.ty)
    && !(p.op.bitwise && fpTys.contains p.ty) && (!p.exc || excOk) && p.d.ok p.ty.wide false true
    && p.a.ok p.ty.wide true && immUsed p.imm [p.a]

def Xvote.wf (p : Xvote) : Bool :=
  p.head.guardOk && p.head.hintOk true (some p.a) none none && (p.k == 0 || p.op == .map)
    && p.d.ok false true true && p.a.ok false true && immUsed p.imm [p.a]

def Xcmx.wf (p : Xcmx) : Bool :=
  p.head.guardOk && p.head.hintOk true (some p.a) (some p.b) none && [Ty.i32, .n32, .f32].contains p.ty
    && p.d.ok true false false && p.a.ok false false && p.b.ok false false

/-- Types of `LD` and `ST`: codes 0 to 11 (R405). -/
def Ty.memory : Ty → Bool
  | .f4 => false
  | .tr => false
  | .qs => false
  | _ => true

def Ld.wf (fx : Bool) (p : Ld) : Bool :=
  p.head.guardOk && p.head.hintOk true none (some p.m.x) none
    && (if fx then fpTys.contains p.ty else p.ty.memory) && (p.ord == .rlx || p.ord == .acq)
    && p.d.ok p.ty.wide false true && p.m.ok

def St.wf (fx : Bool) (p : St) : Bool :=
  p.head.guardOk && p.head.hintOk true none (some p.m.x) (some p.c)
    && (if fx then fpTys.contains p.ty else p.ty.memory) && (p.ord == .rlx || p.ord == .rel)
    && p.m.ok && p.c.ok p.ty.wide false

def Atom.wf (p : Atom) : Bool :=
  p.head.guardOk && p.head.hintOk true none (some p.m.x) (some p.c) && intTys.contains p.ty
    && p.d.ok p.ty.wide false true && p.m.ok && p.c.ok p.ty.wide false

def Red.wf (p : Red) : Bool :=
  p.head.guardOk && p.head.hintOk true none (some p.m.x) (some p.c) && intTys.contains p.ty && p.op != .exch
    && (p.ord == .rlx || p.ord == .rel) && p.m.ok && p.c.ok p.ty.wide false

/-- The group of `CAS` starts at an even register, or at a multiple of 4 for 64-bit types (R408). -/
def Cas.wf (p : Cas) : Bool :=
  p.head.guardOk && p.head.hintOk true none (some p.m.x) (some (.v p.g)) && intTys.contains p.ty
    && p.d.ok p.ty.wide true true && p.m.ok
    && (if p.ty.wide then p.g.extractLsb' 0 2 == 0 else p.g.getLsbD 0 == false)

def Pref.wf (p : Pref) : Bool :=
  p.head.guardOk && p.head.hintOk true none (some p.m.x) none && p.m.ok

def BarV.wf (wide : Bool) (p : BarV) : Bool :=
  p.head.guardOk && p.head.hintOk true none (some p.m.x) (some p.c) && p.m.ok && p.c.ok wide false

def BarD.wf (p : BarD) : Bool :=
  p.head.guardOk && p.head.hintOk true none (some p.m.x) none && p.m.ok && p.d.ok false false true

def Scoped.wf (p : Scoped) : Bool := p.head.guardOk && p.head.hintOk true none none none

def Waita.wf (p : Waita) : Bool :=
  p.head.guardOk && p.head.hintOk true none (some p.m.x) none && p.m.ok && p.d.ok false false true

def Cpy.wf (p : Cpy) : Bool :=
  p.head.guardOk && p.head.hintOk true none none (some (.v p.g)) && recordOk p.src && recordOk p.dst

def Mxldb.wf (p : Mxldb) : Bool :=
  p.head.guardOk && p.head.hintOk true none none (some (.v p.g)) && recordOk p.src

/-- The local side is a record with an index, or `%zero` twice (R425); only `PUTS` takes an order. -/
def Fab.wf (ordOk : Bool) (p : Fab) : Bool :=
  p.head.guardOk && p.head.hintOk true none (some p.b) (some p.c)
    && (match p.a with
        | .s r => recordOk r && p.b.ok false false
        | .sp .zero => p.b == .sp .zero
        | _ => false)
    && p.c.ok false false && (p.ord == .rlx || (ordOk && (p.ord == .rel || p.ord == .ar)))

/-- Sources of `COLL` admit no special source but the immediates (R429). -/
def Coll.wfColl (wide : Bool) (p : Coll) : Bool :=
  p.head.guardOk && p.head.hintOk true (some p.a) none none && p.d.ok false false true && p.a.ok wide true
    && (match p.a with | .sp _ => p.a.isImm | _ => true) && immUsed p.imm [p.a]

def Coll.wfNsig (p : Coll) : Bool :=
  p.head.guardOk && p.head.hintOk true (some p.a) none none && p.d.ok false false true && p.a.ok false true
    && immUsed p.imm [p.a]

/-- The mask of `MXSTAT.CLR` is not an immediate (R460). -/
def Coll.wfMask (p : Coll) : Bool :=
  p.head.guardOk && p.head.hintOk true (some p.a) none none && p.d.ok false false true && p.a.ok false false
    && p.imm == 0

def Launch.wf (dw aw : Bool) (p : Launch) : Bool :=
  p.head.guardOk && p.head.hintOk true (some p.a) (some p.b) none && p.d.ok dw false true && p.a.ok aw true
    && p.b.ok false true && immUsed p.imm [p.a, p.b]

def Mxop.wf (p : Mxop) : Bool :=
  p.head.guardOk && p.head.hintOk true (some p.a) none none
    && (match p.a with | .sp .imm => true | .sp .immz => true | .sp _ => false | _ => true)
    && (match p.b with | .sp .zero => true | .s r => recordOk r | _ => false) && immUsed p.imm [p.a]

def Mxacc.wf (fOk : Bool) (p : Mxacc) : Bool :=
  p.head.guardOk && p.head.hintOk true none none (some (.v p.g))
    && (if fOk then decide (p.f.toNat ≤ 4) else p.f == 0)

/-- The length of the data that a register of R77, R80 or R84 takes is not checked here: an event is well
formed when the agents it names exist on the part (R15). -/
def Instr.wf : Instr → Bool
  | .moduleReset r => r.record.all (fun x => decide (x.1 < 48) && decide (x.2.toNat ≤ 24)) && r.laneOk.length == 16
    && decide (1000 ≤ r.sweep) && decide (r.sweep ≤ 1000000)
  | .linkTraining w r => [1, 2, 4, 8, 16].contains w && decide (r ≤ 6)
  | .unsupportedRequest fn _ => decide (fn ≤ 16)
  | .liveFirmwareUpdate _ => true
  | .monitorSample m => m.quads.length == 50 && m.edges.length == 96 && m.hbm.length == 8
  | .powerAlarmClear => true
  | .thermalTripEnd => true
  | .processMonitorRead _ => true
  | .energyMeterUpdate _ => true
  | .planningInterval => true
  | .pwrlimWrite _ => true
  | .quadFailureRepair q => decide (q.quad < Config.quads)
  | .quadRemap q pq => decide (q < Config.quads) && decide (pq.toNat < 25)
  | .hbmRowSpare k => decide (k < 8)
  | .hbmPageRetire _ => true
  | .fabricLaneRetire p l => decide (p < Config.ports) && decide (l < 8)
  | .moduleHotSwap _ => true
  | .memoryScrub => true
  | .hiddenStructureError _ _ => true
  | .correctedError c => decide (c.src.toNat ≤ 13)
  | .launchSlotWrite vf _ _ => decide (vf < Config.tenants)
  | .launchCommit vf _ _ => decide (vf < Config.tenants)
  | .slotStatusRead vf k => decide (vf < Config.tenants) && decide (k < 32)
  | .tcfgWrite t _ => decide (t < Config.tenants)
  | .memoryWindowWrite t _ _ => decide (t < Config.tenants)
  | .peerEntryWrite t e _ => decide (t < Config.tenants) && decide (e < 64)
  | .pathcfgWrite t _ => decide (t < Config.tenants)
  | .agemaxWrite t _ => decide (t < Config.tenants)
  | .ptrootWrite t _ => decide (t < Config.tenants)
  | .stampWrite t i _ => decide (t < Config.tenants) && decide (i < 16)
  | .tmeasinWrite t _ => decide (t < Config.tenants)
  | .attestationReport fn => decide (fn ≤ 16)
  | .attestationCertificate fn => decide (fn ≤ 16)
  | .attestationRequestEnd _ => true
  | .registerWrite fn _ _ _ => decide (fn ≤ 16)
  | .flinkRead fn p => decide (fn ≤ 16) && decide (p < Config.ports)
  | .msixUnmask fn v => decide (fn ≤ 16) && decide (v < 64)
  | .functionLevelReset vf => decide (vf < Config.tenants)
  | .apertureRead vf _ _ => decide (vf < Config.tenants)
  | .apertureWrite vf _ _ => decide (vf < Config.tenants)
  | .flitLinkCheckFailure p => decide (p < Config.ports)
  | .writePacket p _ => decide (p < Config.ports)
  | .writeWithSignalPacket p _ => decide (p < Config.ports)
  | .readRequestPacket p _ => decide (p < Config.ports)
  | .readResponsePacket p _ => decide (p < Config.ports)
  | .atomicRequestPacket p _ => decide (p < Config.ports)
  | .atomicResponsePacket p _ => decide (p < Config.ports)
  | .flushMarkerPacket p _ => decide (p < Config.ports)
  | .markerAckPacket p _ => decide (p < Config.ports)
  | .deliveryAckPacket p _ => decide (p < Config.ports)
  | .deliveryRefusalPacket p _ => decide (p < Config.ports)
  | .packetResendTimeout _ _ _ _ => true
  | .remoteHoldTimeout _ _ _ _ => true
  | .stepReadyPacket p _ => decide (p < Config.ports)
  | .stepDataPacket p _ => decide (p < Config.ports)
  | .barrierArrivalPacket p _ => decide (p < Config.ports)
  | .barrierReleasePacket p _ => decide (p < Config.ports)
  | .commSetupComplete _ _ => true
  | .commSetupTimeout _ => true
  | .stepMatchTimeout _ => true
  | .exchr _ => true
  | .exchc _ => true
  | .send _ => true
  | .recv _ => true
  | .rscat _ => true
  | .allred _ => true
  | .agath _ => true
  | .barrier _ => true
  | .collStepComplete _ => true
  | .gangBind => true
  | .gangStart q _ => decide (q < Config.quads)
  | .gangPreempt c e => decide (c < Config.cores) && decide (e.ent < Config.slotEntries)
  | .gangRestore _ _ => true
  | .blockEnd c e => decide (c < Config.cores) && decide (e < Config.slotEntries)
  | .issueOpportunity c p _ => decide (c < Config.cores) && decide (p < Config.partitions)
  | .gapElapsed c e _ => decide (c < Config.cores) && decide (e < Config.slotEntries)
  | .yieldWake c e _ => decide (c < Config.cores) && decide (e < Config.slotEntries)
  | .loadDataReturn c e _ => decide (c < Config.cores) && decide (e < Config.slotEntries)
  | .fetchBlockFill c e _ => decide (c < Config.cores) && decide (e < Config.slotEntries)
  | .granuleFill c e _ _ => decide (c < Config.cores) && decide (e < Config.slotEntries)
  | .pageWalk c t _ _ => decide (c < Config.cores) && decide (t < Config.tenants)
  | .walkRetry t => decide (t < Config.tenants)
  | .sideLogReplay c => decide (c < Config.cores)
  | .sweeperVisit t => decide (t < Config.tenants)
  | .translationServicePoll t => decide (t < Config.tenants)
  | .inval t => decide (t < Config.tenants)
  | .perm t => decide (t < Config.tenants)
  | .migrate t => decide (t < Config.tenants)
  | .copyComplete c e _ => decide (c < Config.cores) && decide (e < Config.slotEntries)
  | .fabricCommandComplete _ => true
  | .matrixGrant q => decide (q < Config.quads)
  | .matrixPass q _ => decide (q < Config.quads)
  | .matrixComplete q => decide (q < Config.quads)
  | .snapshotPoint c e => decide (c < Config.cores) && decide (e < Config.slotEntries)
  | .rollback c e => decide (c < Config.cores) && decide (e < Config.slotEntries)
  | .verifyTimeout c e _ => decide (c < Config.cores) && decide (e < Config.slotEntries)
  | .nop p => p.wf false
  | .bra p => p.wf
  | .brx p => p.wf
  | .call p => p.wf
  | .callx p => p.wf
  | .ret p => p.wf true
  | .exit p => p.wf true
  | .demote p => p.wf true
  | .yield p => p.wf true
  | .trap p => p.wf
  | .tret p => p.wf true
  | .loop p => p.wf
  | .bkpt p => p.wf
  | .iadd p => p.wf intTys true true false
  | .isub p => p.wf intTys true true false
  | .iadc p => p.wf
  | .isbc p => p.wf
  | .imul p => p.wf intTys true true false
  | .imulh p => p.wf intTys false true false
  | .imad p => p.wf intTys true p.ty.wide p.ty.wide p.ty.wide p.ty.wide
  | .imadw p => p.wf [.i32, .n32] true true false false true && p.c.addend
  | .imin p => p.wf intTys false true false
  | .imax p => p.wf intTys false true false
  | .iabs p => p.wf [.i32, .i64] true true false
  | .isad p => p.wf [.i8, .i32, .n8, .n32] true false false false false
  | .icmp p => p.wf
  | .sel p => p.wf
  | .iadd3 p => p.wf intTys true p.ty.wide p.ty.wide p.ty.wide p.ty.wide
  | .idivQ p => p.wf intTys true true false
  | .idivR p => p.wf intTys false true false
  | .and p => p.wf intTys false true false
  | .or p => p.wf intTys false true false
  | .xor p => p.wf intTys false true false
  | .andn p => p.wf intTys false true false
  | .bool3 p => p.wf
  | .shl p => p.wf intTys false true true
  | .shr p => p.wf intTys false true true
  | .sar p => p.wf intTys false true true
  | .rotL p => p.wf intTys false true true
  | .rotR p => p.wf intTys false true true
  | .fshfL p => p.wf intTys false p.ty.wide p.ty.wide p.ty.wide false
  | .fshfR p => p.wf intTys false p.ty.wide p.ty.wide p.ty.wide false
  | .bfx p => p.wf intTys false true true
  | .bfi p => p.wf intTys false p.ty.wide p.ty.wide false p.ty.wide
  | .popc p => p.wf [.n32, .n64] false true true
  | .clz p => p.wf [.n32, .n64] false true true
  | .brev p => p.wf [.n32, .n64] false true false
  | .permb p => p.wf
  | .mov p => p.wf [.n32, .n64] false false false
  | .movi p => p.wf
  | .sset p => p.wf true
  | .ssetLo p => p.wf false
  | .ssetHi p => p.wf false
  | .sadd p => p.wf
  | .sld p => p.wf
  | .rdsr p => p.wf
  | .wrsr p => p.wf
  | .rand p => p.wf
  | .electWv p => p.wf true
  | .electBlk p => p.wf true
  | .fadd p => p.wf fpTys true false false false
  | .fsub p => p.wf fpTys true false false false
  | .fmul p => p.wf fpTys true false false false
  | .ffma p => p.wf fpTys true
  | .fmin p => p.wf fpTys false false false false
  | .fmax p => p.wf fpTys false false false false
  | .fcmp p => p.wf
  | .frnd p => p.wf fpTys
  | .fcls p => p.wf [.f16, .bf16, .f32, .f64] false true true true
  | .fscl p => p.wf fpTys true false false true
  | .hadd2 p => p.wf hTys true false false false
  | .hmul2 p => p.wf hTys true false false false
  | .hfma2 p => p.wf hTys true
  | .hmnmx2 p => p.wf
  | .hdot2 p => p.wf hTys false
  | .cvt p => p.wf
  | .cvtpP p => p.wf
  | .cvtpU p => p.wf
  | .qscale p => p.wf
  | .qnt p => p.wf
  | .dqnt p => p.wf
  | .rcp p => p.wf [.f32]
  | .rsq p => p.wf [.f32]
  | .sqrt p => p.wf [.f32]
  | .exp2 p => p.wf [.f32]
  | .log2 p => p.wf [.f32]
  | .sinpi p => p.wf [.f32]
  | .cospi p => p.wf [.f32]
  | .tanh p => p.wf [.f32]
  | .xshf p => p.wf
  | .xred p => p.wf false
  | .xscan p => p.wf true
  | .xvote p => p.wf
  | .xcmx p => p.wf
  | .meet p => p.wf true
  | .ld p => p.wf false
  | .st p => p.wf false
  | .atom p => p.wf
  | .red p => p.wf
  | .cas p => p.wf
  | .atfx p => p.wf true
  | .ldfx p => p.wf true
  | .pref p => p.wf
  | .barInit p => p.wf true
  | .barExpect p => p.wf false
  | .barArrive p => p.wf
  | .barWait p => p.wf false
  | .barArrwait p => p.wf
  | .phaseAcq p => p.wf
  | .phaseRel p => p.wf
  | .phaseAr p => p.wf
  | .fence p => p.wf
  | .waita p => p.wf
  | .cpyLin p => p.wf
  | .cpyGath p => p.wf
  | .cpytG2s p => p.wf
  | .cpytS2g p => p.wf
  | .put p => p.wf false
  | .puts p => p.wf true
  | .get p => p.wf false
  | .collStep p => p.wfColl true
  | .collSetup p => p.wfColl true
  | .collFree p => p.wfColl false
  | .launch p => p.wf false true
  | .nsigArm p => p.wf false false
  | .nsigDec p => p.wfNsig
  | .nsigCan p => p.wfNsig
  | .nsigQry p => p.wf true false
  | .mxop p => p.wf
  | .mxldb p => p.wf
  | .mxaccZero p => p.wf false
  | .mxaccLd p => p.wf true
  | .mxaccSt p => p.wf true
  | .mxaccFree p => p.wf false
  | .mxstat p => p.wf false
  | .mxstatClr p => p.wfMask
  | .sriovVfEnable n => decide (n ≤ 16)
  | .chainStepReadTimeout _ => true

end Sys2Proof
end

