-- ==== Sys2Proof/Decode.lean ====
section
/-! DEFINITION. The 96-bit instruction word (R308 to R319), its decoder (R325) and its encoder. -/

namespace Sys2Proof

/-! ## The fields of a word -/

/-- A word taken apart into the fields of R308. -/
structure Fields where
  op : BitVec 8
  mod : BitVec 8
  fd : BitVec 12
  fa : BitVec 12
  fb : BitVec 12
  imm : Word
  head : Head
  deriving DecidableEq, Repr

/-- The GUARD and HINT groups as bits [95:84] (R308). -/
def Head.bits (h : Head) : BitVec 12 :=
  h.gap ++ BitVec.ofBool h.luc ++ BitVec.ofBool h.lub ++ BitVec.ofBool h.lua ++ BitVec.ofBool h.chain
    ++ h.cond ++ h.csel

/-- The GUARD and HINT groups read from bits [95:84]. -/
def Head.ofBits (x : BitVec 12) : Head where
  cond := x.extractLsb' 2 4
  csel := x.extractLsb' 0 2
  chain := x.getLsbD 6
  lua := x.getLsbD 7
  lub := x.getLsbD 8
  luc := x.getLsbD 9
  gap := x.extractLsb' 10 2

/-- The word of its fields (R308). -/
def Fields.pack (f : Fields) : BitVec 96 :=
  f.head.bits ++ f.imm ++ f.fb ++ f.fa ++ f.fd ++ f.mod ++ f.op

/-- The fields of a word (R308). -/
def Fields.unpack (w : BitVec 96) : Fields where
  op := w.extractLsb' 0 8
  mod := w.extractLsb' 8 8
  fd := w.extractLsb' 16 12
  fa := w.extractLsb' 28 12
  fb := w.extractLsb' 40 12
  imm := w.extractLsb' 52 32
  head := Head.ofBits (w.extractLsb' 84 12)

/-! ## Codes -/

def Special.code : Special → BitVec 10
  | .zero => 0x000
  | .imm => 0x001
  | .immhi => 0x002
  | .immz => 0x003
  | .lane => 0x010
  | .weave => 0x011
  | .tid => 0x012
  | .blk => 0x013
  | .rank => 0x014
  | .lanes => 0x015
  | .nthreads => 0x016
  | .gsize => 0x017
  | .gridx => 0x018
  | .gridy => 0x019
  | .gridz => 0x01A
  | .part => 0x01B
  | .slot => 0x01C
  | .core => 0x01D
  | .ctr => 0x01E
  | .time => 0x020

/-- The special source of a code (R312). -/
def Special.ofCode (c : BitVec 10) : Option Special :=
  match c.toNat with
  | 0x000 => some .zero
  | 0x001 => some .imm
  | 0x002 => some .immhi
  | 0x003 => some .immz
  | 0x010 => some .lane
  | 0x011 => some .weave
  | 0x012 => some .tid
  | 0x013 => some .blk
  | 0x014 => some .rank
  | 0x015 => some .lanes
  | 0x016 => some .nthreads
  | 0x017 => some .gsize
  | 0x018 => some .gridx
  | 0x019 => some .gridy
  | 0x01A => some .gridz
  | 0x01B => some .part
  | 0x01C => some .slot
  | 0x01D => some .core
  | 0x01E => some .ctr
  | 0x020 => some .time
  | _ => none

/-- A source field (R310). -/
def Src.enc : Src → BitVec 12
  | .v r => 0#4 ++ r
  | .s r => 4#4 ++ r
  | .b l => 0x800#12 ||| l.zeroExtend 12
  | .sp c => 3#2 ++ c.code

/-- The source of a field; `none` for a reserved bit or an unlisted special code (R310, R312). -/
def Src.dec (f : BitVec 12) : Option Src :=
  match (f.extractLsb' 10 2).toNat with
  | 0 => if f.extractLsb' 8 2 == 0 then some (.v (f.extractLsb' 0 8)) else none
  | 1 => if f.extractLsb' 8 2 == 0 then some (.s (f.extractLsb' 0 8)) else none
  | 2 => if f.extractLsb' 2 8 == 0 then some (.b (f.extractLsb' 0 2)) else none
  | _ => (Special.ofCode (f.extractLsb' 0 10)).map .sp

/-- The destination field (R314). -/
def Dst.enc (d : Dst) : BitVec 12 :=
  BitVec.ofBool d.nwb ++ BitVec.ofBool d.cce ++ d.cct ++ d.reg

def Dst.dec (f : BitVec 12) : Dst where
  nwb := f.getLsbD 11
  cce := f.getLsbD 10
  cct := f.extractLsb' 8 2
  reg := f.extractLsb' 0 8

def Ty.code : Ty → BitVec 4
  | .i8 => 0
  | .i16 => 1
  | .i32 => 2
  | .i64 => 3
  | .n8 => 4
  | .n16 => 5
  | .n32 => 6
  | .n64 => 7
  | .f16 => 8
  | .bf16 => 9
  | .f32 => 10
  | .f64 => 11
  | .f4 => 12
  | .tr => 13
  | .qs => 14

/-- The type of a code of R319; code 15 is reserved. -/
def Ty.ofCode (c : BitVec 4) : Option Ty :=
  match c.toNat with
  | 0 => some .i8
  | 1 => some .i16
  | 2 => some .i32
  | 3 => some .i64
  | 4 => some .n8
  | 5 => some .n16
  | 6 => some .n32
  | 7 => some .n64
  | 8 => some .f16
  | 9 => some .bf16
  | 10 => some .f32
  | 11 => some .f64
  | 12 => some .f4
  | 13 => some .tr
  | 14 => some .qs
  | _ => none

def Rnd.code : Rnd → BitVec 3
  | .rne => 0
  | .rtz => 1
  | .rup => 2
  | .rdn => 3
  | .ctr => 4

/-- The rounding of a code of R319; codes 5 to 7 are reserved. -/
def Rnd.ofCode (c : BitVec 3) : Option Rnd :=
  match c.toNat with
  | 0 => some .rne
  | 1 => some .rtz
  | 2 => some .rup
  | 3 => some .rdn
  | 4 => some .ctr
  | _ => none

def Ord.code : Ord → BitVec 2
  | .rlx => 0
  | .acq => 1
  | .rel => 2
  | .ar => 3

def Ord.ofCode (c : BitVec 2) : Ord :=
  match c.toNat with
  | 0 => .rlx
  | 1 => .acq
  | 2 => .rel
  | _ => .ar

def Scope.code : Scope → BitVec 2
  | .blk => 0
  | .gang => 1
  | .dev => 2
  | .sys => 3

def Scope.ofCode (c : BitVec 2) : Scope :=
  match c.toNat with
  | 0 => .blk
  | 1 => .gang
  | 2 => .dev
  | _ => .sys

def Cmp.code : Cmp → BitVec 3
  | .eq => 0
  | .ne => 1
  | .lt => 2
  | .le => 3
  | .gt => 4
  | .ge => 5

def Cmp.ofCode (c : BitVec 3) : Option Cmp :=
  match c.toNat with
  | 0 => some .eq
  | 1 => some .ne
  | 2 => some .lt
  | 3 => some .le
  | 4 => some .gt
  | 5 => some .ge
  | _ => none

def FCmp.code : FCmp → BitVec 3
  | .eq => 0
  | .ne => 1
  | .lt => 2
  | .le => 3
  | .gt => 4
  | .ge => 5
  | .un => 6

def FCmp.ofCode (c : BitVec 3) : Option FCmp :=
  match c.toNat with
  | 0 => some .eq
  | 1 => some .ne
  | 2 => some .lt
  | 3 => some .le
  | 4 => some .gt
  | 5 => some .ge
  | 6 => some .un
  | _ => none

def EF.code : EF → BitVec 3
  | .i8 => 0
  | .n8 => 1
  | .nib => 2
  | .nibn => 3
  | .f4 => 4
  | .tr => 5
  | .f16 => 6
  | .bf16 => 7

def EF.ofCode (c : BitVec 3) : EF :=
  match c.toNat with
  | 0 => .i8
  | 1 => .n8
  | 2 => .nib
  | 3 => .nibn
  | 4 => .f4
  | 5 => .tr
  | 6 => .f16
  | _ => .bf16

def ShMode.code : ShMode → BitVec 2
  | .up => 0
  | .down => 1
  | .xor => 2
  | .idx => 3

def ShMode.ofCode (c : BitVec 2) : ShMode :=
  match c.toNat with
  | 0 => .up
  | 1 => .down
  | 2 => .xor
  | _ => .idx

def RedOp.code : RedOp → BitVec 3
  | .add => 0
  | .min => 1
  | .max => 2
  | .and => 3
  | .or => 4
  | .xor => 5

def RedOp.ofCode (c : BitVec 3) : Option RedOp :=
  match c.toNat with
  | 0 => some .add
  | 1 => some .min
  | 2 => some .max
  | 3 => some .and
  | 4 => some .or
  | 5 => some .xor
  | _ => none

def VoteOp.code : VoteOp → BitVec 3
  | .orp => 0
  | .andp => 1
  | .map => 2
  | .eqv => 3
  | .cnt => 4
  | .first => 5
  | .below => 6

def VoteOp.ofCode (c : BitVec 3) : Option VoteOp :=
  match c.toNat with
  | 0 => some .orp
  | 1 => some .andp
  | 2 => some .map
  | 3 => some .eqv
  | 4 => some .cnt
  | 5 => some .first
  | 6 => some .below
  | _ => none

def AtomOp.code : AtomOp → BitVec 4
  | .add => 0
  | .min => 1
  | .max => 2
  | .and => 3
  | .or => 4
  | .xor => 5
  | .exch => 6

def AtomOp.ofCode (c : BitVec 4) : Option AtomOp :=
  match c.toNat with
  | 0 => some .add
  | 1 => some .min
  | 2 => some .max
  | 3 => some .and
  | 4 => some .or
  | 5 => some .xor
  | 6 => some .exch
  | _ => none

/-! ## Encoding each shape -/

/-- A single type in MOD[3:0] with a flag in MOD[4] (R319, R355). -/
def tyMod (ty : Ty) (sat : Bool) : BitVec 8 := 0#3 ++ BitVec.ofBool sat ++ ty.code

/-- A type in MOD[3:0] and a 3-bit item in MOD[6:4] (R376). -/
def tyMod3 (ty : Ty) (m : BitVec 3) : BitVec 8 := 0#1 ++ m ++ ty.code

/-- A type, an order and a scope (R405). -/
def memMod (ty : Ty) (o : Ord) (s : Scope) : BitVec 8 := s.code ++ o.code ++ ty.code

/-- IMM of a memory operand (R404): SUBOP, offset and source C. -/
def memImm (sub : BitVec 4) (off : BitVec 16) (c : BitVec 12) : Word := sub ++ off ++ c

/-- Source C in IMM[11:0] and a 20-bit constant above it (R308). -/
def immC (k : BitVec 20) (c : Src) : Word := k ++ c.enc

/-- A record operand (R177). -/
def recEnc (r : BitVec 8) : BitVec 12 := (Src.s r).enc

def Plain.enc (op : BitVec 8) (p : Plain) : Fields := ⟨op, 0, 0, 0, 0, 0, p.head⟩
def Branch.enc (op : BitVec 8) (p : Branch) : Fields := ⟨op, 0, 0, 0, 0, p.off, p.head⟩
def BranchX.enc (op : BitVec 8) (p : BranchX) : Fields := ⟨op, 0, 0, p.a.enc, 0, p.imm, p.head⟩
def Call.enc (op : BitVec 8) (p : Call) : Fields := ⟨op, p.n, 0, 0, 0, p.off, p.head⟩
def CallX.enc (op : BitVec 8) (p : CallX) : Fields := ⟨op, p.n, 0, p.a.enc, 0, p.imm, p.head⟩
def TrapN.enc (op : BitVec 8) (p : TrapN) : Fields := ⟨op, 0, 0, 0, 0, p.n.zeroExtend 32, p.head⟩
def Bkpt.enc (op : BitVec 8) (p : Bkpt) : Fields := ⟨op, 0, 0, 0, 0, p.tag.zeroExtend 32, p.head⟩
def Loop.enc (op : BitVec 8) (p : Loop) : Fields := ⟨op, 0x06, 0#4 ++ p.reg, 0, 0, p.off, p.head⟩
/-- `dir` is bit 4 or 5 of the variant: ROT and FSHF use MOD[4], IDIV uses MOD[5]. -/
def Alu2.enc (op : BitVec 8) (var : BitVec 8) (p : Alu2) : Fields :=
  ⟨op, tyMod p.ty p.sat ||| var, p.d.enc, p.a.enc, p.b.enc, p.imm, p.head⟩
def AluC.enc (op : BitVec 8) (p : AluC) : Fields :=
  ⟨op, 0#1 ++ p.k ++ 0#1 ++ p.ty.code, p.d.enc, p.a.enc, p.b.enc, p.imm, p.head⟩
def Alu3.enc (op : BitVec 8) (var : BitVec 8) (p : Alu3) : Fields :=
  ⟨op, tyMod p.ty p.sat ||| var, p.d.enc, p.a.enc, p.b.enc, immC 0 p.c, p.head⟩
def Alu1.enc (op : BitVec 8) (p : Alu1) : Fields :=
  ⟨op, tyMod p.ty p.sat, p.d.enc, p.a.enc, 0, p.imm, p.head⟩
def Cmp2.enc (op : BitVec 8) (p : Cmp2) : Fields :=
  ⟨op, p.cmp.code ++ 0#1 ++ p.ty.code, p.d.enc, p.a.enc, p.b.enc, p.imm, p.head⟩
def Sel.enc (op : BitVec 8) (p : Sel) : Fields :=
  ⟨op, tyMod p.ty false, p.d.enc, p.a.enc, p.b.enc, (0#26 ++ p.k ++ p.cond : BitVec 32), p.head⟩
def Bool3.enc (op : BitVec 8) (p : Bool3) : Fields :=
  ⟨op, tyMod p.ty false, p.d.enc, p.a.enc, p.b.enc, immC (0#12 ++ p.tt) p.c, p.head⟩
def Permb.enc (op : BitVec 8) (p : Permb) : Fields := ⟨op, 0, p.d.enc, p.a.enc, p.tbl.enc, p.imm, p.head⟩
/-- MOD 0x06 for 32 bits and 0x07 for 64 (R366). -/
def wideMod (w : Bool) : BitVec 8 := if w then 0x07 else 0x06
def Movi.enc (op : BitVec 8) (p : Movi) : Fields := ⟨op, wideMod p.wide, p.d.enc, p.a.enc, 0, p.imm, p.head⟩
def Sset.enc (op mod : BitVec 8) (p : Sset) : Fields := ⟨op, mod, 0#4 ++ p.reg, p.a.enc, 0, p.imm, p.head⟩
def Sadd.enc (op : BitVec 8) (p : Sadd) : Fields := ⟨op, 0x07, p.d.enc, p.a.enc, p.b.enc, p.imm, p.head⟩
def Sld.enc (op : BitVec 8) (p : Sld) : Fields :=
  ⟨op, wideMod p.wide, 0#4 ++ p.reg, recEnc p.rcd, p.x.enc, p.off, p.head⟩
def Rdsr.enc (op : BitVec 8) (p : Rdsr) : Fields :=
  ⟨op, wideMod p.wide, p.d.enc, 0, 0, (0#20 ++ p.num : BitVec 32), p.head⟩
def Wrsr.enc (op : BitVec 8) (p : Wrsr) : Fields :=
  ⟨op, wideMod p.wide, 0, p.a.enc, 0, (0#20 ++ p.num : BitVec 32), p.head⟩
def Rand.enc (op : BitVec 8) (p : Rand) : Fields := ⟨op, wideMod p.wide, p.d.enc, 0, 0, 0, p.head⟩
def DstOnly.enc (op mod : BitVec 8) (p : DstOnly) : Fields := ⟨op, mod, p.d.enc, 0, 0, 0, p.head⟩
def Fp1.enc (op : BitVec 8) (p : Fp1) : Fields :=
  ⟨op, tyMod3 p.ty p.rnd.code, p.d.enc, p.a.enc, 0, p.imm, p.head⟩
def Fp2.enc (op : BitVec 8) (p : Fp2) : Fields :=
  ⟨op, tyMod3 p.ty p.rnd.code, p.d.enc, p.a.enc, p.b.enc, p.imm, p.head⟩
def Fp3.enc (op : BitVec 8) (p : Fp3) : Fields :=
  ⟨op, tyMod3 p.ty p.rnd.code, p.d.enc, p.a.enc, p.b.enc, immC 0 p.c, p.head⟩
def Fcmp.enc (op : BitVec 8) (p : Fcmp) : Fields :=
  ⟨op, tyMod3 p.ty p.cmp.code, p.d.enc, p.a.enc, p.b.enc, p.imm, p.head⟩
def Hmnmx.enc (op : BitVec 8) (p : Hmnmx) : Fields :=
  ⟨op, tyMod p.ty p.max, p.d.enc, p.a.enc, p.b.enc, p.imm, p.head⟩
def Cvt.enc (op : BitVec 8) (p : Cvt) : Fields :=
  ⟨op, p.sty.code ++ p.dty.code, p.d.enc, p.a.enc, 0#9 ++ p.rnd.code, p.imm, p.head⟩
/-- MOD of the element conversions: EF, a variant bit and the rounding (R385). -/
def efMod (ef : EF) (u : Bool) (r : BitVec 3) : BitVec 8 := 0#1 ++ r ++ BitVec.ofBool u ++ ef.code
def CvtpP.enc (op : BitVec 8) (p : CvtpP) : Fields :=
  ⟨op, efMod p.ef false p.rnd.code, p.d.enc, p.a.enc, 0, immC (0#16 ++ p.i) p.q, p.head⟩
def CvtpU.enc (op : BitVec 8) (p : CvtpU) : Fields :=
  ⟨op, efMod p.ef true 0, p.d.enc, p.q.enc, 0, (0#16 ++ p.i ++ 0#12 : BitVec 32), p.head⟩
def Qscale.enc (op : BitVec 8) (p : Qscale) : Fields :=
  ⟨op, efMod p.ef false 0, p.d.enc, p.a.enc, 0, p.imm, p.head⟩
def Qnt.enc (op : BitVec 8) (p : Qnt) : Fields :=
  ⟨op, efMod p.ef false p.rnd.code, p.d.enc, p.a.enc, p.s.enc, immC (0#16 ++ p.i) p.q, p.head⟩
def Dqnt.enc (op : BitVec 8) (p : Dqnt) : Fields :=
  ⟨op, efMod p.ef false p.rnd.code, p.d.enc, p.q.enc, p.s.enc, (0#16 ++ p.i ++ 0#12 : BitVec 32), p.head⟩
def Xshf.enc (op : BitVec 8) (p : Xshf) : Fields :=
  ⟨op, 0#4 ++ BitVec.ofBool p.wide ++ BitVec.ofBool p.w ++ p.md.code, p.d.enc, p.a.enc, p.b.enc, p.imm, p.head⟩
def Xred.enc (op : BitVec 8) (p : Xred) : Fields :=
  ⟨op, BitVec.ofBool p.exc ++ p.op.code ++ p.ty.code, p.d.enc, p.a.enc, 0, p.imm, p.head⟩
def Xvote.enc (op : BitVec 8) (p : Xvote) : Fields :=
  ⟨op, 0#3 ++ p.k ++ p.op.code, p.d.enc, p.a.enc, 0, p.imm, p.head⟩
def Xcmx.enc (op : BitVec 8) (p : Xcmx) : Fields :=
  ⟨op, tyMod p.ty false, p.d.enc, p.a.enc, p.b.enc, (0#26 ++ p.k ++ p.j : BitVec 32), p.head⟩
def Ld.enc (op : BitVec 8) (p : Ld) : Fields :=
  ⟨op, memMod p.ty p.ord p.sc, p.d.enc, recEnc p.m.rcd, p.m.x.enc, memImm 0 p.m.off 0, p.head⟩
def St.enc (op : BitVec 8) (p : St) : Fields :=
  ⟨op, memMod p.ty p.ord p.sc, 0, recEnc p.m.rcd, p.m.x.enc, memImm 0 p.m.off p.c.enc, p.head⟩
def Atom.enc (op : BitVec 8) (p : Atom) : Fields :=
  ⟨op, memMod p.ty p.ord p.sc, p.d.enc, recEnc p.m.rcd, p.m.x.enc, memImm p.op.code p.m.off p.c.enc, p.head⟩
def Red.enc (op : BitVec 8) (p : Red) : Fields :=
  ⟨op, memMod p.ty p.ord p.sc, 0, recEnc p.m.rcd, p.m.x.enc, memImm p.op.code p.m.off p.c.enc, p.head⟩
def Cas.enc (op : BitVec 8) (p : Cas) : Fields :=
  ⟨op, memMod p.ty p.ord p.sc, p.d.enc, recEnc p.m.rcd, p.m.x.enc, memImm 0 p.m.off (Src.v p.g).enc, p.head⟩
def Pref.enc (op : BitVec 8) (p : Pref) : Fields :=
  ⟨op, memMod .i8 .rlx (if p.dev then .dev else .blk), 0, recEnc p.m.rcd, p.m.x.enc, memImm 0 p.m.off 0, p.head⟩
/-- MOD of `BAR`: the form and the scope (R411). -/
def barMod (form : BitVec 3) (gang : Bool) : BitVec 8 := 0#4 ++ BitVec.ofBool gang ++ form
def BarV.enc (op : BitVec 8) (form : BitVec 3) (p : BarV) : Fields :=
  ⟨op, barMod form p.gang, 0, recEnc p.m.rcd, p.m.x.enc, memImm 0 p.m.off p.c.enc, p.head⟩
def BarD.enc (op : BitVec 8) (form : BitVec 3) (p : BarD) : Fields :=
  ⟨op, barMod form p.gang, p.d.enc, recEnc p.m.rcd, p.m.x.enc, memImm 0 p.m.off 0, p.head⟩
def Scoped.encPhase (op : BitVec 8) (o : BitVec 2) (p : Scoped) : Fields :=
  ⟨op, 0#4 ++ p.sc.code ++ o, 0, 0, 0, 0, p.head⟩
def Scoped.encFence (op : BitVec 8) (p : Scoped) : Fields := ⟨op, 0#6 ++ p.sc.code, 0, 0, 0, 0, p.head⟩
def Waita.enc (op : BitVec 8) (p : Waita) : Fields :=
  ⟨op, 0, p.d.enc, recEnc p.m.rcd, p.m.x.enc, memImm 0 p.m.off 0, p.head⟩
/-- MOD of the copy commands: form, `.BAR` and `.FLG` (R419). -/
def cpyMod (form : BitVec 1) (bar flg : Bool) : BitVec 8 := 0#2 ++ BitVec.ofBool flg ++ BitVec.ofBool bar ++ 0#3 ++ form
def Cpy.enc (op : BitVec 8) (form : BitVec 1) (p : Cpy) : Fields :=
  ⟨op, cpyMod form p.bar p.flg, 0, recEnc p.src, recEnc p.dst, (0#5 ++ p.comp ++ (Src.v p.g).enc : BitVec 32), p.head⟩
def Mxldb.enc (op : BitVec 8) (p : Mxldb) : Fields :=
  ⟨op, cpyMod 0 p.bar p.flg, 0, recEnc p.src, 0, (0#5 ++ p.comp ++ (Src.v p.g).enc : BitVec 32), p.head⟩
/-- An order other than `.RLX` comes with scope `.SYS` (R425). -/
def Fab.enc (op : BitVec 8) (p : Fab) : Fields :=
  ⟨op, 0#4 ++ (if p.ord == .rlx then 0#2 else 3#2) ++ p.ord.code, 0, p.a.enc, p.b.enc, immC 0 p.c, p.head⟩
def Coll.enc (op mod : BitVec 8) (p : Coll) : Fields := ⟨op, mod, p.d.enc, p.a.enc, 0, p.imm, p.head⟩
def Launch.enc (op mod : BitVec 8) (p : Launch) : Fields := ⟨op, mod, p.d.enc, p.a.enc, p.b.enc, p.imm, p.head⟩
def Mxop.enc (op : BitVec 8) (p : Mxop) : Fields := ⟨op, 0, 0, p.a.enc, p.b.enc, p.imm, p.head⟩
def Mxacc.enc (op : BitVec 8) (o : BitVec 2) (p : Mxacc) : Fields :=
  ⟨op, 0#3 ++ p.f ++ o, 0, 0, 0, (0#20 ++ (Src.v p.g).enc : BitVec 32), p.head⟩

/-! ## Parsing each shape -/

/-- Why a word is no instruction, in the order of R325; every one of them is an illegal-instruction trap. -/
inductive Reject where
  | reservedOpcode
  | reservedMod
  | unusedField
  | illegalGuard
  | forbiddenOperand
  deriving DecidableEq, Repr

/-- A code that names nothing is a reserved MOD value. -/
def modOf {α : Type} : Option α → Except Reject α
  | some a => .ok a
  | none => .error .reservedMod

/-- A source field that names nothing is a forbidden operand kind (R313). -/
def srcOf (f : BitVec 12) : Except Reject Src :=
  match Src.dec f with
  | some s => .ok s
  | none => .error .forbiddenOperand

/-- A field that must name a vector register (the operand groups of R408, R417). -/
def vecOf (f : BitVec 12) : Except Reject (BitVec 8) :=
  match Src.dec f with
  | some (.v r) => .ok r
  | _ => .error .forbiddenOperand

/-- A field that must name a uniform register (R177). -/
def recOf (f : BitVec 12) : Except Reject (BitVec 8) :=
  match Src.dec f with
  | some (.s r) => .ok r
  | _ => .error .forbiddenOperand

def Fields.ty (f : Fields) : Except Reject Ty := modOf (Ty.ofCode (f.mod.extractLsb' 0 4))
def Fields.sat (f : Fields) : Bool := f.mod.getLsbD 4
def Fields.rnd (f : Fields) : Except Reject Rnd := modOf (Rnd.ofCode (f.mod.extractLsb' 4 3))
def Fields.srcC (f : Fields) : BitVec 12 := f.imm.extractLsb' 0 12
def Fields.dreg (f : Fields) : BitVec 8 := f.fd.extractLsb' 0 8
def Fields.wide (f : Fields) : Bool := f.mod.getLsbD 0
def Fields.memOp (f : Fields) : Except Reject MemOp := do
  let r ← recOf f.fa
  let x ← srcOf f.fb
  pure ⟨r, x, f.imm.extractLsb' 12 16⟩
def Fields.ord (f : Fields) : Ord := Ord.ofCode (f.mod.extractLsb' 4 2)
def Fields.sc (f : Fields) : Scope := Scope.ofCode (f.mod.extractLsb' 6 2)

def Plain.parse (f : Fields) : Except Reject Plain := .ok ⟨f.head⟩
def Branch.parse (f : Fields) : Except Reject Branch := .ok ⟨f.head, f.imm⟩
def BranchX.parse (f : Fields) : Except Reject BranchX := do
  let a ← srcOf f.fa
  pure ⟨f.head, a, f.imm⟩
def Call.parse (f : Fields) : Except Reject Call := .ok ⟨f.head, f.mod, f.imm⟩
def CallX.parse (f : Fields) : Except Reject CallX := do
  let a ← srcOf f.fa
  pure ⟨f.head, f.mod, a, f.imm⟩
def TrapN.parse (f : Fields) : Except Reject TrapN := .ok ⟨f.head, f.imm.extractLsb' 0 5⟩
def Bkpt.parse (f : Fields) : Except Reject Bkpt := .ok ⟨f.head, f.imm.extractLsb' 0 16⟩
def Loop.parse (f : Fields) : Except Reject Loop := .ok ⟨f.head, f.dreg, f.imm⟩
def Alu2.parse (f : Fields) : Except Reject Alu2 := do
  let ty ← f.ty
  let a ← srcOf f.fa
  let b ← srcOf f.fb
  pure ⟨f.head, ty, f.sat, Dst.dec f.fd, a, b, f.imm⟩
/-- The forms whose direction lies in MOD[4] and that have no SAT (R360). -/
def Alu2.parseDir (f : Fields) : Except Reject Alu2 := do
  let p ← Alu2.parse f
  pure { p with sat := false }
def AluC.parse (f : Fields) : Except Reject AluC := do
  let ty ← f.ty
  let a ← srcOf f.fa
  let b ← srcOf f.fb
  pure ⟨f.head, ty, f.mod.extractLsb' 5 2, Dst.dec f.fd, a, b, f.imm⟩
def Alu3.parse (f : Fields) : Except Reject Alu3 := do
  let ty ← f.ty
  let a ← srcOf f.fa
  let b ← srcOf f.fb
  let c ← srcOf f.srcC
  pure ⟨f.head, ty, f.sat, Dst.dec f.fd, a, b, c⟩
def Alu3.parseDir (f : Fields) : Except Reject Alu3 := do
  let p ← Alu3.parse f
  pure { p with sat := false }
def Alu1.parse (f : Fields) : Except Reject Alu1 := do
  let ty ← f.ty
  let a ← srcOf f.fa
  pure ⟨f.head, ty, f.sat, Dst.dec f.fd, a, f.imm⟩
def Cmp2.parse (f : Fields) : Except Reject Cmp2 := do
  let ty ← f.ty
  let c ← modOf (Cmp.ofCode (f.mod.extractLsb' 5 3))
  let a ← srcOf f.fa
  let b ← srcOf f.fb
  pure ⟨f.head, ty, c, Dst.dec f.fd, a, b, f.imm⟩
def Sel.parse (f : Fields) : Except Reject Sel := do
  let ty ← f.ty
  let a ← srcOf f.fa
  let b ← srcOf f.fb
  pure ⟨f.head, ty, Dst.dec f.fd, a, b, f.imm.extractLsb' 4 2, f.imm.extractLsb' 0 4⟩
def Bool3.parse (f : Fields) : Except Reject Bool3 := do
  let ty ← f.ty
  let a ← srcOf f.fa
  let b ← srcOf f.fb
  let c ← srcOf f.srcC
  pure ⟨f.head, ty, Dst.dec f.fd, a, b, c, f.imm.extractLsb' 12 8⟩
def Permb.parse (f : Fields) : Except Reject Permb := do
  let a ← srcOf f.fa
  let t ← srcOf f.fb
  pure ⟨f.head, Dst.dec f.fd, a, t, f.imm⟩
def Movi.parse (f : Fields) : Except Reject Movi := do
  let a ← srcOf f.fa
  pure ⟨f.head, f.wide, Dst.dec f.fd, a, f.imm⟩
def Sset.parse (f : Fields) : Except Reject Sset := do
  let a ← srcOf f.fa
  pure ⟨f.head, f.dreg, a, f.imm⟩
def Sadd.parse (f : Fields) : Except Reject Sadd := do
  let a ← srcOf f.fa
  let b ← srcOf f.fb
  pure ⟨f.head, Dst.dec f.fd, a, b, f.imm⟩
def Sld.parse (f : Fields) : Except Reject Sld := do
  let r ← recOf f.fa
  let x ← srcOf f.fb
  pure ⟨f.head, f.wide, f.dreg, r, x, f.imm⟩
def Rdsr.parse (f : Fields) : Except Reject Rdsr := .ok ⟨f.head, f.wide, Dst.dec f.fd, f.imm.extractLsb' 0 12⟩
def Wrsr.parse (f : Fields) : Except Reject Wrsr := do
  let a ← srcOf f.fa
  pure ⟨f.head, f.wide, a, f.imm.extractLsb' 0 12⟩
def Rand.parse (f : Fields) : Except Reject Rand := .ok ⟨f.head, f.wide, Dst.dec f.fd⟩
def DstOnly.parse (f : Fields) : Except Reject DstOnly := .ok ⟨f.head, Dst.dec f.fd⟩
def Fp1.parse (f : Fields) : Except Reject Fp1 := do
  let ty ← f.ty
  let r ← f.rnd
  let a ← srcOf f.fa
  pure ⟨f.head, ty, r, Dst.dec f.fd, a, f.imm⟩
def Fp2.parse (f : Fields) : Except Reject Fp2 := do
  let ty ← f.ty
  let r ← f.rnd
  let a ← srcOf f.fa
  let b ← srcOf f.fb
  pure ⟨f.head, ty, r, Dst.dec f.fd, a, b, f.imm⟩
def Fp3.parse (f : Fields) : Except Reject Fp3 := do
  let ty ← f.ty
  let r ← f.rnd
  let a ← srcOf f.fa
  let b ← srcOf f.fb
  let c ← srcOf f.srcC
  pure ⟨f.head, ty, r, Dst.dec f.fd, a, b, c⟩
def Fcmp.parse (f : Fields) : Except Reject Fcmp := do
  let ty ← f.ty
  let c ← modOf (FCmp.ofCode (f.mod.extractLsb' 4 3))
  let a ← srcOf f.fa
  let b ← srcOf f.fb
  pure ⟨f.head, ty, c, Dst.dec f.fd, a, b, f.imm⟩
def Hmnmx.parse (f : Fields) : Except Reject Hmnmx := do
  let ty ← f.ty
  let a ← srcOf f.fa
  let b ← srcOf f.fb
  pure ⟨f.head, ty, f.sat, Dst.dec f.fd, a, b, f.imm⟩
def Cvt.parse (f : Fields) : Except Reject Cvt := do
  let dty ← f.ty
  let sty ← modOf (Ty.ofCode (f.mod.extractLsb' 4 4))
  let a ← srcOf f.fa
  let r ← modOf (Rnd.ofCode (f.fb.extractLsb' 0 3))
  pure ⟨f.head, dty, sty, r, Dst.dec f.fd, a, f.imm⟩
def Fields.ef (f : Fields) : EF := EF.ofCode (f.mod.extractLsb' 0 3)
def Fields.index (f : Fields) : BitVec 4 := f.imm.extractLsb' 12 4
def CvtpP.parse (f : Fields) : Except Reject CvtpP := do
  let r ← f.rnd
  let a ← srcOf f.fa
  let q ← srcOf f.srcC
  pure ⟨f.head, f.ef, r, Dst.dec f.fd, a, q, f.index⟩
def CvtpU.parse (f : Fields) : Except Reject CvtpU := do
  let q ← srcOf f.fa
  pure ⟨f.head, f.ef, Dst.dec f.fd, q, f.index⟩
def Qscale.parse (f : Fields) : Except Reject Qscale := do
  let a ← srcOf f.fa
  pure ⟨f.head, f.ef, Dst.dec f.fd, a, f.imm⟩
def Qnt.parse (f : Fields) : Except Reject Qnt := do
  let r ← f.rnd
  let a ← srcOf f.fa
  let s ← srcOf f.fb
  let q ← srcOf f.srcC
  pure ⟨f.head, f.ef, r, Dst.dec f.fd, a, s, q, f.index⟩
def Dqnt.parse (f : Fields) : Except Reject Dqnt := do
  let r ← f.rnd
  let q ← srcOf f.fa
  let s ← srcOf f.fb
  pure ⟨f.head, f.ef, r, Dst.dec f.fd, q, s, f.index⟩
def Xshf.parse (f : Fields) : Except Reject Xshf := do
  let a ← srcOf f.fa
  let b ← srcOf f.fb
  pure ⟨f.head, ShMode.ofCode (f.mod.extractLsb' 0 2), f.mod.getLsbD 2, f.mod.getLsbD 3, Dst.dec f.fd, a, b, f.imm⟩
def Xred.parse (f : Fields) : Except Reject Xred := do
  let ty ← f.ty
  let o ← modOf (RedOp.ofCode (f.mod.extractLsb' 4 3))
  let a ← srcOf f.fa
  pure ⟨f.head, ty, o, f.mod.getLsbD 7, Dst.dec f.fd, a, f.imm⟩
def Xvote.parse (f : Fields) : Except Reject Xvote := do
  let o ← modOf (VoteOp.ofCode (f.mod.extractLsb' 0 3))
  let a ← srcOf f.fa
  pure ⟨f.head, o, f.mod.extractLsb' 3 2, Dst.dec f.fd, a, f.imm⟩
def Xcmx.parse (f : Fields) : Except Reject Xcmx := do
  let ty ← f.ty
  let a ← srcOf f.fa
  let b ← srcOf f.fb
  pure ⟨f.head, ty, Dst.dec f.fd, a, b, f.imm.extractLsb' 0 3, f.imm.extractLsb' 3 3⟩
def Ld.parse (f : Fields) : Except Reject Ld := do
  let ty ← f.ty
  let m ← f.memOp
  pure ⟨f.head, ty, f.ord, f.sc, Dst.dec f.fd, m⟩
def St.parse (f : Fields) : Except Reject St := do
  let ty ← f.ty
  let m ← f.memOp
  let c ← srcOf f.srcC
  pure ⟨f.head, ty, f.ord, f.sc, m, c⟩
def Fields.atomOp (f : Fields) : Except Reject AtomOp := modOf (AtomOp.ofCode (f.imm.extractLsb' 28 4))
def Atom.parse (f : Fields) : Except Reject Atom := do
  let ty ← f.ty
  let o ← f.atomOp
  let m ← f.memOp
  let c ← srcOf f.srcC
  pure ⟨f.head, o, ty, f.ord, f.sc, Dst.dec f.fd, m, c⟩
def Red.parse (f : Fields) : Except Reject Red := do
  let ty ← f.ty
  let o ← f.atomOp
  let m ← f.memOp
  let c ← srcOf f.srcC
  pure ⟨f.head, o, ty, f.ord, f.sc, m, c⟩
def Cas.parse (f : Fields) : Except Reject Cas := do
  let ty ← f.ty
  let m ← f.memOp
  let g ← vecOf f.srcC
  pure ⟨f.head, ty, f.ord, f.sc, Dst.dec f.fd, m, g⟩
def Pref.parse (f : Fields) : Except Reject Pref := do
  let m ← f.memOp
  pure ⟨f.head, f.mod.getLsbD 7, m⟩
def BarV.parse (f : Fields) : Except Reject BarV := do
  let m ← f.memOp
  let c ← srcOf f.srcC
  pure ⟨f.head, f.mod.getLsbD 3, m, c⟩
def BarD.parse (f : Fields) : Except Reject BarD := do
  let m ← f.memOp
  pure ⟨f.head, f.mod.getLsbD 3, Dst.dec f.fd, m⟩
def Scoped.parsePhase (f : Fields) : Except Reject Scoped := .ok ⟨f.head, Scope.ofCode (f.mod.extractLsb' 2 2)⟩
def Scoped.parseFence (f : Fields) : Except Reject Scoped := .ok ⟨f.head, Scope.ofCode (f.mod.extractLsb' 0 2)⟩
def Waita.parse (f : Fields) : Except Reject Waita := do
  let m ← f.memOp
  pure ⟨f.head, Dst.dec f.fd, m⟩
def Cpy.parse (f : Fields) : Except Reject Cpy := do
  let a ← recOf f.fa
  let b ← recOf f.fb
  let g ← vecOf f.srcC
  pure ⟨f.head, f.mod.getLsbD 4, f.mod.getLsbD 5, a, b, g, f.imm.extractLsb' 12 15⟩
def Mxldb.parse (f : Fields) : Except Reject Mxldb := do
  let a ← recOf f.fa
  let g ← vecOf f.srcC
  pure ⟨f.head, f.mod.getLsbD 4, f.mod.getLsbD 5, a, g, f.imm.extractLsb' 12 15⟩
def Fab.parse (f : Fields) : Except Reject Fab := do
  let a ← srcOf f.fa
  let b ← srcOf f.fb
  let c ← srcOf f.srcC
  pure ⟨f.head, Ord.ofCode (f.mod.extractLsb' 0 2), a, b, c⟩
def Coll.parse (f : Fields) : Except Reject Coll := do
  let a ← srcOf f.fa
  pure ⟨f.head, Dst.dec f.fd, a, f.imm⟩
def Launch.parse (f : Fields) : Except Reject Launch := do
  let a ← srcOf f.fa
  let b ← srcOf f.fb
  pure ⟨f.head, Dst.dec f.fd, a, b, f.imm⟩
def Mxop.parse (f : Fields) : Except Reject Mxop := do
  let a ← srcOf f.fa
  let b ← srcOf f.fb
  pure ⟨f.head, a, b, f.imm⟩
def Mxacc.parse (f : Fields) : Except Reject Mxacc := do
  let g ← vecOf f.srcC
  pure ⟨f.head, f.mod.extractLsb' 2 3, g⟩

/-! ## The opcode map (R327) -/

/-- Control opcodes 0x00 to 0x0C (R343). -/
def parseControl (f : Fields) : Except Reject Instr :=
  match f.op.toNat with
  | 0x00 => return .nop (← Plain.parse f)
  | 0x01 => return .bra (← Branch.parse f)
  | 0x02 => return .brx (← BranchX.parse f)
  | 0x03 => return .call (← Call.parse f)
  | 0x04 => return .callx (← CallX.parse f)
  | 0x05 => return .ret (← Plain.parse f)
  | 0x06 => return .exit (← Plain.parse f)
  | 0x07 => return .demote (← Plain.parse f)
  | 0x08 => return .yield (← Plain.parse f)
  | 0x09 => return .trap (← TrapN.parse f)
  | 0x0A => return .tret (← Plain.parse f)
  | 0x0B => return .loop (← Loop.parse f)
  | 0x0C => return .bkpt (← Bkpt.parse f)
  | _ => .error .reservedOpcode

/-- Integer opcodes 0x10 to 0x1F (R355). -/
def parseInteger (f : Fields) : Except Reject Instr :=
  match f.op.toNat with
  | 0x10 => return .iadd (← Alu2.parse f)
  | 0x11 => return .isub (← Alu2.parse f)
  | 0x12 => return .iadc (← AluC.parse f)
  | 0x13 => return .isbc (← AluC.parse f)
  | 0x14 => return .imul (← Alu2.parse f)
  | 0x15 => return .imulh (← Alu2.parse f)
  | 0x16 => return .imad (← Alu3.parse f)
  | 0x17 => return .imadw (← Alu3.parse f)
  | 0x18 => return .imin (← Alu2.parse f)
  | 0x19 => return .imax (← Alu2.parse f)
  | 0x1A => return .iabs (← Alu1.parse f)
  | 0x1B => return .isad (← Alu3.parse f)
  | 0x1C => return .icmp (← Cmp2.parse f)
  | 0x1D => return .sel (← Sel.parse f)
  | 0x1E => return .iadd3 (← Alu3.parse f)
  | 0x1F => if f.mod.getLsbD 5 then return .idivR (← Alu2.parse f) else return .idivQ (← Alu2.parse f)
  | _ => .error .reservedOpcode

/-- Logic opcodes 0x20 to 0x2F (R360). -/
def parseLogic (f : Fields) : Except Reject Instr :=
  match f.op.toNat with
  | 0x20 => return .and (← Alu2.parse f)
  | 0x21 => return .or (← Alu2.parse f)
  | 0x22 => return .xor (← Alu2.parse f)
  | 0x23 => return .andn (← Alu2.parse f)
  | 0x24 => return .bool3 (← Bool3.parse f)
  | 0x25 => return .shl (← Alu2.parse f)
  | 0x26 => return .shr (← Alu2.parse f)
  | 0x27 => return .sar (← Alu2.parse f)
  | 0x28 => if f.sat then return .rotR (← Alu2.parseDir f) else return .rotL (← Alu2.parseDir f)
  | 0x29 => if f.sat then return .fshfR (← Alu3.parseDir f) else return .fshfL (← Alu3.parseDir f)
  | 0x2A => return .bfx (← Alu2.parse f)
  | 0x2B => return .bfi (← Alu3.parse f)
  | 0x2C => return .popc (← Alu1.parse f)
  | 0x2D => return .clz (← Alu1.parse f)
  | 0x2E => return .brev (← Alu1.parse f)
  | 0x2F => return .permb (← Permb.parse f)
  | _ => .error .reservedOpcode

/-- Move, uniform and system opcodes 0x30 to 0x38 (R366). -/
def parseSystem (f : Fields) : Except Reject Instr :=
  match f.op.toNat with
  | 0x30 => return .mov (← Alu1.parse f)
  | 0x31 => return .movi (← Movi.parse f)
  | 0x32 =>
    if f.mod == 0x07 then return .sset (← Sset.parse f)
    else if f.mod == 0x16 then return .ssetLo (← Sset.parse f)
    else return .ssetHi (← Sset.parse f)
  | 0x33 => return .sadd (← Sadd.parse f)
  | 0x34 => return .sld (← Sld.parse f)
  | 0x35 => return .rdsr (← Rdsr.parse f)
  | 0x36 => return .wrsr (← Wrsr.parse f)
  | 0x37 => return .rand (← Rand.parse f)
  | 0x38 => if f.wide then return .electBlk (← DstOnly.parse f) else return .electWv (← DstOnly.parse f)
  | _ => .error .reservedOpcode

/-- Floating-point opcodes 0x40 to 0x4E (R376, R382). -/
def parseFloat (f : Fields) : Except Reject Instr :=
  match f.op.toNat with
  | 0x40 => return .fadd (← Fp2.parse f)
  | 0x41 => return .fsub (← Fp2.parse f)
  | 0x42 => return .fmul (← Fp2.parse f)
  | 0x43 => return .ffma (← Fp3.parse f)
  | 0x44 => return .fmin (← Fp2.parse f)
  | 0x45 => return .fmax (← Fp2.parse f)
  | 0x46 => return .fcmp (← Fcmp.parse f)
  | 0x47 => return .frnd (← Fp1.parse f)
  | 0x48 => return .fcls (← Fp2.parse f)
  | 0x49 => return .fscl (← Fp2.parse f)
  | 0x4A => return .hadd2 (← Fp2.parse f)
  | 0x4B => return .hmul2 (← Fp2.parse f)
  | 0x4C => return .hfma2 (← Fp3.parse f)
  | 0x4D => return .hmnmx2 (← Hmnmx.parse f)
  | 0x4E => return .hdot2 (← Fp3.parse f)
  | _ => .error .reservedOpcode

/-- Conversion and special-function opcodes 0x50 to 0x5C (R385, R391). -/
def parseConvert (f : Fields) : Except Reject Instr :=
  match f.op.toNat with
  | 0x50 => return .cvt (← Cvt.parse f)
  | 0x51 => if f.mod.getLsbD 3 then return .cvtpU (← CvtpU.parse f) else return .cvtpP (← CvtpP.parse f)
  | 0x52 => return .qscale (← Qscale.parse f)
  | 0x53 => return .qnt (← Qnt.parse f)
  | 0x54 => return .dqnt (← Dqnt.parse f)
  | 0x55 => return .rcp (← Fp1.parse f)
  | 0x56 => return .rsq (← Fp1.parse f)
  | 0x57 => return .sqrt (← Fp1.parse f)
  | 0x58 => return .exp2 (← Fp1.parse f)
  | 0x59 => return .log2 (← Fp1.parse f)
  | 0x5A => return .sinpi (← Fp1.parse f)
  | 0x5B => return .cospi (← Fp1.parse f)
  | 0x5C => return .tanh (← Fp1.parse f)
  | _ => .error .reservedOpcode

/-- Cross-lane opcodes 0x60 to 0x65 (R395). -/
def parseCross (f : Fields) : Except Reject Instr :=
  match f.op.toNat with
  | 0x60 => return .xshf (← Xshf.parse f)
  | 0x61 => return .xred (← Xred.parse f)
  | 0x62 => return .xscan (← Xred.parse f)
  | 0x63 => return .xvote (← Xvote.parse f)
  | 0x64 => return .xcmx (← Xcmx.parse f)
  | 0x65 => return .meet (← Plain.parse f)
  | _ => .error .reservedOpcode

/-- Memory opcodes 0x70 to 0x77 (R405). -/
def parseMemory (f : Fields) : Except Reject Instr :=
  match f.op.toNat with
  | 0x70 => return .ld (← Ld.parse f)
  | 0x71 => return .st (← St.parse f)
  | 0x72 => return .atom (← Atom.parse f)
  | 0x73 => return .red (← Red.parse f)
  | 0x74 => return .cas (← Cas.parse f)
  | 0x75 => return .atfx (← St.parse f)
  | 0x76 => return .ldfx (← Ld.parse f)
  | 0x77 => return .pref (← Pref.parse f)
  | _ => .error .reservedOpcode

/-- The forms of `BAR` (R411). -/
def parseBar (f : Fields) : Except Reject Instr :=
  match (f.mod.extractLsb' 0 3).toNat with
  | 0 => return .barInit (← BarV.parse f)
  | 1 => return .barExpect (← BarV.parse f)
  | 2 => return .barArrive (← BarD.parse f)
  | 3 => return .barWait (← BarV.parse f)
  | 4 => return .barArrwait (← BarD.parse f)
  | _ => .error .reservedMod

/-- The forms of `PHASE` (R415). -/
def parsePhase (f : Fields) : Except Reject Instr :=
  match (f.mod.extractLsb' 0 2).toNat with
  | 1 => return .phaseAcq (← Scoped.parsePhase f)
  | 2 => return .phaseRel (← Scoped.parsePhase f)
  | 3 => return .phaseAr (← Scoped.parsePhase f)
  | _ => .error .reservedMod

/-- Synchronisation opcodes 0x80 to 0x83. -/
def parseSync (f : Fields) : Except Reject Instr :=
  match f.op.toNat with
  | 0x80 => parseBar f
  | 0x81 => parsePhase f
  | 0x82 => return .fence (← Scoped.parseFence f)
  | 0x83 => return .waita (← Waita.parse f)
  | _ => .error .reservedOpcode

/-- The forms of `COLL` (R429). -/
def parseColl (f : Fields) : Except Reject Instr :=
  match f.mod.toNat with
  | 0 => return .collStep (← Coll.parse f)
  | 1 => return .collSetup (← Coll.parse f)
  | 2 => return .collFree (← Coll.parse f)
  | _ => .error .reservedMod

/-- The forms of `NSIG` (R431). -/
def parseNsig (f : Fields) : Except Reject Instr :=
  match f.mod.toNat with
  | 0 => return .nsigArm (← Launch.parse f)
  | 1 => return .nsigDec (← Coll.parse f)
  | 2 => return .nsigCan (← Coll.parse f)
  | 3 => return .nsigQry (← Launch.parse f)
  | _ => .error .reservedMod

/-- Engine opcodes 0x90 to 0x97. -/
def parseEngine (f : Fields) : Except Reject Instr :=
  match f.op.toNat with
  | 0x90 => if f.wide then return .cpyGath (← Cpy.parse f) else return .cpyLin (← Cpy.parse f)
  | 0x91 => if f.wide then return .cpytS2g (← Cpy.parse f) else return .cpytG2s (← Cpy.parse f)
  | 0x92 => return .put (← Fab.parse f)
  | 0x93 => return .puts (← Fab.parse f)
  | 0x94 => return .get (← Fab.parse f)
  | 0x95 => parseColl f
  | 0x96 => return .launch (← Launch.parse f)
  | 0x97 => parseNsig f
  | _ => .error .reservedOpcode

/-- The operations of `MXACC` (R457). -/
def parseMxacc (f : Fields) : Except Reject Instr :=
  match (f.mod.extractLsb' 0 2).toNat with
  | 0 => return .mxaccZero (← Mxacc.parse f)
  | 1 => return .mxaccLd (← Mxacc.parse f)
  | 2 => return .mxaccSt (← Mxacc.parse f)
  | _ => return .mxaccFree (← Mxacc.parse f)

/-- Matrix opcodes 0xA0 to 0xA3. -/
def parseMatrix (f : Fields) : Except Reject Instr :=
  match f.op.toNat with
  | 0xA0 => return .mxop (← Mxop.parse f)
  | 0xA1 => return .mxldb (← Mxldb.parse f)
  | 0xA2 => parseMxacc f
  | 0xA3 => if f.wide then return .mxstatClr (← Coll.parse f) else return .mxstat (← DstOnly.parse f)
  | _ => .error .reservedOpcode

/-- The instruction that the fields name, by class of opcode (R327). -/
def parseFields (f : Fields) : Except Reject Instr :=
  match (f.op.extractLsb' 4 4).toNat with
  | 0x0 => parseControl f
  | 0x1 => parseInteger f
  | 0x2 => parseLogic f
  | 0x3 => parseSystem f
  | 0x4 => parseFloat f
  | 0x5 => parseConvert f
  | 0x6 => parseCross f
  | 0x7 => parseMemory f
  | 0x8 => parseSync f
  | 0x9 => parseEngine f
  | 0xA => parseMatrix f
  | _ => .error .reservedOpcode

/-- The fields of a program instruction; a device event has none. -/
def Instr.fields : Instr → Option Fields
  | .nop p => some (p.enc 0x00)
  | .bra p => some (p.enc 0x01)
  | .brx p => some (p.enc 0x02)
  | .call p => some (p.enc 0x03)
  | .callx p => some (p.enc 0x04)
  | .ret p => some (p.enc 0x05)
  | .exit p => some (p.enc 0x06)
  | .demote p => some (p.enc 0x07)
  | .yield p => some (p.enc 0x08)
  | .trap p => some (p.enc 0x09)
  | .tret p => some (p.enc 0x0A)
  | .loop p => some (p.enc 0x0B)
  | .bkpt p => some (p.enc 0x0C)
  | .iadd p => some (p.enc 0x10 0)
  | .isub p => some (p.enc 0x11 0)
  | .iadc p => some (p.enc 0x12)
  | .isbc p => some (p.enc 0x13)
  | .imul p => some (p.enc 0x14 0)
  | .imulh p => some (p.enc 0x15 0)
  | .imad p => some (p.enc 0x16 0)
  | .imadw p => some (p.enc 0x17 0)
  | .imin p => some (p.enc 0x18 0)
  | .imax p => some (p.enc 0x19 0)
  | .iabs p => some (p.enc 0x1A)
  | .isad p => some (p.enc 0x1B 0)
  | .icmp p => some (p.enc 0x1C)
  | .sel p => some (p.enc 0x1D)
  | .iadd3 p => some (p.enc 0x1E 0)
  | .idivQ p => some (p.enc 0x1F 0)
  | .idivR p => some (p.enc 0x1F 0x20)
  | .and p => some (p.enc 0x20 0)
  | .or p => some (p.enc 0x21 0)
  | .xor p => some (p.enc 0x22 0)
  | .andn p => some (p.enc 0x23 0)
  | .bool3 p => some (p.enc 0x24)
  | .shl p => some (p.enc 0x25 0)
  | .shr p => some (p.enc 0x26 0)
  | .sar p => some (p.enc 0x27 0)
  | .rotL p => some (p.enc 0x28 0)
  | .rotR p => some (p.enc 0x28 0x10)
  | .fshfL p => some (p.enc 0x29 0)
  | .fshfR p => some (p.enc 0x29 0x10)
  | .bfx p => some (p.enc 0x2A 0)
  | .bfi p => some (p.enc 0x2B 0)
  | .popc p => some (p.enc 0x2C)
  | .clz p => some (p.enc 0x2D)
  | .brev p => some (p.enc 0x2E)
  | .permb p => some (p.enc 0x2F)
  | .mov p => some (p.enc 0x30)
  | .movi p => some (p.enc 0x31)
  | .sset p => some (p.enc 0x32 0x07)
  | .ssetLo p => some (p.enc 0x32 0x16)
  | .ssetHi p => some (p.enc 0x32 0x26)
  | .sadd p => some (p.enc 0x33)
  | .sld p => some (p.enc 0x34)
  | .rdsr p => some (p.enc 0x35)
  | .wrsr p => some (p.enc 0x36)
  | .rand p => some (p.enc 0x37)
  | .electWv p => some (p.enc 0x38 0)
  | .electBlk p => some (p.enc 0x38 1)
  | .fadd p => some (p.enc 0x40)
  | .fsub p => some (p.enc 0x41)
  | .fmul p => some (p.enc 0x42)
  | .ffma p => some (p.enc 0x43)
  | .fmin p => some (p.enc 0x44)
  | .fmax p => some (p.enc 0x45)
  | .fcmp p => some (p.enc 0x46)
  | .frnd p => some (p.enc 0x47)
  | .fcls p => some (p.enc 0x48)
  | .fscl p => some (p.enc 0x49)
  | .hadd2 p => some (p.enc 0x4A)
  | .hmul2 p => some (p.enc 0x4B)
  | .hfma2 p => some (p.enc 0x4C)
  | .hmnmx2 p => some (p.enc 0x4D)
  | .hdot2 p => some (p.enc 0x4E)
  | .cvt p => some (p.enc 0x50)
  | .cvtpP p => some (p.enc 0x51)
  | .cvtpU p => some (p.enc 0x51)
  | .qscale p => some (p.enc 0x52)
  | .qnt p => some (p.enc 0x53)
  | .dqnt p => some (p.enc 0x54)
  | .rcp p => some (p.enc 0x55)
  | .rsq p => some (p.enc 0x56)
  | .sqrt p => some (p.enc 0x57)
  | .exp2 p => some (p.enc 0x58)
  | .log2 p => some (p.enc 0x59)
  | .sinpi p => some (p.enc 0x5A)
  | .cospi p => some (p.enc 0x5B)
  | .tanh p => some (p.enc 0x5C)
  | .xshf p => some (p.enc 0x60)
  | .xred p => some (p.enc 0x61)
  | .xscan p => some (p.enc 0x62)
  | .xvote p => some (p.enc 0x63)
  | .xcmx p => some (p.enc 0x64)
  | .meet p => some (p.enc 0x65)
  | .ld p => some (p.enc 0x70)
  | .st p => some (p.enc 0x71)
  | .atom p => some (p.enc 0x72)
  | .red p => some (p.enc 0x73)
  | .cas p => some (p.enc 0x74)
  | .atfx p => some (p.enc 0x75)
  | .ldfx p => some (p.enc 0x76)
  | .pref p => some (p.enc 0x77)
  | .barInit p => some (p.enc 0x80 0)
  | .barExpect p => some (p.enc 0x80 1)
  | .barArrive p => some (p.enc 0x80 2)
  | .barWait p => some (p.enc 0x80 3)
  | .barArrwait p => some (p.enc 0x80 4)
  | .phaseAcq p => some (p.encPhase 0x81 1)
  | .phaseRel p => some (p.encPhase 0x81 2)
  | .phaseAr p => some (p.encPhase 0x81 3)
  | .fence p => some (p.encFence 0x82)
  | .waita p => some (p.enc 0x83)
  | .cpyLin p => some (p.enc 0x90 0)
  | .cpyGath p => some (p.enc 0x90 1)
  | .cpytG2s p => some (p.enc 0x91 0)
  | .cpytS2g p => some (p.enc 0x91 1)
  | .put p => some (p.enc 0x92)
  | .puts p => some (p.enc 0x93)
  | .get p => some (p.enc 0x94)
  | .collStep p => some (p.enc 0x95 0)
  | .collSetup p => some (p.enc 0x95 1)
  | .collFree p => some (p.enc 0x95 2)
  | .launch p => some (p.enc 0x96 0)
  | .nsigArm p => some (p.enc 0x97 0)
  | .nsigDec p => some (p.enc 0x97 1)
  | .nsigCan p => some (p.enc 0x97 2)
  | .nsigQry p => some (p.enc 0x97 3)
  | .mxop p => some (p.enc 0xA0)
  | .mxldb p => some (p.enc 0xA1)
  | .mxaccZero p => some (p.enc 0xA2 0)
  | .mxaccLd p => some (p.enc 0xA2 1)
  | .mxaccSt p => some (p.enc 0xA2 2)
  | .mxaccFree p => some (p.enc 0xA2 3)
  | .mxstat p => some (p.enc 0xA3 0)
  | .mxstatClr p => some (p.enc 0xA3 1)
  | _ => none

/-- The decoder (R325, steps 1 to 5, and the opcodes of R162 that may not carry CHAIN). A field that the opcode
does not use shows as a difference from the encoding of what was parsed. -/
def decodeFields (f : Fields) : Except Reject Instr := do
  let i ← parseFields f
  if i.fields.map (·.mod) != some f.mod then .error .reservedMod
  else if i.fields != some f then .error .unusedField
  else if !f.head.guardOk then .error .illegalGuard
  else if !i.wf then .error .forbiddenOperand
  else .ok i

/-- Decoding one word: total, rejecting by name. -/
def decode (w : BitVec 96) : Except Reject Instr := decodeFields (Fields.unpack w)

/-- The word of a program instruction; the all-zero word, a NOP, stands for an event, which has no word. -/
def encode (i : Instr) : BitVec 96 :=
  match i.fields with
  | some f => f.pack
  | none => 0

/-- A program instruction: one that has a word. -/
def Instr.isProgram (i : Instr) : Bool := i.fields.isSome

/-! ## Bytes of a word (R309) -/

/-- Little-endian value of bytes (R5). -/
def bytesToNat : List Byte → Nat
  | [] => 0
  | b :: bs => b.toNat + 256 * bytesToNat bs

/-- The low `n` bytes of a value, lowest first (R5). -/
def natToBytes : Nat → Nat → List Byte
  | 0, _ => []
  | n + 1, x => BitVec.ofNat 8 x :: natToBytes n (x / 256)

/-- The 12 bytes of a word (R309). -/
def wordBytes (w : BitVec 96) : List Byte := natToBytes 12 w.toNat

/-- The word of 12 bytes (R309). -/
def bytesWord (bs : List Byte) : BitVec 96 := BitVec.ofNat 96 (bytesToNat bs)

/-- Decoding the bytes of one slot; fewer than 12 bytes are no instruction. -/
def decodeBytes (bs : List Byte) : Except Reject Instr :=
  if bs.length < 12 then .error .reservedOpcode else decode (bytesWord (bs.take 12))

/-- What the decoder reads from an instruction whose low `nbits` bits are those of `w` and whose other bits are 0. -/
def decodeTableWord (nbits w : Nat) : Option Instr :=
  match decodeBytes (wordBytes (BitVec.ofNat 96 (w % 2 ^ nbits))) with
  | .ok i => some i
  | .error _ => none

end Sys2Proof
end

