-- ==== Sys2Proof/Machine/State.lean ====
section
/-! DEFINITION. The state of the part as plain data: every piece of state that the spec names, the free-value oracle, and reset. -/

namespace Sys2Proof.Machine

/-- Reasons for which an event cannot be applied. -/
inductive Fault where
  /-- Raised by a device event that names a core, quad, partition, port, tenant, function or vector that the part
  does not have (R15, R36, R76). Safe: no such event occurs on the hardware. -/
  | noSuchAgent
  deriving DecidableEq, Repr

/-- Reasons for which the model refuses. -/
inductive Refusal where
  /-- Raised by an arm of the dispatcher whose instruction has no meaning yet. Safe: nothing is said of it. -/
  | notModelled (mnemonic : String)
  deriving DecidableEq, Repr

/-! ## Values -/

/-- A vector register with its poison (R286). -/
structure RegVal where
  val : Word
  poison : Bool
  deriving DecidableEq, Repr

/-- A 64-bit value with its poison: a uniform register, an operand or a result (R286). -/
structure UVal where
  val : DWord
  poison : Bool
  deriving DecidableEq, Repr

/-- The four flags of a condition register (R315). -/
structure Flags where
  n : Bool
  z : Bool
  c : Bool
  v : Bool
  deriving DecidableEq, Repr

/-- A condition register with its poison. -/
structure CondReg where
  flags : Flags
  poison : Bool
  deriving DecidableEq, Repr

/-- The condition registers `c0` to `c3` of a thread (R140). -/
structure CondRegs where
  c0 : CondReg
  c1 : CondReg
  c2 : CondReg
  c3 : CondReg
  deriving DecidableEq, Repr

/-- A bypass latch (R158, R159). -/
structure Latch where
  val : DWord
  valid : Bool
  poison : Bool
  deriving DecidableEq, Repr

/-- Memory as a canonical list of cells, zero where unlisted (assumption 3), and its poisoned 32-byte granules,
rising (R286). -/
structure ByteMem where
  cells : List Host.Cell
  poison : List Nat
  deriving DecidableEq, Repr

/-! ## Threads (R140) -/

/-- A thread: its core, its block's slot-table entry and its index. -/
structure ThreadId where
  core : Nat
  ent : Nat
  tid : Nat
  deriving DecidableEq, Repr

/-- A word in the scratchpad of a gang member: rank and offset in its allocation. -/
structure ScrWord where
  member : Nat
  off : Nat
  deriving DecidableEq, Repr

/-- The status of a thread (R140). -/
inductive Status where
  /-- ready-capable -/
  | run
  /-- held at `BAR`: the awaited word 1 of a barrier object, the token awaited against, reached through SPACE 2 or
  not, and the scope (R413) -/
  | bar (w : ScrWord) (p via gang : Bool)
  /-- held at `WAITA`: the awaited word, its value when the wait began, the destination and the PC that follows (R416) -/
  | waita (w : ScrWord) (word : Word) (d : Dst) (next : CodeAddr)
  /-- held at a rendezvous (R165): the thread's guard and the instruction -/
  | rendezvous (guard : Bool) (i : Instr)
  /-- held at an `ELECT` of block scope (R170): the thread's guard and the instruction -/
  | electBlk (guard : Bool) (i : Instr)
  /-- held on a memory fault at this address (R202) -/
  | fault (va : Nat) (write : Bool)
  /-- held at a `YIELD` of a `DET` grid (R174) -/
  | yield
  | exited
  deriving DecidableEq, Repr

/-- A result that is pending: registers `[first, first + count)` of the virtual space, a condition register and a latch, until
a cycle (R142, R143). -/
structure Pend where
  first : Nat
  count : Nat
  cc : Option (BitVec 2)
  at_ : Nat
  /-- the latch that holds the result, counted from `b0`, while the chain that formed it lasts (R158) -/
  latch : Option Nat
  deriving DecidableEq, Repr

/-- What a load in flight, or an access that acquires, waits for before it can return. -/
inductive Await where
  /-- the answer to a request: where the value lies in it, and the operand that lower lanes of the shed put into the same request
  (R190, R238) -/
  | answer (req off : Nat) (before : Option (AtomOp × Ty × Nat))
  /-- the end of a fabric command (R299) -/
  | command (id : Nat)
  /-- the replay of the block's side-log entries (R230) -/
  | replay
  deriving DecidableEq, Repr

/-- A load in flight: the value it captured and where it goes (R143; assumption 12). Requests beyond the 4,096 of a core that may be
outstanding wait unsent (R189), which shows in nothing but the time of the return. -/
structure LoadRec where
  /-- virtual register, and whether it is a pair; none with NWB -/
  reg : Option (Nat × Bool)
  /-- uniform register of an `SLD` -/
  uni : Option (BitVec 8 × Bool)
  /-- how the bytes of an answer become the value -/
  ty : Ty
  val : UVal
  /-- condition register and compare value of a `CAS` with CCE -/
  cas : Option (BitVec 2 × Nat)
  /-- what another module or the side log still owes -/
  await : Option Await
  /-- the thread acquires when the data returns, and does not issue before (R230) -/
  acq : Bool
  /-- a demoted thread issued it: a failure returns zero (R168) -/
  dem : Bool
  deriving DecidableEq, Repr

/-- A 128-byte line of another module that an engine reads: its bytes and poisoned granules, once they have come, or the status
with which its request failed. -/
structure RemoteLine where
  line : Nat
  data : Option (List Byte × List Nat)
  fail : Option Nat
  deriving DecidableEq, Repr

/-- Why a thread is not ready without being held (R227, R228, R307, R63). -/
inductive Wait where
  /-- a `.SYS` release that waits until the core's earlier fabric commands have sent their packets -/
  | commands
  /-- a chain start beyond 64 chains -/
  | chains
  /-- a release that waits for its block's side log, or at `.SYS` for acknowledgements -/
  | release (sys : Bool)
  /-- an acquire that waits for the thread's loads -/
  | loads
  /-- a fence that waits for the block's side-log entries, or for its stores alone (R226) -/
  | fence (stores : Bool)
  /-- a thread of a verified block that waits for its counterpart, the primary one until the time (R307) -/
  | verify (deadline : Nat)
  /-- a secondary thread that waits for the result of its primary's effect (R306) -/
  | result
  /-- a `COLL` or `LAUNCH` that waits for lines of its record that another module owes (R195, R429, R430) -/
  | lines
  deriving DecidableEq, Repr

/-- A trap that a thread takes at its next issue (R205, R207, R418), or whose table or handler was not mapped (R329):
then `cause` is the PC of its cause. -/
structure PendTrap where
  kind : Nat
  addr : Nat
  info : Nat
  word : Nat
  inChain : Bool
  cause : Option CodeAddr
  deriving DecidableEq, Repr

/-- A register granule that lies in the backing store; bit i of `mask` says that register i is not free (R156). -/
structure Spill where
  g : Nat
  mask : BitVec 8
  deriving DecidableEq, Repr

/-- A chain in progress (R163): its first PC, the instructions issued, and what a restart restores. -/
structure ChainSt where
  first : CodeAddr
  count : Nat
  regs : List (Nat × RegVal)
  spills : List Spill
  ccs : CondRegs
  fpstat : BitVec 5
  rngctr : Word
  deriving DecidableEq, Repr

/-- The visible and hidden state of one thread. -/
structure Thread where
  tid : Nat
  pc : CodeAddr
  depth : Nat
  fbase : Nat
  /-- size S of the current frame -/
  frame : Nat
  /-- registers that are not free and lie in the lane, rising by virtual index -/
  regs : List (Nat × RegVal)
  spills : List Spill
  ccs : CondRegs
  /-- NV DZ OF UF NX from bit 4 down (R260) -/
  fpstat : BitVec 5
  rngctr : Word
  dem : Bool
  status : Status
  /-- the tenant whose page a spill made for the held thread awaits, when it is not the thread's own (R157) -/
  heldFor : Option Nat
  /-- the uniform register of the `SLD` at which the thread is held (R369) -/
  heldUni : Option (BitVec 8)
  stale : Bool
  passed : Nat
  /-- first cycle at which the thread may issue again (R143, R144) -/
  notBefore : Nat
  /-- free issue cycles of its partition that a `YIELD` still waits (R174) -/
  yieldLeft : Nat
  chain : Option ChainSt
  pend : List Pend
  loads : List LoadRec
  wait : Option Wait
  trapNext : Option PendTrap
  /-- further traps that wait behind it, oldest first (R418) -/
  traps : List PendTrap
  /-- cycle of the latest issue, which the spill choice reads (R156) -/
  lastIssue : Nat
  /-- no instruction of the thread has issued since a fresh start (R119, R323) -/
  fresh : Bool
  /-- logged effects of the interval (R300) -/
  effects : Nat
  /-- effects of TYPE 1 to 6 of a verified block, and a comparison passed at the present PC (R306, R307) -/
  shared : Nat
  verified : Bool
  /-- the acknowledgements of the release at the present PC have come (R227) -/
  released : Bool
  /-- lines of other modules that the instruction at the PC reads (R429, R430) -/
  remote : List RemoteLine
  /-- the CRC-64 of verify mode (R306) -/
  crc : DWord
  deriving DecidableEq, Repr

/-! ## Blocks -/

/-- A bind record (R118). -/
structure BindRec where
  gen : BitVec 16
  node : Nat
  prio : Nat
  rank : Nat
  gsize : Nat
  tenant : Nat
  resume : Bool
  img : Word
  block : Nat
  entry : CodeAddr
  nunif : Nat
  threads : Nat
  flags : BitVec 16
  contract : Nat
  frame : Nat
  slotCnt : Nat
  slotBase : Nat
  scrLen : Nat
  scrBase : Nat
  seed : DWord
  trapTab : CodeAddr
  backing : CodeAddr
  deriving DecidableEq, Repr

/-- What a copy command does when it completes (R423): the offset of a barrier object that takes the byte count, and of a
flag word with its value, both in the block's own scratchpad. -/
structure Done where
  bar : Option Nat
  flag : Option (Nat × Word)
  deriving DecidableEq, Repr

/-- The records of a copy command as they stood at its issue: four words of each. -/
structure RecWords where
  w0 : DWord
  w1 : DWord
  w2 : DWord
  w3 : DWord
  deriving DecidableEq, Repr

/-- A queued copy command (R419 to R424). -/
structure CopyCmd where
  /-- 0 CPY.LIN, 1 CPY.GATH, 2 CPYT.G2S, 3 CPYT.S2G, 4 MXLDB -/
  form : Nat
  tid : Nat
  /-- the instruction that formed it -/
  pc : CodeAddr
  src : RecWords
  dst : RecWords
  /-- the operand group, as dwords in the order of R420 to R423 and R455 -/
  args : List DWord
  done : Done
  /-- COMP of the instruction, whether or not `done` names it -/
  comp : Nat
  /-- bit of the command's own order number, which the snapshot wait reads -/
  seq : Nat
  /-- the command was issued before a snapshot point or rollback that waits for it -/
  awaited : Bool
  /-- lines asked of other modules, and packets whose acknowledgement is owed -/
  remote : List RemoteLine
  owed : Nat
  /-- every byte has been moved -/
  moved : Bool
  deriving DecidableEq, Repr

/-- A failure of a command after its issue (R418): trap kind, address and status. -/
structure EngFail where
  kind : Nat
  addr : Nat
  status : Nat
  deriving DecidableEq, Repr

/-- An entry of the effect log (R300). -/
structure Effect where
  pc : CodeAddr
  type : Nat
  thread : Nat
  tseq : Nat
  result : DWord
  baroff : Nat
  barv : Bool
  count : Word
  /-- what the effect still waits for, which gives its result, and the failure in which it ended -/
  owed : Option Await
  fail : Option EngFail
  deriving DecidableEq, Repr

/-- A snapshot buffer of a block (R296, R297). -/
structure Snapshot where
  unif : List (Nat × UVal)
  threads : List Thread
  token : Option Nat
  scratch : List Byte
  scratchPoison : List Nat
  deriving DecidableEq, Repr

/-- `SNAP` of a block: the control words and the two buffers (R297). -/
structure SnapSt where
  cur : Bool
  a : Option Snapshot
  b : Option Snapshot
  log : List Effect
  unprot : Bool
  rolls : Nat
  /-- a snapshot point waits for these commands -/
  point : Bool
  /-- a rollback waits for the block's commands -/
  rolling : Bool
  deriving DecidableEq, Repr

/-- The part of a block in a verified pair (R122, R306). -/
inductive VerifyRole where
  | single | primary | secondary
  deriving DecidableEq, Repr

/-- A block that is bound to a slot-table entry of a core. -/
structure Block where
  core : Nat
  ent : Nat
  rec_ : BindRec
  /-- residence index (R117), kept beside the record -/
  res : Nat
  /-- order of binding on the part, which pre-emption and the control lists read -/
  order : Nat
  unif : List (Nat × UVal)
  threads : List Thread
  token : Option Nat
  /-- the dispatch logic has started the block (R119) -/
  started : Bool
  /-- the block's gang has been killed (R113) -/
  killed : Bool
  copies : List CopyCmd
  /-- commands issued by the block so far -/
  cmdSeq : Nat
  snap : Option SnapSt
  verify : VerifyRole
  /-- effects of TYPE 1 to 6 whose results the secondary receives (R306) -/
  results : List Effect
  /-- granule of the latest poison creation caused by the block (R290) -/
  origin : Nat
  /-- the gang is being saved (R124) -/
  saving : Bool
  /-- the release of its end has sent its markers (R111) -/
  closing : Bool
  deriving DecidableEq, Repr

/-- The bypass latches of one lane and the thread it executed last (R158, R159). -/
structure LaneSt where
  core : Nat
  part : Nat
  lane : Nat
  last : Option (Nat × Nat)
  b0 : Latch
  b1 : Latch
  b2 : Latch
  b3 : Latch
  deriving DecidableEq, Repr

/-! ## Caches and the side log -/

/-- A line of an L1 (R186), with a clean and a dirty mask per byte. -/
structure L1Line where
  core : Nat
  /-- physical address divided by 128 -/
  line : Nat
  data : List Byte
  clean : BitVec 128
  dirty : BitVec 128
  /-- poison of the four granules -/
  poison : BitVec 4
  /-- the tenant and the virtual line (address divided by 128) of its latest access, on whose account its requests go (R217) -/
  tenant : Nat
  vline : Nat
  deriving DecidableEq, Repr

/-- What a walk finds of a command in progress on the page (R213, R215). -/
inductive Px where
  | none
  /-- PERM: the new RD, WR and EX -/
  | perm (rd wr ex : Bool)
  | migrate
  deriving DecidableEq, Repr

/-- A TLB entry (R198), tagged with its tenant and the virtual page it maps. -/
structure TlbEntry where
  tenant : Nat
  /-- first virtual address and size of the mapping -/
  va : Nat
  size : Nat
  pfn : Nat
  rd : Bool
  wr : Bool
  ex : Bool
  tier : Nat
  kind : Nat
  stamp : Nat
  /-- what the walk found of a command in progress -/
  px : Px
  deriving DecidableEq, Repr

/-- A side-log entry (R203). -/
structure SideEntry where
  line : Nat
  op : Nat
  sub : BitVec 8
  ord : BitVec 2
  /-- the access's scope, which its replay performs with (assumption 26) -/
  scope : Scope
  thread : Nat
  slote : Nat
  mask : BitVec 128
  data : List Byte
  /-- poison of the bytes logged -/
  poison : BitVec 128
  tenant : Nat
  /-- the instruction that formed it -/
  pc : CodeAddr
  deriving DecidableEq, Repr

/-- A fetch block in an instruction buffer (R324): the checked bytes of slots and header. -/
structure IBlock where
  tenant : Nat
  addr : Nat
  nslot : Nat
  entry : Bool
  frame : Nat
  words : List (BitVec 96)
  /-- after a shootdown of its page: the only threads (entry, index) that may still use it (R214) -/
  only : Option (List (Nat × Nat))
  deriving DecidableEq, Repr

/-- A core (R104, R198, R203, R324). -/
structure Core where
  num : Nat
  tlb : List TlbEntry
  sideLog : List SideEntry
  /-- most recently used first -/
  ibuf : List IBlock
  /-- per partition: the cycle of its latest issue, and the first cycle at which its issue is free again (R143) -/
  busy : List (Nat × (Nat × Nat))
  /-- slot-table entries of resident `DET` blocks in control order (R173) -/
  control : List Nat
  deriving DecidableEq, Repr

/-! ## Matrix engines (R434 to R463) -/

/-- An accumulator entry: 32 bits in a narrow bank, 64 in a wide one. -/
structure AccEntry where
  row : Nat
  col : Nat
  val : DWord
  poison : Bool
  deriving DecidableEq, Repr

/-- A physical accumulator bank (R440). -/
structure Bank where
  /-- the gang that holds it: node, generation and first block -/
  gang : Option (Nat × BitVec 16 × Nat)
  logical : Nat
  wide : Bool
  /-- entries that are not zero or are poisoned, by row and column -/
  cells : List AccEntry
  deriving DecidableEq, Repr

/-- What a reservation-table entry asks for (R437, R443, R457). -/
inductive MxReq where
  /-- `MXOP`: the scratchpad parameter block as captured and the destination record -/
  | op (params : List DWord) (rcd : Option RecWords)
  /-- `MXACC`: operation, format and operand group -/
  | acc (o : Nat) (f : Nat) (args : List Word)
  deriving DecidableEq, Repr

/-- An entry of a reservation table (R437). -/
structure MxEntry where
  post : Nat
  gang : Nat × BitVec 16 × Nat
  core : Nat
  ent : Nat
  tid : Nat
  /-- the instruction that formed it -/
  pc : CodeAddr
  tenant : Nat
  req : MxReq
  grants : Nat
  aged : Bool
  nextPass : Nat
  /-- the next pass has failed its residue check once (R463) -/
  retried : Bool
  /-- while it runs: its first pass since the grant, and the bank before that pass -/
  from_ : Nat
  c0 : List AccEntry
  deriving DecidableEq, Repr

/-- Sticky flags of a gang (R459). -/
structure MxSticky where
  gang : Nat × BitVec 16 × Nat
  bits : Word
  deriving DecidableEq, Repr

/-- A matrix engine. -/
structure Engine where
  quad : Nat
  table : List MxEntry
  running : Option MxEntry
  posts : Nat
  banks : List Bank
  stickies : List MxSticky
  /-- a pass of the running operation is in progress, and it is narrowed (R452) -/
  passing : Bool
  narrow : Bool
  /-- the cycle at which its set-up, pass or write-out in progress ends (R451) -/
  due : Nat
  deriving DecidableEq, Repr

/-! ## Nodes and images (R107, R125) -/

inductive NodeState where
  | free | armed | ready | running | ending
  deriving DecidableEq, Repr

/-- The captured launch of a grid node: words 0 to 8 of the record and the uniform image (R96, R108). -/
structure Launched where
  entry : CodeAddr
  contract : Nat
  flags : BitVec 16
  threads : Nat
  gang : Nat
  prio : Nat
  gridx : Nat
  gridy : Nat
  gridz : Nat
  scratch : Nat
  frame : Nat
  nunif : Nat
  seed : DWord
  trapTab : CodeAddr
  backing : CodeAddr
  unif : List (Nat × UVal)
  deriving DecidableEq, Repr

/-- A node-table entry (R107). -/
structure Node where
  num : Nat
  gen : BitVec 16
  outcome : Nat
  failin : Bool
  paced : Bool
  vec : Nat
  pred : Nat
  tenant : Nat
  event : Bool
  st : NodeState
  cnode : Nat
  cnv : Bool
  cseq : Word
  nextblk : Nat
  /-- first blocks of the gangs beyond NEXTBLK that are bound already (R121) -/
  ahead : List Nat
  live : Nat
  energy : Nat
  /-- energy charged beyond the whole mJ of ENERGY, in µJ (R134) -/
  micro : Nat
  ecap : Nat
  launch : Option Launched
  /-- in-service cores or quads captured at READY for a `DET` grid (R121) -/
  places : List Nat
  deriving DecidableEq, Repr

/-- A barrier addition queued for a saved block (R64). -/
structure Addition where
  off : Nat
  n : Word
  deriving DecidableEq, Repr

/-- A context image (R125). -/
structure Image where
  /-- offset in the pool in 64 KiB units, and length -/
  addr : Nat
  len : Nat
  format : Nat
  lanes : Nat
  rec_ : BindRec
  res : Nat
  order : Nat
  unif : List (Nat × UVal)
  threads : List Thread
  token : Option Nat
  copies : List CopyCmd
  cmdSeq : Nat
  sideLog : List SideEntry
  scratch : List Byte
  scratchPoison : List Nat
  /-- saved entries of the block, in post-number order (R461) -/
  posts : List MxEntry
  /-- in rank 0's image: saved banks and the gang's sticky flags -/
  banks : List Bank
  sticky : Word
  /-- physical die and quad that saved it (R188) -/
  place : Nat
  /-- logical core that saved it, and a remap of its quad did (R130) -/
  core : Nat
  remap : Bool
  /-- peak granules held in any one lane (R125) -/
  gran : Nat
  additions : List Addition
  snap : Option SnapSt
  verify : VerifyRole
  results : List Effect
  origin : Nat
  /-- the save is complete -/
  saved : Bool
  deriving DecidableEq, Repr

/-! ## Fabric (R36 to R55) -/

/-- A fabric port (R36, R37). -/
structure Port where
  proterr : Nat
  crcerr : Nat
  up : Bool
  lanes : BitVec 8
  deriving DecidableEq, Repr

/-- Where a thread's command reports a failure (R418), and the block it belongs to. -/
structure Owner where
  tid : ThreadId
  node : Nat
  block : Nat
  gen : BitVec 16
  /-- which copy of a verified block -/
  role : VerifyRole
  deriving DecidableEq, Repr

/-- What an unacknowledged packet belongs to. -/
inductive Origin where
  /-- a fabric command (R427) -/
  | command (id : Nat)
  /-- a store or an atomic without return of threads of a shed to a TIER 2 page (R190, R207) -/
  | store (os : List Owner)
  /-- a load or an atomic with return of a thread to a TIER 2 page -/
  | load (o : Owner) (req : Nat)
  /-- a line read or bytes written by a copy command of a block -/
  | copy (o : Owner) (seq : Nat)
  /-- a collective step of a chain -/
  | step (chain : Nat)
  /-- a response of this module to a request -/
  | response
  /-- a flush marker of a core (R50) -/
  | marker (core : Nat)
  /-- a line of another module read for a record that a thread's `COLL` or `LAUNCH` names -/
  | record (o : Owner)
  /-- a line of another module read for a chain of steps -/
  | chainLine (chain : Nat)
  /-- bytes that a chain writes to another module -/
  | chainWrite (chain : Nat)
  /-- a line read in, or bytes written to, a tenant's migration queue in another module: of its commands, or of its notifications
  (R208) -/
  | queueLine (tenant : Nat) (commands : Bool)
  | queueWrite (tenant : Nat) (commands : Bool)
  deriving DecidableEq, Repr

/-- A sent packet of class 2 that awaits its acknowledgement (R44). -/
structure Unacked where
  packet : Packet
  core : Nat
  sends : Nat
  deadline : Nat
  /-- acknowledged: a request that still awaits its response -/
  acked : Bool
  /-- the destination has it and holds it (R43) -/
  held : Bool
  origin : Origin
  deriving DecidableEq, Repr

/-- A flush marker that awaits its acknowledgement (R50). -/
structure Marker where
  core : Nat
  dmod : BitVec 11
  path : BitVec 4
  sten : BitVec 4
  dten : BitVec 4
  seq : Word
  deriving DecidableEq, Repr

/-- A request held at this destination: until its page is mapped, up to an instant (R43), or until the markers that it follows
have been gathered and what is ahead of it is visible (R50). -/
structure HeldPacket where
  packet : Packet
  deadline : Option Nat
  deriving DecidableEq, Repr

/-- A path to a destination that carried a packet of class 2 since the core's previous `.SYS` release (R50). -/
structure UsedPath where
  core : Nat
  dmod : BitVec 11
  path : BitVec 4
  /-- the tenants of the first packet that used it, which its marker carries -/
  sten : BitVec 4
  dten : BitVec 4
  deriving DecidableEq, Repr

/-- Bytes that answered a read of a `GET`: their offset in the transfer, and the poisoned granules among them. -/
structure Arrived where
  off : Nat
  bytes : List Byte
  marks : List Nat
  deriving DecidableEq, Repr

/-- A fabric command in flight (R425 to R428). -/
structure FabCmd where
  id : Nat
  /-- 0 PUT, 1 PUTS, 2 GET -/
  form : Nat
  core : Nat
  owner : Owner
  /-- the instruction that formed it -/
  pc : CodeAddr
  /-- the eight words of the command block -/
  words : List DWord
  /-- the local record and the offset in it of the first byte, when the local side is global -/
  local_ : Option (RecWords × Nat)
  /-- its packets or requests have been sent -/
  started : Bool
  /-- packets and requests whose end is awaited -/
  waiting : Nat
  /-- the packet of a `PUTS` that carries the signal, sent when all others are acknowledged -/
  final : Option Packet
  /-- the first failure met -/
  fail : Option EngFail
  /-- flush markers must be acknowledged before the packets are sent, but for those to the destination, which its packets
  follow (R50) -/
  awaitMarkers : Bool
  follows : List (BitVec 4 × BitVec 4 × Word)
  /-- lines of other modules that the local side reads -/
  remote : List RemoteLine
  /-- data of a `GET` that has come, and whether it has been written -/
  arrived : List Arrived
  stored : Bool
  /-- a snapshot point or rollback waits for it -/
  awaited : Bool
  deriving DecidableEq, Repr

/-! ## Collectives (R56 to R73) -/

inductive CommState where
  | setup | up | failed
  deriving DecidableEq, Repr

/-- A communicator of the table (R56, R57). -/
structure Comm where
  id : Nat
  tenant : Nat
  /-- the page of its record, and the record's address -/
  page : TlbEntry
  recAddr : CodeAddr
  mode : Nat
  size : Nat
  rank : Nat
  ceil : Nat
  tmo : Nat
  btree : Bool
  winBase : Nat
  winSize : Nat
  /-- module and tenant of each rank -/
  ranks : List (Nat × Nat)
  bar : Option Nat
  owner : Owner
  st : CommState
  agreed : Nat
  deadline : Option Nat
  /-- in the current barrier episode: the ranks below in the tree whose arrival has come, whether this member has
  arrived, and whether its arrival has gone up -/
  arrived : List Nat
  joined : Bool
  passedUp : Bool
  episode : Nat
  deriving DecidableEq, Repr

/-- A ready packet that has come (R65): the step that a peer has posted. -/
structure Ready where
  comm : Nat
  tag : BitVec 16
  rank : Nat
  kind : Nat
  opn : Nat
  dtype : Nat
  acc : Nat
  count : Nat
  deriving DecidableEq, Repr

/-- What a peer tells of a matched step: that it has written its results, or the status with which it failed (R65). -/
structure StepNote where
  comm : Nat
  tag : BitVec 16
  rank : Nat
  /-- of a step with one peer -/
  paired : Bool
  status : Nat
  deriving DecidableEq, Repr

/-- Step data that has arrived: source rank, round, first element, elements and clamp marks. -/
structure StepData where
  comm : Nat
  tag : BitVec 16
  rank : Nat
  /-- of a step with one peer -/
  paired : Bool
  round : Nat
  first : Nat
  vals : List (BitVec 128 × Bool)
  deriving DecidableEq, Repr

/-- Where a chain's current step stands (R61 to R66, R72). -/
inductive StepPhase where
  /-- read, not yet posted -/
  | read
  /-- its ready packets are sent -/
  | posted
  /-- matched, its inputs not read yet -/
  | matched
  /-- its inputs are read: data moves -/
  | moving
  /-- its results are on their way to another module -/
  | writing
  /-- this member has written its results; its peers have not all said so -/
  | written
  /-- ended with the chain's status, which its record does not hold yet -/
  | ended
  /-- the next step's page is not valid -/
  | reading
  deriving DecidableEq, Repr

/-- A chain of collective steps (R61 to R64). -/
structure Chain where
  id : Nat
  tenant : Nat
  owner : Owner
  core : Nat
  /-- page, address and words of the current step; with `reading`, the address of the next -/
  page : TlbEntry
  addr : CodeAddr
  words : List DWord
  /-- word 5 was read unpoisoned (R429) -/
  nodeOk : Bool
  phase : StepPhase
  deadline : Option Nat
  /-- the round of the schedule, and whether its data has been sent; of an ended step, whether its STATUS has been sent -/
  round : Nat
  sent : Bool
  /-- this member's values with clamp marks, and the first of the elements that it still holds -/
  acc : List (BitVec 128 × Bool)
  lo : Nat
  count : Nat
  /-- since when a window page is awaited -/
  since : Option Nat
  /-- the `.SYS` release of a BARRIER step has sent its markers -/
  released : Bool
  /-- lines of other modules that the chain reads, and writes to other modules that are not acknowledged -/
  remote : List RemoteLine
  owed : Nat
  /-- TMO of the latest communicator, in ms -/
  tmo : Nat
  status : Nat
  deriving DecidableEq, Repr

/-! ## Tenants and host (R74 to R103) -/

/-- One MSI-X vector: its table entry and pending bit (R88). -/
structure Vector where
  num : Nat
  addr : DWord
  data : Word
  masked : Bool
  pending : Bool
  deriving DecidableEq, Repr

/-- Attestation registers of a function (R84, R102). -/
structure Attest where
  addr : DWord
  op : Nat
  busy : Bool
  st : Nat
  nonce : List Byte
  deriving DecidableEq, Repr

/-- An error queue of a function (R89, R293). -/
structure ErrQueue where
  base : DWord
  head : Nat
  tail : Nat
  seq : Nat
  lost : Nat
  deriving DecidableEq, Repr

/-- A slot of a launch window (R91 to R95). -/
structure LaunchSlot where
  /-- words 0 to 14 as bytes, and the bytes of word 15 that partial writes left -/
  bytes : List Byte
  expseq : Word
  code : Nat
  node : Nat
  deriving DecidableEq, Repr

/-- A notification that is not posted yet (R208), and the leaf whose MQ it sets when it is (R217, R218). -/
structure Notice where
  type : Nat
  va : Nat
  write : Bool
  heatW : Nat
  heatR : Nat
  tier : Nat
  leaf : Option Nat
  deriving DecidableEq, Repr

/-- Where the device stands with a migration queue that lies in another module (R195, R208): lines read there, a write that is not
acknowledged, and how many of the writes of the current entry have been made. -/
structure QueueWork where
  lines : List RemoteLine
  owed : Bool
  stage : Nat
  deriving DecidableEq, Repr

/-- A leaf under a command of the translation service: its first page, its place and its bits as last seen (R213, R215, R216). -/
structure PxLeaf where
  page : Nat
  addr : Nat
  /-- it maps a large page -/
  large : Bool
  bits : DWord
  deriving DecidableEq, Repr

/-- An access counter of an L2 die for a page (R217). -/
structure Counter where
  die : Nat
  tenant : Nat
  page : Nat
  count : Nat
  deriving DecidableEq, Repr

/-- The configuration page of a tenant (R80) and its control page (R84). -/
structure Tenant where
  enable : Bool
  maxprio : Nat
  nodecnt : Nat
  nodefirst : Nat
  tbudget : Nat
  agemax : Nat
  paths : Nat
  portmask : BitVec 16
  twin : List DWord
  hostBase : DWord
  hostSize : DWord
  peers : List DWord
  ptroot : DWord
  seed : DWord
  aperbase : DWord
  mismatch : Nat
  sigref : Nat
  migdrop : Nat
  apererr : Nat
  stamps : List Nat
  migqbase : DWord
  tmeasin : List Byte
  tmeas : List Byte
  errq : ErrQueue
  att : Attest
  slots : List LaunchSlot
  vectors : List Vector
  /-- FXSTAT.OVF (R272) -/
  fxovf : Bool
  /-- the virtual function is enabled (R76) -/
  vfOn : Bool
  /-- the planner's account in mJ, energy charged in the interval, and whether the tenant is paced (R132) -/
  budget : Int
  spent : Nat
  paced : Bool
  /-- energy meter in µJ (R29) -/
  energy : Nat
  /-- progress of the translation command (R211 to R216): phase, its words and leaves marked -/
  service : Option (Nat × List DWord)
  /-- the leaves of the command in progress -/
  pxLeaves : List PxLeaf
  /-- lines of the old frames written since a copy began: in host memory or in the module's (R215) -/
  marked : List (Bool × Nat)
  /-- last not-present notification per page (R206) -/
  notified : List (Nat × Nat)
  /-- notifications on their way to a queue in another module, oldest first, and the work on them and on the commands there -/
  notices : List Notice
  posting : QueueWork
  serving : QueueWork
  /-- a command there that has ended, with its status -/
  ending : Option (List DWord × Nat)
  /-- the µs in which the service last asked for the commands there, and the sweeper's latest period of the tenant, both counted
  from module reset (R211, R218) -/
  polled : Nat
  swept : Nat
  deriving DecidableEq, Repr

/-- A message that the part has sent to the host: an MSI-X vector of a function (R88). -/
structure Message where
  fn : Nat
  vec : Nat
  addr : DWord
  data : Word
  deriving DecidableEq, Repr

/-- A repair-log entry (R77). -/
structure Repair where
  time : DWord
  word1 : DWord
  seq : DWord
  deriving DecidableEq, Repr

/-- A request queued in the security block (R102). -/
structure AttestReq where
  fn : Nat
  op : Nat
  addr : DWord
  nonce : List Byte
  deriving DecidableEq, Repr

/-! ## The module -/

/-- Use of a unit since the latest meter update, on account of a tenant and, where a grid's block caused it, of the grid's node
and generation (R30): issue slots of a core (unit 0), passes of an engine (1), requests of a kind to the memories and the
fabric (2). -/
structure Usage where
  unit : Nat
  num : Nat
  tenant : Nat
  grid : Option (Nat × BitVec 16)
  count : Nat
  deriving DecidableEq, Repr

/-- Power, temperature and planning (R23 to R29, R132). -/
structure Power where
  limit : Nat
  /-- a LIMIT that takes effect at the next planning interval (R24) -/
  newLimit : Option Nat
  power : Nat
  tmax : Nat
  trip : Bool
  /-- a change of the arithmetic clock to the lowered rate, or back, that waits for the passes in progress (R27) -/
  retune : Option Bool
  alarm : Bool
  droop : Bool
  therm : Bool
  /-- temperature condition of R26 holding -/
  hot : Bool
  /-- conditions of R26 that hold now -/
  condition : Bool
  /-- timebase of the last instant at which a condition held, a droop was reported, a sensor read 100 °C -/
  lastCondition : Nat
  lastDroop : Nat
  lastHot : Nat
  /-- emergency stop (R27) -/
  stopped : Bool
  /-- the monitors as last sampled, and the samples taken: one in each µs of timebase (R25) -/
  sample : Option Sample
  samples : Nat
  /-- process monitor counts as last read, and the reads made: at bring-up and in each second (R25) -/
  process : List Nat
  processReads : Nat
  coreMeters : List (Nat × Nat)
  engineMeters : List (Nat × Nat)
  module : Nat
  /-- energy of the module and of the tenants charged in the interval, in µJ -/
  spent : Nat
  meterTime : Nat
  /-- meter updates made, one in each 10 µs of timebase (R29), and the use since the latest -/
  updates : Nat
  used : List Usage
  /-- planning intervals begun, one at each ms of timebase (R24, R132) -/
  interval : Nat
  deriving DecidableEq, Repr

/-- Bring-up, measurement and identity (R34, R77, R100 to R103). -/
structure Boot where
  /-- what the bring-up in progress meets, and the instant at which its next step ends (R34) -/
  report : Option BootReport
  due : Nat
  step : Nat
  fail : Bool
  updst : Nat
  quadMap : List QuadEntry
  spareFree : Bool × Bool
  absent : List Nat
  retired : List Nat
  routes : List (Nat × List Nat)
  self : BitVec 11
  fevar : DWord
  repairRecord : List Byte
  meas : List (List Byte)
  repairs : List Repair
  repairSeq : Nat
  /-- instant up to which a live update pauses binding (R35) -/
  pausedUntil : Nat
  /-- failed quads whose repair is not complete, in the order in which their faults were recorded; the first of each die is
  being remapped (R33, R130) -/
  remapping : List Nat
  linkWidth : Nat
  linkRate : Nat
  numVfs : Nat
  /-- the sweeper's period in µs (R218) -/
  sweepPeriod : Nat
  deriving DecidableEq, Repr

/-- The physical function beside the pages above. -/
structure PhysFn where
  errq : ErrQueue
  att : Attest
  vectors : List Vector
  deriving DecidableEq, Repr

/-- The fabric side of the module. -/
structure Fabric where
  ports : List Port
  /-- next SEQ per destination module and tenant pair -/
  seqs : List ((BitVec 11 × BitVec 4 × BitVec 4) × Word)
  unacked : List Unacked
  markers : List Marker
  used : List UsedPath
  /-- sequence numbers already acknowledged, per source -/
  seen : List (BitVec 11 × BitVec 4 × BitVec 4 × Word)
  held : List HeldPacket
  cmds : List FabCmd
  nextId : Nat
  /-- packets sent, oldest first -/
  out : List Packet
  deriving DecidableEq, Repr

/-- The collective engine. -/
structure CollEngine where
  comms : List Comm
  chains : List Chain
  nextChain : Nat
  ready : List Ready
  notes : List StepNote
  data : List StepData
  deriving DecidableEq, Repr

/-- A shed whose instruction is due (R146): its PC and its members in ascending lane order. -/
structure Shed where
  core : Nat
  part : Nat
  pc : CodeAddr
  members : List ThreadId
  /-- lane at which the rotated issue of `TWIN` differs (R295) -/
  twinLane : Option Nat
  deriving DecidableEq, Repr

/-- One entry of the agenda: cycles that pass, then an event. The agenda is the model's own field: it fixes the order
and the timing that the spec leaves open and what arrives from outside (assumption 1). -/
structure Occasion where
  dt : Nat
  ev : Instr
  deriving DecidableEq, Repr

/-- An uncorrectable error that no read has found yet (R284, R286): a granule of physical memory, or of its copy in L2. -/
structure Latent where
  granule : Nat
  l2 : Bool
  syndrome : Word
  deriving DecidableEq, Repr

/-- A host read and the value it returned: the answers to host requests, latest first. -/
structure HostRead where
  value : List Byte
  poison : Bool
  unsupported : Bool
  deriving DecidableEq, Repr

/-- The state of the part. -/
structure State where
  cycle : Nat
  /-- half nanoseconds since module reset; the timebase (R21) is half of it -/
  halfNs : Nat
  boot : Boot
  power : Power
  pf : PhysFn
  tenants : List Tenant
  nodes : List Node
  cseq : Word
  blocks : List Block
  cores : List Core
  lanes : List LaneSt
  images : List Image
  nextOrder : Nat
  mem : ByteMem
  host : ByteMem
  scratch : ByteMem
  bstore : ByteMem
  /-- last writing tenant and epoch of a tile (R188) -/
  tiles : List (Nat × Nat × Word)
  latent : List Latent
  l1 : List L1Line
  /-- the access counters of the two L2 dies, latest used first (R217) -/
  counters : List Counter
  quadTlb : List (Nat × TlbEntry)
  fabric : Fabric
  coll : CollEngine
  engines : List Engine
  requests : List AttestReq
  messages : List Message
  reads : List HostRead
  /-- corrected errors merged per unit in the last millisecond: unit, since when, count (R290) -/
  merged : List (Nat × Nat × Nat)
  shed : Option Shed
  agenda : List Occasion
  deriving DecidableEq, Repr

/-! ## Reset -/

def Flags.zero : Flags := ⟨false, false, false, false⟩
def CondReg.zero : CondReg := ⟨Flags.zero, false⟩
def CondRegs.zero : CondRegs := ⟨CondReg.zero, CondReg.zero, CondReg.zero, CondReg.zero⟩
def ByteMem.empty : ByteMem := ⟨[], []⟩
def zeroBytes (n : Nat) : List Byte := List.replicate n 0

/-- MSI-X vectors are masked at reset (PCI Express; assumption 5). -/
def Vector.reset (n : Nat) : Vector := ⟨n, 0, 0, true, false⟩
def ErrQueue.reset : ErrQueue := ⟨0, 0, 0, 0, 0⟩
def Attest.reset : Attest := ⟨0, 0, false, 0, zeroBytes 32⟩
/-- A launch slot at reset (R91, R95). -/
def LaunchSlot.reset : LaunchSlot := ⟨zeroBytes 128, 1, 0, 0⟩

/-- A tenant at reset (R80, R84). -/
def Tenant.reset : Tenant where
  enable := false
  maxprio := 0
  nodecnt := 0
  nodefirst := 0
  tbudget := 0
  agemax := 0x400
  paths := 3
  portmask := 0xFFFF
  twin := List.replicate 8 0
  hostBase := 0
  hostSize := 0
  peers := List.replicate 64 0
  ptroot := 0
  seed := 0
  aperbase := 0
  mismatch := 0
  sigref := 0
  migdrop := 0
  apererr := 0
  stamps := List.replicate 16 0
  migqbase := 0
  tmeasin := zeroBytes 32
  tmeas := zeroBytes 32
  errq := ErrQueue.reset
  att := Attest.reset
  slots := List.replicate 32 LaunchSlot.reset
  vectors := (List.range 64).map Vector.reset
  fxovf := false
  vfOn := false
  budget := 0
  spent := 0
  paced := false
  energy := 0
  service := none
  pxLeaves := []
  marked := []
  notified := []
  notices := []
  posting := ⟨[], false, 0⟩
  serving := ⟨[], false, 0⟩
  ending := none
  polled := 0
  swept := 0

/-- Power state at reset (R23, R28, R29). -/
def Power.reset : Power where
  limit := 2200
  newLimit := none
  power := 0
  tmax := 0
  trip := false
  retune := none
  alarm := false
  droop := false
  therm := false
  hot := false
  condition := false
  lastCondition := 0
  lastDroop := 0
  lastHot := 0
  stopped := false
  sample := none
  samples := 0
  process := []
  processReads := 0
  coreMeters := []
  engineMeters := []
  module := 0
  spent := 0
  meterTime := 0
  updates := 0
  used := []
  interval := 0

/-- Bring-up state at module reset: no step is complete (R34). -/
def Boot.reset : Boot where
  report := none
  due := 0
  step := 0
  fail := false
  updst := 0
  quadMap := (List.range 48).map (fun n => ⟨true, decide (24 ≤ n), BitVec.ofNat 5 (n % 24)⟩)
  spareFree := (true, true)
  absent := []
  retired := []
  routes := []
  self := 0
  fevar := 0
  repairRecord := []
  meas := List.replicate 4 (zeroBytes 32)
  repairs := []
  repairSeq := 0
  pausedUntil := 0
  remapping := []
  linkWidth := 16
  linkRate := 6
  numVfs := 0
  sweepPeriod := 8000

/-- The fabric at reset (R37). -/
def Fabric.reset : Fabric where
  ports := List.replicate 16 ⟨0, 0, false, 0⟩
  seqs := []
  unacked := []
  markers := []
  used := []
  seen := []
  held := []
  cmds := []
  nextId := 0
  out := []

/-- The part right after module reset: no bring-up step is complete, nothing is bound, every counter is zero. -/
def State.reset : State where
  cycle := 0
  halfNs := 0
  boot := Boot.reset
  power := Power.reset
  pf := ⟨ErrQueue.reset, Attest.reset, (List.range 8).map Vector.reset⟩
  tenants := List.replicate 16 Tenant.reset
  nodes := []
  cseq := 0
  blocks := []
  cores := []
  lanes := []
  images := []
  nextOrder := 0
  mem := ByteMem.empty
  host := ByteMem.empty
  scratch := ByteMem.empty
  bstore := ByteMem.empty
  tiles := []
  latent := []
  l1 := []
  counters := []
  quadTlb := []
  fabric := Fabric.reset
  coll := ⟨[], [], 0, [], [], []⟩
  engines := []
  requests := []
  messages := []
  reads := []
  merged := []
  shed := none
  agenda := []

end Sys2Proof.Machine
end

