-- ==== Sys2Proof/Machine/Bits.lean ====
section
/-! DEFINITION. Numbers, fields and lists: the small helpers that the meanings share (R339). -/

namespace Sys2Proof.Machine

/-- The two's-complement value of the low `n` bits of `x` (`SignExtend`, R339). -/
def signedOf (n x : Nat) : Int :=
  let y := x % 2 ^ n
  if 2 * y < 2 ^ n then (y : Int) else (y : Int) - (2 ^ n : Nat)

/-- The low `n` bits of an integer. -/
def lowBits (n : Nat) (x : Int) : Nat := (x % ((2 ^ n : Nat) : Int)).toNat

/-- `Clamp` of R339. -/
def clampInt (v lo hi : Int) : Int := if v < lo then lo else if hi < v then hi else v

/-- Bits `[lo + n - 1 : lo]` of `x`. -/
def field (x lo n : Nat) : Nat := x / 2 ^ lo % 2 ^ n

/-- Bit `i` of `x`. -/
def bitOf (x i : Nat) : Bool := field x i 1 == 1

def b2n (b : Bool) : Nat := if b then 1 else 0

/-- `n / d` rounded up. -/
def ceilDiv (n d : Nat) : Nat := (n + d - 1) / d

/-- The value at a key of an association list. -/
def lookupNat {α : Type} (d : α) : List (Nat × α) → Nat → α
  | [], _ => d
  | (k, v) :: xs, i => if i = k then v else lookupNat d xs i

/-- An association list, rising by key, with the value of a key replaced or added. -/
def insertNat {α : Type} : List (Nat × α) → Nat → α → List (Nat × α)
  | [], i, v => [(i, v)]
  | (k, w) :: xs, i, v =>
    if i < k then (i, v) :: (k, w) :: xs else if i = k then (i, v) :: xs else (k, w) :: insertNat xs i v

/-- An association list without a key. -/
def eraseKey {α : Type} (xs : List (Nat × α)) (i : Nat) : List (Nat × α) := xs.filter (fun p => p.1 != i)

/-- A rising list of numbers with one more. -/
def addNat : List Nat → Nat → List Nat
  | [], x => [x]
  | y :: ys, x => if x < y then x :: y :: ys else if x = y then y :: ys else y :: addNat ys x

/-- A list of numbers without one. -/
def dropNat (xs : List Nat) (x : Nat) : List Nat := xs.filter (· != x)

/-- The least of a number and those of a list. -/
def minOf (n : Nat) : List Nat → Nat
  | [] => n
  | x :: xs => minOf (if x < n then x else n) xs

/-- The least number of a list. -/
def leastNat : List Nat → Option Nat
  | [] => none
  | x :: xs => match leastNat xs with
    | none => some x
    | some y => some (if x ≤ y then x else y)

/-- `f` applied to the element at a position. -/
def modifyAt {α : Type} (f : α → α) : List α → Nat → List α
  | [], _ => []
  | x :: xs, 0 => f x :: xs
  | x :: xs, n + 1 => x :: modifyAt f xs n

/-- A list folded over the state from its first element on. -/
def runAll {α σ : Type} (f : σ → α → σ) : List α → σ → σ
  | [], s => s
  | x :: xs, s => runAll f xs (f s x)

/-- The first of a list with the greatest measure. -/
def bestBy {α : Type} (better : α → α → Bool) : List α → Option α
  | [] => none
  | x :: xs => match bestBy better xs with
    | none => some x
    | some y => some (if better y x then y else x)

/-- The elements in rising order of a measure (insertion sort; equal elements keep their order). -/
def sortBy {α : Type} (before : α → α → Bool) : List α → List α
  | [] => []
  | x :: xs => put x (sortBy before xs)
where
  put (x : α) : List α → List α
    | [] => [x]
    | y :: ys => if before y x then y :: put x ys else x :: y :: ys

/-- The low `n` bytes of a value, lowest first (R5). -/
def toBytes : Nat → Nat → List Byte
  | 0, _ => []
  | n + 1, x => BitVec.ofNat 8 x :: toBytes n (x / 256)

/-- The value of bytes, lowest first (R5). -/
def ofBytes : List Byte → Nat
  | [] => 0
  | b :: bs => b.toNat + 256 * ofBytes bs

/-- Dwords of a byte string. -/
def toDwords : Nat → List Byte → List DWord
  | 0, _ => []
  | n + 1, bs => BitVec.ofNat 64 (ofBytes (bs.take 8)) :: toDwords n (bs.drop 8)

/-- Bytes of dwords. -/
def ofDwords (ws : List DWord) : List Byte := ws.flatMap (fun w => toBytes 8 w.toNat)

/-- The word at a position of a list of dwords, zero beyond its end. -/
def dword (ws : List DWord) (i : Nat) : Nat := (ws[i]?.getD 0).toNat

/-- A word and a dword as an operand value. -/
def word32 (x : Nat) (p : Bool) : UVal := ⟨BitVec.ofNat 64 (x % 2 ^ 32), p⟩
def word64 (x : Nat) (p : Bool) : UVal := ⟨BitVec.ofNat 64 x, p⟩

/-- The low word of a value. -/
def UVal.low (u : UVal) : Nat := u.val.toNat % 2 ^ 32
def UVal.nat (u : UVal) : Nat := u.val.toNat

end Sys2Proof.Machine
end

