-- ==== Sys2Proof/Machine/Bytes.lean ====
section
/-! DEFINITION. Byte memory in canonical form: cells rising by address, none of them zero, and poisoned granules rising. -/

namespace Sys2Proof.Machine

/-- What an address reads as; an unlisted one reads zero (assumption 3). -/
def cellGet : List Host.Cell → Nat → Byte
  | [], _ => 0
  | (a, b) :: cs, x => if x = a then b else cellGet cs x

/-- The cells with one byte written. -/
def cellSet : List Host.Cell → Nat → Byte → List Host.Cell
  | [], x, v => if v = 0 then [] else [(x, v)]
  | (a, b) :: cs, x, v =>
    if x < a then (if v = 0 then (a, b) :: cs else (x, v) :: (a, b) :: cs)
    else if x = a then (if v = 0 then cs else (x, v) :: cs)
    else (a, b) :: cellSet cs x v

/-- The canonical form of cells above a bound: addresses strictly rising, no listed zero. -/
def cellsFrom : Nat → List Host.Cell → Bool
  | _, [] => true
  | lo, (a, b) :: cs => decide (lo ≤ a) && b != 0 && cellsFrom (a + 1) cs

/-- Rising numbers from a bound on. -/
def risingFrom : Nat → List Nat → Bool
  | _, [] => true
  | lo, x :: xs => decide (lo ≤ x) && risingFrom (x + 1) xs

/-- The canonical form of a memory. -/
def ByteMem.wf (m : ByteMem) : Bool := cellsFrom 0 m.cells && risingFrom 0 m.poison

def ByteMem.get (m : ByteMem) (a : Nat) : Byte := cellGet m.cells a
def ByteMem.set (m : ByteMem) (a : Nat) (v : Byte) : ByteMem := { m with cells := cellSet m.cells a v }

/-- `n` bytes from an address on. -/
def ByteMem.read (m : ByteMem) (a : Nat) : Nat → List Byte
  | 0 => []
  | n + 1 => m.get a :: m.read (a + 1) n

/-- Bytes written from an address on. -/
def ByteMem.write (m : ByteMem) (a : Nat) : List Byte → ByteMem
  | [] => m
  | b :: bs => (m.set a b).write (a + 1) bs

/-- A little-endian value of `n` bytes. -/
def ByteMem.nat (m : ByteMem) (a n : Nat) : Nat := ofBytes (m.read a n)

/-- A granule of 32 bytes is poisoned (R286). -/
def ByteMem.poisoned (m : ByteMem) (g : Nat) : Bool := m.poison.contains g
def ByteMem.setPoison (m : ByteMem) (g : Nat) : ByteMem := { m with poison := addNat m.poison g }
def ByteMem.clearPoison (m : ByteMem) (g : Nat) : ByteMem := { m with poison := dropNat m.poison g }
def ByteMem.markPoison (m : ByteMem) (g : Nat) (p : Bool) : ByteMem := if p then m.setPoison g else m.clearPoison g

/-- The granules that `n` bytes from `a` on touch. -/
def granules (a n : Nat) : List Nat :=
  if n = 0 then [] else (List.range ((a + n - 1) / 32 - a / 32 + 1)).map (· + a / 32)

/-- Some byte of the range lies in a poisoned granule. -/
def ByteMem.anyPoison (m : ByteMem) (a n : Nat) : Bool := (granules a n).any m.poisoned

/-- A store of `bs` at `a`: poisoned data poisons every granule it touches; unpoisoned data clears a granule that it
covers whole, one of `full` too (R287). -/
def ByteMem.store (m : ByteMem) (a : Nat) (bs : List Byte) (p : Bool) (full : List Nat) : ByteMem :=
  let m1 := m.write a bs
  runAll (fun (m : ByteMem) g =>
    if p then m.setPoison g
    else if full.contains g || (decide (a ≤ 32 * g) && decide (32 * g + 32 ≤ a + bs.length)) then m.clearPoison g
    else m) (granules a bs.length) m1

/-- `n` zero bytes and no poison from `a` on. -/
def ByteMem.zero (m : ByteMem) (a n : Nat) : ByteMem where
  cells := m.cells.filter (fun c => decide (c.1 < a) || decide (a + n ≤ c.1))
  poison := m.poison.filter (fun g => decide (32 * g < a) || decide (a + n ≤ 32 * g))

end Sys2Proof.Machine
end

