-- ==== Sys2Proof/Machine/Access.lean ====
section
/-! DEFINITION. Reading and changing the parts of the state: tenants, cores, blocks, threads, lanes, engines and nodes. -/

namespace Sys2Proof.Machine

/-! ## Time -/

/-- The timebase (R21). -/
def State.time (s : State) : Nat := s.halfNs / 2 % 2 ^ 64

/-- A µs in half nanoseconds. -/
def oneMicro : Nat := 2000

/-- A change of the arithmetic clock that waits takes place once no matrix pass is in progress (R27). -/
def State.retunedPower (s : State) : Power :=
  match s.power.retune with
  | some low => if s.engines.any (fun e => e.passing) then s.power else { s.power with trip := low, retune := none }
  | none => s.power

def State.retuned (s : State) : State := { s with power := s.retunedPower }

/-- Half nanoseconds in a cycle: 0.5 ns, 1 ns under TRIP (R19, R20, R27). -/
def State.cycleTime (s : State) : Nat := if s.power.trip then 2 else 1

/-- `n` cycles of the arithmetic clock pass. -/
def State.advance (s : State) (n : Nat) : State :=
  { s with cycle := s.cycle + n, halfNs := s.halfNs + n * s.retuned.cycleTime, power := s.retunedPower }

/-! ## Use of units, which the meters read (R30) -/

/-- A use counted with those of the same unit, tenant and grid. -/
def addUsage : List Usage → Usage → List Usage
  | [], u => [u]
  | v :: vs, u =>
    if v.unit = u.unit ∧ v.num = u.num ∧ v.tenant = u.tenant ∧ v.grid = u.grid then { v with count := v.count + u.count } :: vs
    else v :: addUsage vs u

def State.uses (s : State) (u : Usage) : State := { s with power := { s.power with used := addUsage s.power.used u } }

/-- A request of a kind (0 L2 and HBM, 1 tier 2, 2 fabric) that a tenant's work caused. -/
def State.usesRequest (s : State) (kind tenant : Nat) (grid : Option (Nat × BitVec 16)) : State := s.uses ⟨2, kind, tenant, grid, 1⟩

/-! ## Tenants -/

def State.tenant (s : State) (t : Nat) : Tenant := s.tenants[t]?.getD Tenant.reset
def State.modTenant (s : State) (t : Nat) (f : Tenant → Tenant) : State := { s with tenants := modifyAt f s.tenants t }

/-- Tenant `t` owns node `n`: it lies in its range and in no lower-numbered tenant's (R81, R106). -/
def State.ownsNode (s : State) (t n : Nat) : Bool :=
  let inRange (u : Nat) : Bool :=
    let x := s.tenant u
    decide (x.nodefirst ≤ n) && decide (n < x.nodefirst + x.nodecnt)
  decide (n < 65536) && inRange t && (List.range t).all (fun u => !inRange u)

/-! ## Cores -/

def Core.empty (n : Nat) : Core := ⟨n, [], [], [], [], []⟩
def State.core (s : State) (n : Nat) : Core := (s.cores.find? (fun c => c.num == n)).getD (Core.empty n)

def putCore : List Core → Core → List Core
  | [], c => [c]
  | d :: ds, c => if d.num = c.num then c :: ds else d :: putCore ds c

def State.setCore (s : State) (c : Core) : State := { s with cores := putCore s.cores c }
def State.modCore (s : State) (n : Nat) (f : Core → Core) : State := s.setCore { f (s.core n) with num := n }

/-! ## Blocks and threads -/

def State.block? (s : State) (core ent : Nat) : Option Block :=
  s.blocks.find? (fun b => b.core == core && b.ent == ent)

def State.modBlock (s : State) (core ent : Nat) (f : Block → Block) : State :=
  { s with blocks := s.blocks.map (fun b => if b.core == core && b.ent == ent then f b else b) }

def State.thread? (s : State) (id : ThreadId) : Option Thread :=
  match s.block? id.core id.ent with
  | some b => b.threads[id.tid]?
  | none => none

def Block.modThread (b : Block) (tid : Nat) (f : Thread → Thread) : Block :=
  { b with threads := modifyAt f b.threads tid }

def State.modThread (s : State) (id : ThreadId) (f : Thread → Thread) : State :=
  s.modBlock id.core id.ent (fun b => b.modThread id.tid f)

def State.setThread (s : State) (id : ThreadId) (th : Thread) : State := s.modThread id (fun _ => th)

def Block.tenant (b : Block) : Nat := b.rec_.tenant
def Block.idOf (b : Block) (tid : Nat) : ThreadId := ⟨b.core, b.ent, tid⟩
/-- The owner that a thread's requests carry. -/
def Block.ownerOf (b : Block) (tid : Nat) : Owner := ⟨b.idOf tid, b.rec_.node, b.rec_.block, b.rec_.gen, b.verify⟩

/-- A launch flag of R97: 0 DET, 1 TWIN, 2 SNAP, 3 VERIFY, 4 STAMPCHK, 5 NARROWOK, 6 SEEDDEF. -/
def Block.flag (b : Block) (i : Nat) : Bool := b.rec_.flags.getLsbD i

/-- The grid of a block, on whose account its requests go (R30). -/
def Block.grid (b : Block) : Option (Nat × BitVec 16) := some (b.rec_.node, b.rec_.gen)

/-- The gang of a block: node, generation and the linear index of its first block (R96). -/
def Block.gang (b : Block) : Nat × BitVec 16 × Nat := (b.rec_.node, b.rec_.gen, b.rec_.block - b.rec_.rank)

/-- The logical quad of a core (R116). -/
def quadOf (core : Nat) : Nat := core / 4

/-- Placement of a thread (R137). -/
def laneOf (tid : Nat) : Nat := tid % 32
def weaveOf (tid : Nat) : Nat := tid / 32
def partOf (tid : Nat) : Nat := tid / 32 % 16
def Block.slotOf (b : Block) (tid : Nat) : Nat := b.rec_.slotBase + tid / 32 / 16

/-- Bytes of a block's scratchpad allocation, `alloc` of R181. -/
def Block.alloc (b : Block) : Nat := b.rec_.scrLen * 4096

/-- A fresh thread (R119). -/
def Thread.start (tid : Nat) (entry : CodeAddr) : Thread where
  tid := tid
  pc := entry + 4
  depth := 0
  fbase := 0
  frame := 0
  regs := []
  spills := []
  ccs := CondRegs.zero
  fpstat := 0
  rngctr := 0
  dem := false
  status := .run
  heldFor := none
  heldUni := none
  stale := false
  passed := 0
  notBefore := 0
  yieldLeft := 0
  chain := none
  pend := []
  loads := []
  wait := none
  trapNext := none
  traps := []
  lastIssue := 0
  fresh := true
  effects := 0
  shared := 0
  verified := false
  released := false
  remote := []
  crc := 0

def Thread.exited (th : Thread) : Bool := th.status == .exited
def Thread.running (th : Thread) : Bool := th.status == .run

/-- Blocks that are resident on a core. -/
def State.blocksOn (s : State) (core : Nat) : List Block := s.blocks.filter (fun b => b.core == core)

/-- The resident blocks of a gang, in rank order. -/
def State.gangBlocks (s : State) (g : Nat × BitVec 16 × Nat) : List Block :=
  sortBy (fun (a b : Block) => decide (a.rec_.rank < b.rec_.rank)) (s.blocks.filter (fun b => b.gang == g))

/-- The gang member of rank `m` of a block: on core `m` of the same quad (R116); the secondary copy of a block reaches the
others of its gang in the quad of its primary (R122; assumption 29). -/
def State.member? (s : State) (b : Block) (m : Nat) : Option Block :=
  if b.rec_.rank = m then some b
  else s.blocks.find? (fun x => x.gang == b.gang && x.rec_.rank == m && x.verify != .secondary)

/-- The address in `State.scratch` of an offset in a block's allocation. -/
def Block.scrAddr (b : Block) (off : Nat) : Nat := b.core * Config.sramBytes + b.rec_.scrBase * 4096 + off

/-- Uniform registers of a block (R171). -/
def Block.uni (b : Block) (r : Nat) : UVal := lookupNat ⟨0, false⟩ b.unif r
def Block.setUni (b : Block) (r : Nat) (v : UVal) : Block := { b with unif := insertNat b.unif r v }

/-! ## Vector and condition registers of a thread -/

/-- A register that is free reads zero, unpoisoned (R154). -/
def Thread.reg (th : Thread) (i : Nat) : RegVal := lookupNat ⟨0, false⟩ th.regs i
def Thread.setReg (th : Thread) (i : Nat) (v : RegVal) : Thread := { th with regs := insertNat th.regs i v }

/-- Virtual registers freed (R154), those of spilled granules too. -/
def Thread.freeRegs (th : Thread) (p : Nat → Bool) : Thread :=
  { th with
    regs := th.regs.filter (fun r => !p r.1)
    spills := (th.spills.map (fun sp =>
      { sp with mask := BitVec.ofNat 8 (ofBits ((List.range 8).map (fun i => sp.mask.getLsbD i && !p (8 * sp.g + i)))) })).filter
        (fun sp => sp.mask != 0) }
where
  ofBits : List Bool → Nat
    | [] => 0
    | b :: bs => b2n b + 2 * ofBits bs

/-- The granules of registers that a thread holds in its lane (R156). -/
def Thread.granules (th : Thread) : List Nat := runAll addNat (th.regs.map (fun r => r.1 / 8)) []

def CondRegs.get (c : CondRegs) (k : BitVec 2) : CondReg :=
  if k = 0 then c.c0 else if k = 1 then c.c1 else if k = 2 then c.c2 else c.c3

def CondRegs.set (c : CondRegs) (k : BitVec 2) (v : CondReg) : CondRegs :=
  if k = 0 then { c with c0 := v } else if k = 1 then { c with c1 := v }
  else if k = 2 then { c with c2 := v } else { c with c3 := v }

/-! ## Lanes -/

def Latch.none : Latch := ⟨0, false, false⟩
def LaneSt.empty (core part lane : Nat) : LaneSt := ⟨core, part, lane, .none, Latch.none, Latch.none, Latch.none, Latch.none⟩

def LaneSt.at (l : LaneSt) (core part lane : Nat) : Bool := l.core == core && l.part == part && l.lane == lane

def State.lane (s : State) (core part lane : Nat) : LaneSt :=
  (s.lanes.find? (fun l => l.at core part lane)).getD (LaneSt.empty core part lane)

def putLane : List LaneSt → LaneSt → List LaneSt
  | [], l => [l]
  | m :: ms, l => if m.at l.core l.part l.lane then l :: ms else m :: putLane ms l

def State.setLane (s : State) (l : LaneSt) : State := { s with lanes := putLane s.lanes l }

def LaneSt.latch (l : LaneSt) (k : BitVec 2) : Latch :=
  if k = 0 then l.b0 else if k = 1 then l.b1 else if k = 2 then l.b2 else l.b3

def LaneSt.clear (l : LaneSt) : LaneSt := { l with b0 := Latch.none, b1 := Latch.none, b2 := Latch.none, b3 := Latch.none }

/-- An uncorrectable error in a latch poisons its value (R284). -/
def LaneSt.spoil (l : LaneSt) (k : BitVec 2) : LaneSt :=
  let bad (x : Latch) : Latch := { x with poison := true }
  if k = 0 then { l with b0 := bad l.b0 } else if k = 1 then { l with b1 := bad l.b1 }
  else if k = 2 then { l with b2 := bad l.b2 } else { l with b3 := bad l.b3 }

/-- The latches shift and take a result (R158). -/
def LaneSt.shift (l : LaneSt) (v : UVal) : LaneSt :=
  { l with b3 := l.b2, b2 := l.b1, b1 := l.b0, b0 := ⟨v.val, true, v.poison⟩ }

/-- The lane of a thread. -/
def State.laneFor (s : State) (id : ThreadId) : LaneSt := s.lane id.core (partOf id.tid) (laneOf id.tid)

def State.clearLatches (s : State) (id : ThreadId) : State := s.setLane (s.laneFor id).clear

/-! ## Engines, nodes, tiles -/

def Bank.empty : Bank := ⟨none, 0, false, []⟩
def Engine.empty (q : Nat) : Engine := ⟨q, [], none, 0, List.replicate 4 Bank.empty, [], false, false, 0⟩
def State.engine (s : State) (q : Nat) : Engine := (s.engines.find? (fun e => e.quad == q)).getD (Engine.empty q)

def putEngine : List Engine → Engine → List Engine
  | [], e => [e]
  | d :: ds, e => if d.quad = e.quad then e :: ds else d :: putEngine ds e

def State.setEngine (s : State) (e : Engine) : State := { s with engines := putEngine s.engines e }
def State.modEngine (s : State) (q : Nat) (f : Engine → Engine) : State := s.setEngine { f (s.engine q) with quad := q }

/-- A node-table entry that was never created (R107). -/
def Node.empty (n : Nat) : Node where
  num := n
  gen := 0
  outcome := 0
  failin := false
  paced := false
  vec := 0
  pred := 0
  tenant := 0
  event := false
  st := .free
  cnode := 0
  cnv := false
  cseq := 0
  nextblk := 0
  ahead := []
  live := 0
  energy := 0
  micro := 0
  ecap := 0
  launch := none
  places := []

def State.node (s : State) (n : Nat) : Node := (s.nodes.find? (fun x => x.num == n)).getD (Node.empty n)

def putNode : List Node → Node → List Node
  | [], x => [x]
  | y :: ys, x => if y.num = x.num then x :: ys else y :: putNode ys x

def State.setNode (s : State) (x : Node) : State := { s with nodes := putNode s.nodes x }
def State.modNode (s : State) (n : Nat) (f : Node → Node) : State := s.setNode { f (s.node n) with num := n }

/-- The tile under a quad: its last writing tenant (plus one; 0 for none) and BSEPOCH (R188). -/
def State.tile (s : State) (q : Nat) : Nat × Word :=
  match s.tiles.find? (fun x => x.1 == q) with
  | some x => x.2
  | none => (0, 0)

def State.setTile (s : State) (q owner : Nat) (epoch : Word) : State :=
  { s with tiles := (q, owner, epoch) :: s.tiles.filter (fun x => x.1 != q) }

/-- The tile's last writer is recorded. -/
def State.touchTile (s : State) (q t : Nat) : State := s.setTile q (t + 1) (s.tile q).2

/-! ## Interrupts (R87, R88) -/

/-- An event on an MSI-X vector of a function: a message, or the pending bit of a masked vector; events of a pending
vector merge (R88). -/
def raiseOn (fn v : Nat) (vs : List Vector) : List Vector × List Message :=
  match vs[v]? with
  | none => (vs, [])
  | some x =>
    if x.masked then (modifyAt (fun y => { y with pending := true }) vs v, [])
    else (vs, [⟨fn, v, x.addr, x.data⟩])

/-- A vector of the physical function (0) or of the virtual function of tenant `fn - 1` is raised. No interrupt is
raised before bring-up step 7 (R34). -/
def State.raise (s : State) (fn v : Nat) : State :=
  if s.boot.step < 7 then s
  else if fn = 0 then
    let r := raiseOn 0 v s.pf.vectors
    { s with pf := { s.pf with vectors := r.1 }, messages := s.messages ++ r.2 }
  else
    let r := raiseOn fn v (s.tenant (fn - 1)).vectors
    { s.modTenant (fn - 1) (fun x => { x with vectors := r.1 }) with messages := s.messages ++ r.2 }

end Sys2Proof.Machine
end

