-- ==== Sys2Proof/Machine/Send.lean ====
section
/-! DEFINITION. Packets as they go on the fabric: header, form, routes, paths, sequence numbers and sending (R39, R40, R44 to R46, R50). -/

namespace Sys2Proof.Machine

/-! ## The header flit (R39, R40) -/

def Reserved.zero : Reserved := ⟨0, 0, 0, 0, 0, 0, 0, 0, 0⟩

/-- The eight words of a packet's header (R39). -/
def packetHeader (p : Packet) : List DWord :=
  [p.rsv.w0d ++ p.dten ++ p.sten ++ p.rsv.w0c ++ p.dmod ++ p.rsv.w0b ++ p.smod ++ p.rsv.w0a ++ p.path ++ p.cls ++ p.kind,
    p.rsv.w1 ++ BitVec.ofNat 13 p.payload.length ++ p.seq,
    p.rsv.w2 ++ p.addr,
    p.opnd,
    p.opnd2,
    p.rsv.w5 ++ p.sigkind ++ p.signode,
    p.rsv.w6,
    p.rsv.w7]

/-- The packet that eight header words and a payload of LEN bytes form, with what goes beside the header (assumption 24). -/
def packetOf (ws : List DWord) (payload : List Byte) (marks : List Nat) (follows : List (BitVec 4 × BitVec 4 × Word))
    (port : Option Nat) : Option Packet :=
  match ws with
  | [w0, w1, w2, w3, w4, w5, w6, w7] =>
    if payload.length = (w1.extractLsb' 32 13).toNat then
      some {
        kind := w0.extractLsb' 0 8, cls := w0.extractLsb' 8 2, path := w0.extractLsb' 10 4, smod := w0.extractLsb' 16 11,
        dmod := w0.extractLsb' 32 11, sten := w0.extractLsb' 48 4, dten := w0.extractLsb' 52 4, seq := w1.extractLsb' 0 32,
        addr := w2.extractLsb' 0 54, opnd := w3, opnd2 := w4, signode := w5.extractLsb' 0 16, sigkind := w5.extractLsb' 16 4,
        rsv := ⟨w0.extractLsb' 14 2, w0.extractLsb' 27 5, w0.extractLsb' 43 5, w0.extractLsb' 56 8, w1.extractLsb' 45 19,
          w2.extractLsb' 54 10, w5.extractLsb' 20 44, w6, w7⟩
        payload := payload, marks := marks, follows := follows, port := port }
    else none
  | _ => none

/-- No field that R39 wants zero is set, SIGKIND is none of its reserved values, and a step ready packet has OPND2[63:14]
zero. A payload above 4,096 bytes, for which R40 names no outcome, counts as malformed with them (assumption 82). -/
def packetOk (p : Packet) : Bool :=
  p.rsv == Reserved.zero && decide (p.sigkind.toNat ≤ 3) && (p.kind != 0x20 || p.opnd2.toNat / 2 ^ 14 == 0)
    && decide (p.payload.length ≤ 4096)

/-- A packet without payload, path or sequence number. -/
def Packet.to (kind : BitVec 8) (cls : BitVec 2) (dmod : BitVec 11) (sten dten : BitVec 4) (addr : Nat) : Packet where
  kind := kind
  cls := cls
  path := 0
  smod := 0
  dmod := dmod
  sten := sten
  dten := dten
  seq := 0
  addr := BitVec.ofNat 54 addr
  opnd := 0
  opnd2 := 0
  signode := 0
  sigkind := 0
  rsv := Reserved.zero
  payload := []
  marks := []
  follows := []
  port := none

/-- The PFN of an address under a TIER 2 entry: that of its own page in a contiguous run (R194, R195). -/
def TlbEntry.frameOf (e : TlbEntry) (va : Nat) : Nat := if e.size = 0x200000 then e.pfn + (va - e.va) / 65536 else e.pfn

/-- The packet of an access to a TIER 2 page: module and tenant come from the PFN (R42, R195). -/
def tierPacket (e : TlbEntry) (kind : BitVec 8) (va : Nat) : Packet :=
  Packet.to kind 2 (BitVec.ofNat 11 (e.frameOf va)) (BitVec.ofNat 4 e.tenant) (BitVec.ofNat 4 (e.frameOf va / 2 ^ 11)) va

/-! ## Lines of other modules (R190, R195) -/

/-- The request for a line of another module. -/
def lineRequest (e : TlbEntry) (line : Nat) : Packet := { tierPacket e 0x03 (128 * line) with opnd := 128 }

/-- A line whose bytes have come, and one whose request has failed with a status. -/
def lineCame (line : Nat) (bs : List Byte) (marks : List Nat) (ls : List RemoteLine) : List RemoteLine :=
  ls.map (fun l => if l.line == line then { l with data := some (bs, marks) } else l)
def lineFailed (line status : Nat) (ls : List RemoteLine) : List RemoteLine :=
  ls.map (fun l => if l.line == line then { l with fail := some status } else l)

/-- What is known of bytes of a line of another module. -/
inductive LineRead where
  | unasked
  | owed
  | here (bs : List Byte) (poison : Bool)
  | failed (status : Nat)
  deriving DecidableEq, Repr

/-- `n` bytes at an address, inside one granule or more of a line. -/
def lineRead (ls : List RemoteLine) (va n : Nat) : LineRead :=
  match ls.find? (fun l => l.line == va / 128) with
  | none => .unasked
  | some l => match l.fail, l.data with
    | some st, _ => .failed st
    | none, none => .owed
    | none, some (bs, ps) => .here ((bs.drop (va % 128)).take n)
        ((granules (va % 128) n).any ps.contains)

/-! ## Routes and paths (R46) -/

/-- The routes to a destination over ports in service that PORTMASK admits. -/
def State.routesTo (s : State) (t : Nat) (dmod : BitVec 11) : List Nat :=
  (lookupNat [] s.boot.routes dmod.toNat).filter (fun p =>
    (s.tenant t).portmask.getLsbD p && (match s.fabric.ports[p]? with | some x => x.up | none => false))

/-- A destination has a route; the module itself needs none (R427). -/
def State.reachable (s : State) (t : Nat) (dmod : BitVec 11) : Bool := dmod == s.boot.self || !(s.routesTo t dmod).isEmpty

/-- A path number in use: the tenant's paths in turn (assumption 27). -/
def State.pathFor (s : State) (t n : Nat) : BitVec 4 := BitVec.ofNat 4 (n % ((s.tenant t).paths + 1))

/-- The port of path `path` to a destination: the route of that number, modulo the routes there are. -/
def State.portOf (s : State) (t : Nat) (dmod : BitVec 11) (path : BitVec 4) : Option Nat :=
  if dmod = s.boot.self then none
  else
    let rs := s.routesTo t dmod
    rs[path.toNat % rs.length]?

/-! ## Sending (R44, R50) -/

/-- The next SEQ of a destination and tenant pair. -/
def Fabric.seqOf (f : Fabric) (k : BitVec 11 × BitVec 4 × BitVec 4) : Word :=
  match f.seqs.find? (fun x => x.1 == k) with
  | some x => x.2
  | none => 0

/-- 50 µs in half nanoseconds (R44). -/
def resendAfter : Nat := 100000

/-- A path used by a core since its previous `.SYS` release, with the tenants of the first packet on it (R50). -/
def Fabric.usePath (f : Fabric) (core : Option Nat) (p : Packet) : Fabric :=
  match core with
  | some c =>
    if f.used.any (fun u => u.core == c && u.dmod == p.dmod && u.path == p.path) then f
    else { f with used := f.used ++ [⟨c, p.dmod, p.path, p.sten, p.dten⟩] }
  | none => f

/-- The grid of a chain, and the one on whose account a packet goes (R30). -/
def State.gridOfChain (s : State) (n : Nat) : Option (Nat × BitVec 16) :=
  (s.coll.chains.find? (fun h => h.id == n)).map (fun h => (h.owner.node, h.owner.gen))

def State.gridOf (s : State) : Origin → Option (Nat × BitVec 16)
  | .command id => (s.fabric.cmds.find? (fun k => k.id == id)).map (fun k => (k.owner.node, k.owner.gen))
  | .store os => os.head?.map (fun o => (o.node, o.gen))
  | .load o _ => some (o.node, o.gen)
  | .copy o _ => some (o.node, o.gen)
  | .record o => some (o.node, o.gen)
  | .step n => s.gridOfChain n
  | .chainLine n => s.gridOfChain n
  | .chainWrite n => s.gridOfChain n
  | _ => none

/-- A packet is sent on a path: it takes the next SEQ of its destination and tenant pair; one of class 2 awaits its
acknowledgement, and but for markers its path counts as used. -/
def State.sendOn (s : State) (core : Option Nat) (origin : Origin) (path : BitVec 4) (p : Packet) : State × Packet :=
  let f := s.fabric
  let key := (p.dmod, p.sten, p.dten)
  let seq := f.seqOf key
  let q := { p with smod := s.boot.self, seq := seq, path := path, port := s.portOf p.sten.toNat p.dmod path }
  let f1 := { f with seqs := (key, seq + 1) :: f.seqs.filter (fun x => x.1 != key), out := f.out ++ [q] }
  let f2 : Fabric := if p.cls = 2 then
      { f1 with unacked := f1.unacked ++ [⟨q, core.getD 0, 1, s.halfNs + resendAfter, false, false, origin⟩] }
    else f1
  ({ s.usesRequest 2 p.sten.toNat (s.gridOf origin) with
      fabric := if p.cls = 2 && p.kind != 0x10 then f2.usePath core q else f2 }, q)

/-- A packet is sent: the barrier class keeps to one path (R71), the others take the tenant's paths in turn. -/
def State.send (s : State) (core : Option Nat) (origin : Origin) (p : Packet) : State :=
  (s.sendOn core origin
    (if p.cls = 0 then 0 else s.pathFor p.sten.toNat (s.fabric.seqOf (p.dmod, p.sten, p.dten)).toNat) p).1

/-- A packet of class 1 that answers: it names the sequence number that it answers (assumption 24). -/
def State.answer (s : State) (kind : BitVec 8) (p : Packet) (status : Nat) : State :=
  let base := Packet.to kind 1 p.smod p.dten p.sten p.addr.toNat
  let a : Packet := { base with smod := s.boot.self, seq := p.seq, path := p.path, opnd := BitVec.ofNat 64 status,
                                port := s.portOf p.dten.toNat p.smod p.path }
  { s with fabric := { s.fabric with out := s.fabric.out ++ [a] } }

/-! ## Flush markers (R50) -/

/-- The flush markers of a `.SYS` release: one for each path used since the core's previous one. -/
def State.sendMarkers (s : State) (core : Nat) : State :=
  let mine := s.fabric.used.filter (fun u => u.core == core)
  runAll (fun (s : State) u =>
    let r := s.sendOn (some core) (.marker core) u.path (Packet.to 0x10 2 u.dmod u.sten u.dten 0)
    let f := r.1.fabric
    { r.1 with fabric := { f with markers := f.markers ++ [⟨core, u.dmod, u.path, u.sten, u.dten, r.2.seq⟩] } })
    mine { s with fabric := { s.fabric with used := s.fabric.used.filter (fun u => u.core != core) } }

end Sys2Proof.Machine
end

