-- ==== Sys2Proof/Machine/Translate.lean ====
section
/-! DEFINITION. Address translation: windows, page walks, TLBs and page permissions (R82, R191 to R200, R213, R214). -/

namespace Sys2Proof.Machine

/-! ## Frames (R82, R105, R184) -/

/-- Bytes of tier-1 memory present: 48 GiB a stack, taken from address 0 on (assumption 7). -/
def State.tier1 (s : State) : Nat := (8 - s.boot.absent.length) * Config.stackBytes

/-- The home slice of a physical address, and the die on which a slice lies (R185). -/
def homeSlice (pa : Nat) : Nat := field pa 7 7 ^^^ field pa 14 7
def sliceDie (h : Nat) : Nat := h / 64

/-- First byte of the region that Fevar reserves (R105). -/
def State.reservedAt (s : State) : Nat := s.tier1 - Config.reservedBytes

/-- The range lies in tier-1 or tier-2 memory that is present. -/
def State.physical (s : State) (pa n : Nat) : Bool :=
  decide (pa + n ≤ s.tier1) || (decide (Config.tier2Base ≤ pa) && decide (pa + n ≤ Config.tier2End))

/-- The range lies inside one valid memory window, and no part of it in the reserved region (R80, R82, R105). NPAGES is taken as the
field holds it: R80 gives it the range 1 to 2^24 and no meaning outside, so a window of 0 pages holds nothing and a greater one
what it counts (assumption 86). -/
def State.inWindow (s : State) (t pa n : Nat) : Bool :=
  (s.tenant t).twin.any (fun w =>
    let lo := field w.toNat 28 36 * 65536
    bitOf w.toNat 0 && decide (lo ≤ pa) && decide (pa + n ≤ lo + field w.toNat 3 25 * 65536))
    && (decide (pa + n ≤ s.reservedAt) || decide (s.tier1 ≤ pa))

/-- The range lies inside the host window (R80, R82). -/
def State.inHostWindow (s : State) (t a n : Nat) : Bool :=
  let lo := field (s.tenant t).hostBase.toNat 16 48 * 65536
  decide (lo ≤ a) && decide (a + n ≤ lo + field (s.tenant t).hostSize.toNat 0 40 * 65536)

/-! ## Walks -/

/-- A leaf entry that a walk found (R193). -/
structure Leaf where
  addr : Nat
  bits : Nat
  large : Bool
  deriving DecidableEq, Repr

def Leaf.pfn (l : Leaf) : Nat := field l.bits 20 36
def Leaf.kind (l : Leaf) : Nat := field l.bits 18 2
def Leaf.stamp (l : Leaf) : Nat := field l.bits 14 4
def Leaf.px (l : Leaf) : Bool := bitOf l.bits 13
def Leaf.mq (l : Leaf) : Bool := bitOf l.bits 12
def Leaf.heatW (l : Leaf) : Nat := field l.bits 10 2
def Leaf.heatR (l : Leaf) : Nat := field l.bits 8 2
def Leaf.tier (l : Leaf) : Nat := field l.bits 6 2
def Leaf.contig (l : Leaf) : Bool := bitOf l.bits 5
def Leaf.ex (l : Leaf) : Bool := bitOf l.bits 3
def Leaf.wr (l : Leaf) : Bool := bitOf l.bits 2
def Leaf.rd (l : Leaf) : Bool := bitOf l.bits 1
/-- Bytes that a leaf maps. -/
def Leaf.size (l : Leaf) : Nat := if l.large then 0x20000000 else 0x10000

/-- A leaf as the translation service last saw it. -/
def PxLeaf.leaf (l : PxLeaf) : Leaf := ⟨l.addr, l.bits.toNat, l.large⟩

/-- The outcome of a walk. -/
inductive Walk where
  | invalid
  | format
  | ok (l : Leaf)
  deriving DecidableEq, Repr

/-- The checks of R196 on a valid leaf. -/
def State.leafOk (s : State) (t : Nat) (l : Leaf) : Bool :=
  field l.bits 56 8 == 0 && l.kind != 3 && !(l.wr && l.ex) && (!l.large || field l.pfn 0 13 == 0)
    && !(decide (2 ≤ l.tier) && l.kind == 1) && !(l.tier == 2 && field l.pfn 15 21 != 0)
    && (if l.tier == 0 then decide (l.pfn * 65536 + l.size ≤ s.tier1) && s.inWindow t (l.pfn * 65536) l.size
        else if l.tier == 1 then
          decide (Config.tier2Base ≤ l.pfn * 65536) && decide (l.pfn * 65536 + l.size ≤ Config.tier2End)
            && s.inWindow t (l.pfn * 65536) l.size
        else if l.tier == 2 then true
        else s.inHostWindow t (l.pfn * 65536) l.size)

/-- A table's frame (R82, R196). -/
def State.tableOk (s : State) (t pa : Nat) : Bool := s.physical pa 65536 && s.inWindow t pa 65536

/-- A valid table entry holds only V and NEXT (R192). -/
def tableBitsOk (e : Nat) : Bool := field e 56 8 == 0 && field e 1 19 == 0

/-- The walk of a virtual address through the tenant's tables (R191 to R196). -/
def State.walk (s : State) (t va : Nat) : Walk :=
  let root := field (s.tenant t).ptroot.toNat 16 36 * 65536
  if !s.tableOk t root then .format
  else
    let e1 := s.mem.nat (root + 8 * field va 42 12) 8
    if !bitOf e1 0 then .invalid
    else if bitOf e1 4 || !tableBitsOk e1 || !s.tableOk t (field e1 20 36 * 65536) then .format
    else
      let a2 := field e1 20 36 * 65536 + 8 * field va 29 13
      let e2 := s.mem.nat a2 8
      if !bitOf e2 0 then .invalid
      else if bitOf e2 4 then (if s.leafOk t ⟨a2, e2, true⟩ then .ok ⟨a2, e2, true⟩ else .format)
      else if !tableBitsOk e2 || !s.tableOk t (field e2 20 36 * 65536) then .format
      else
        let a3 := field e2 20 36 * 65536 + 8 * field va 16 13
        let e3 := s.mem.nat a3 8
        if !bitOf e3 0 then .invalid
        else if !bitOf e3 4 then .format
        else if s.leafOk t ⟨a3, e3, false⟩ then .ok ⟨a3, e3, false⟩ else .format

/-- The table entries that a walk reads, places and bytes: with a CONTIG leaf the run that R194 tests. -/
def State.walkPath (s : State) (t va : Nat) : List (Nat × Nat) :=
  let root := field (s.tenant t).ptroot.toNat 16 36 * 65536
  let goesOn (e : Nat) : Bool := bitOf e 0 && !bitOf e 4 && tableBitsOk e && s.tableOk t (field e 20 36 * 65536)
  if !s.tableOk t root then []
  else
    let a1 := root + 8 * field va 42 12
    let e1 := s.mem.nat a1 8
    if !goesOn e1 then [(a1, 8)]
    else
      let a2 := field e1 20 36 * 65536 + 8 * field va 29 13
      let e2 := s.mem.nat a2 8
      if !goesOn e2 then [(a1, 8), (a2, 8)]
      else
        let a3 := field e2 20 36 * 65536 + 8 * field va 16 13
        let e3 := s.mem.nat a3 8
        [(a1, 8), (a2, 8), if bitOf e3 0 && bitOf e3 4 && bitOf e3 5 then (a3 - 8 * (field va 16 13 % 32), 256) else (a3, 8)]

/-! ## Kinds of access and permissions -/

/-- What an access needs (R199, R201, R202). -/
inductive Acc where
  | load
  /-- `ST` -/
  | store
  /-- `RED`, `ATFX`, `ATOM` without return -/
  | red
  /-- `ATOM` with return, `CAS` -/
  | atom
  | fetch
  deriving DecidableEq, Repr

/-- The permissions a page must give. -/
def Acc.allowed (a : Acc) (rd wr ex : Bool) : Bool :=
  match a with
  | .load => rd
  | .store => wr
  | .red => wr
  | .atom => rd && wr
  | .fetch => ex

/-- The access writes and returns nothing: it is side-logged where a load would be held (R202). -/
def Acc.logs (a : Acc) : Bool := a == .store || a == .red

/-- The outcome of a translation (R201, R213, R214). -/
inductive Xlat where
  | ok (e : TlbEntry)
  /-- the page is not valid -/
  | notValid
  /-- decided by both permission sets, or by the hold of a fetch: wait -/
  | blocked
  | perm
  | format
  deriving DecidableEq, Repr

/-- Permission of a translated page for an access (R202, R213, R214, R215). -/
def TlbEntry.decide_ (e : TlbEntry) (a : Acc) : Xlat :=
  let old := a.allowed e.rd e.wr e.ex
  match e.px with
  | .none =>
    if old then .ok e
    else if a == .fetch && e.wr then .blocked
    else .perm
  | .perm rd wr ex =>
    if !a.allowed rd wr ex then (if a == .fetch && wr then .blocked else .perm)
    else if old then .ok e
    else .blocked
  | .migrate =>
    if !old then .perm
    else if a == .load || a == .fetch then .ok e
    else .blocked

/-- The physical address, or the bus address in TIER 3, of a virtual address under an entry (R195). -/
def TlbEntry.pa (e : TlbEntry) (va : Nat) : Nat := e.pfn * 65536 + (va - e.va)

/-- What PX of a leaf means: the permission sets of the PERM command in progress, or a MIGRATE. -/
def State.pxOf (s : State) (t : Nat) (l : Leaf) : Px :=
  if !l.px then .none
  else match (s.tenant t).service with
    | some (_, ws) =>
      if field (dword ws 0) 0 4 == 2 then .perm (bitOf (dword ws 3) 1) (bitOf (dword ws 3) 2) (bitOf (dword ws 3) 3)
      else .migrate
    | none => .none

/-- The entry that a leaf gives for a page. -/
def State.entryOf (s : State) (t va : Nat) (l : Leaf) : TlbEntry :=
  ⟨t, va / l.size * l.size, l.size, l.pfn, l.rd, l.wr, l.ex, l.tier, l.kind, l.stamp, s.pxOf t l⟩

/-- The entry of a contiguous run of 32 pages, when R194 allows one. -/
def State.contigEntry (s : State) (t va : Nat) (l : Leaf) : Option TlbEntry :=
  let i := field va 16 13 % 32
  let base := l.addr - 8 * i
  let first : Leaf := ⟨base, s.mem.nat base 8, false⟩
  let ok := !l.large && l.contig && field first.pfn 0 5 == 0 && (List.range 32).all (fun k =>
    let e := s.mem.nat (base + 8 * k) 8
    let m : Leaf := ⟨base + 8 * k, e, false⟩
    bitOf e 0 && bitOf e 4 && m.contig && field e 1 3 == field first.bits 1 3 && field e 6 2 == field first.bits 6 2
      && field e 14 6 == field first.bits 14 6 && m.pfn == first.pfn + k && s.leafOk t m && m.px == l.px)
  if ok then some { s.entryOf t va l with va := va / 0x200000 * 0x200000, size := 0x200000, pfn := first.pfn } else none

/-- The heat fields that a filling walk increments, saturating (R199). -/
def heatBits (a : Acc) (bits : Nat) : Nat :=
  let r := field bits 8 2
  let w := field bits 10 2
  let r' := if a == .load || a == .red || a == .atom then (if r < 3 then r + 1 else 3) else r
  let w' := if a == .store || a == .red || a == .atom then (if w < 3 then w + 1 else 3) else w
  bits - r * 2 ^ 8 - w * 2 ^ 10 + r' * 2 ^ 8 + w' * 2 ^ 10

def State.writeLeaf (s : State) (addr bits : Nat) : State := { s with mem := s.mem.write addr (toBytes 8 bits) }

/-- An entry maps a virtual address of a tenant. -/
def TlbEntry.covers (e : TlbEntry) (t va : Nat) : Bool :=
  e.tenant == t && decide (e.va ≤ va) && decide (va < e.va + e.size)

/-- Both TLBs take an entry; the oldest beyond their sizes are replaced (R198). -/
def State.fillTlb (s : State) (core : Nat) (e : TlbEntry) : State :=
  let c := s.core core
  let q := quadOf core
  let mine := (q, e) :: s.quadTlb.filter (fun x => x.1 == q)
  { s.setCore { c with tlb := (e :: c.tlb).take Config.coreTlb } with
    quadTlb := mine.take Config.quadTlb ++ s.quadTlb.filter (fun x => x.1 != q) }

/-- An entry of the core's TLB or of the quad's (R198). -/
def State.tlbFind (s : State) (core t va : Nat) : Option TlbEntry :=
  match (s.core core).tlb.find? (fun e => e.covers t va) with
  | some e => some e
  | none => (s.quadTlb.find? (fun x => x.1 == quadOf core && x.2.covers t va)).map (·.2)

/-- A core's translation by its TLBs, then by a walk that fills them and counts heat (R198, R199). -/
def State.lookup (s : State) (core t va : Nat) (a : Acc) : State × Xlat :=
  match s.tlbFind core t va with
  | some e => (s, e.decide_ a)
  | none =>
    match s.walk t va with
    | .invalid => (s, .notValid)
    | .format => (s, .format)
    | .ok l =>
      let e := (s.contigEntry t va l).getD (s.entryOf t va l)
      ((s.writeLeaf l.addr (heatBits a l.bits)).fillTlb core e, e.decide_ a)

/-- A walk is needed and succeeds (R206). -/
def State.walks (s : State) (core t va : Nat) : Bool :=
  (s.tlbFind core t va).isNone && (match s.walk t va with | .ok _ => true | _ => false)

/-- Translation without a TLB, for the I/O die: the aperture, arriving packets and the queues. -/
def State.walkFor (s : State) (t va : Nat) (a : Acc) : Xlat :=
  match s.walk t va with
  | .invalid => .notValid
  | .format => .format
  | .ok l => (s.entryOf t va l).decide_ a

/-- Entries of a tenant leave every TLB where they meet the test on their pages (R81, R84, R212). -/
def State.dropTlb (s : State) (p : TlbEntry → Bool) : State :=
  { s with
    cores := s.cores.map (fun c => { c with tlb := c.tlb.filter (fun e => !p e) })
    quadTlb := s.quadTlb.filter (fun x => !p x.2) }

/-- Every entry of a tenant leaves. -/
def State.dropTenantTlb (s : State) (t : Nat) : State := s.dropTlb (fun e => e.tenant == t)

end Sys2Proof.Machine
end

