-- ==== Sys2Proof/Machine/Errors.lean ====
section
/-! DEFINITION. Writes at the home slice, error records and their queues, notifications, access counters and uncorrectable reads (R89, R206, R208, R209, R217, R286 to R293). -/

namespace Sys2Proof.Machine

/-! ## Writes at the home slice -/

/-- The line lies in an old frame, of host memory or of the module's, that a MIGRATE command copies (R215). -/
def Tenant.marks (x : Tenant) (host : Bool) (pa : Nat) : Bool :=
  match x.service with
  | some (phase, ws) =>
    field (dword ws 0) 0 4 == 3 && decide (1 ≤ phase) && decide (phase ≤ 2)
      && x.pxLeaves.any (fun l =>
        let f := l.leaf
        host == (f.tier == 3) && decide (f.pfn * 65536 ≤ pa) && decide (pa < f.pfn * 65536 + f.size))
  | none => false

/-- The lines that `n` bytes touch. -/
def linesOf (a n : Nat) : List Nat :=
  if n = 0 then [] else (List.range ((a + n - 1) / 128 - a / 128 + 1)).map (· + a / 128)

/-- A MIGRATE command in its marking phase notes the lines written (R215). -/
def State.markLines (s : State) (host : Bool) (pa n : Nat) : State :=
  { s with tenants := s.tenants.map (fun x =>
    if x.marks host pa then { x with marked := runAll (fun m k => if m.contains (host, k) then m else m ++ [(host, k)]) (linesOf pa n) x.marked }
    else x) }

/-- Bytes written at the home slice, with their poison; granules of `full` are covered by the same store (R287). -/
def State.homeStore (s : State) (pa : Nat) (bs : List Byte) (p : Bool) (full : List Nat) : State :=
  ({ s with mem := s.mem.store pa bs p full } : State).markLines false pa bs.length

/-- Bytes that the device writes to host memory for a page of TIER 3 (R83). -/
def State.hostStore (s : State) (a : Nat) (bs : List Byte) (p : Bool) (full : List Nat) : State :=
  ({ s with host := s.host.store a bs p full } : State).markLines true a bs.length

/-- Unpoisoned bytes that the device itself writes. -/
def State.homeWrite (s : State) (pa : Nat) (bs : List Byte) : State := s.homeStore pa bs false []

/-- Bytes that the device writes under a page it has translated: at the home slice, in host memory, or by a packet to the page's
module (R42, R83). -/
def State.pageWrite (s : State) (origin : Origin) (e : TlbEntry) (va : Nat) (bs : List Byte) : State :=
  if e.tier = 2 then s.send none origin { tierPacket e 0x01 va with payload := bs }
  else if e.tier = 3 then s.hostStore (e.pa va) bs false []
  else s.homeWrite (e.pa va) bs

/-! ## Error records (R290 to R293) -/

/-- What an error record says; the fields of R290 that its queue gives (SEQ, TIMESTAMP) are not here. -/
structure ErrRec where
  kind : Nat
  sev : Nat
  src : Nat
  tenant : Nat := 0
  core : Nat := 0xFFF
  part : Nat := 0
  lane : Nat := 0
  slot : Nat := 0
  pc : Nat := 0
  vaddr : Nat := 0
  paddr : Nat := 0
  synd : Nat := 0
  origin : Nat := 0
  gen : Nat := 0
  node : Nat := 0
  block : Nat := 0
  deriving DecidableEq, Repr

/-- The 64 bytes of a record (R290). -/
def ErrRec.bytes (r : ErrRec) (seq time : Nat) : List Byte :=
  ofDwords ([r.kind % 256 + r.sev * 2 ^ 8 + r.src * 2 ^ 12 + r.tenant * 2 ^ 16 + r.core * 2 ^ 20 + r.part * 2 ^ 32
      + r.lane * 2 ^ 36 + r.slot * 2 ^ 43 + seq % 2 ^ 18 * 2 ^ 46,
    r.pc, r.vaddr, r.paddr, r.synd % 2 ^ 32, r.origin, r.block % 2 ^ 32 + r.node * 2 ^ 32 + r.gen * 2 ^ 48,
    time].map (BitVec.ofNat 64))

/-- A saturating 32-bit count. -/
def satInc (n : Nat) : Nat := if n < 2 ^ 32 - 1 then n + 1 else n

/-- A record of a tenant (R89) written at ERRQHEAD, or dropped and counted; vector 0 in either case (R87). -/
def State.writeRecord (s : State) (t : Nat) (r : ErrRec) : State :=
  let q := (s.tenant t).errq
  let bytes := ({ r with tenant := t } : ErrRec).bytes q.seq s.time
  let va := q.base.toNat + 64 * q.head
  let full := (q.head + 1) % 256 == q.tail
  let drop := s.modTenant t (fun x => { x with errq := { q with seq := (q.seq + 1) % 2 ^ 18, lost := satInc q.lost } })
  let s' := if q.base == 0 || full then drop
    else match s.walkFor t va .store with
      | .ok e =>
        (s.modTenant t (fun x => { x with errq :=
          { q with seq := (q.seq + 1) % 2 ^ 18, head := (q.head + 1) % 256 } })).pageWrite .response e va bytes
      | _ => drop
  s'.raise (t + 1) 0

/-- A record of the physical function (R293): the ring lies in host memory; vector 4 for one of SEV 3 that is written (R87). -/
def State.pfRecord (s : State) (r : ErrRec) : State :=
  let q := s.pf.errq
  let bytes := r.bytes q.seq s.time
  let full := (q.head + 1) % 256 == q.tail
  if q.base == 0 || full then
    { s with pf := { s.pf with errq := { q with seq := (q.seq + 1) % 2 ^ 18, lost := satInc q.lost } } }
  else
    let s1 : State := { s with
      pf := { s.pf with errq := { q with seq := (q.seq + 1) % 2 ^ 18, head := (q.head + 1) % 256 } }
      host := s.host.write (q.base.toNat + 64 * q.head) bytes }
    if r.sev = 3 then s1.raise 0 4 else s1

/-- A record with the place of a block in it. -/
def Block.record (b : Block) (r : ErrRec) : ErrRec :=
  { r with core := b.core, tenant := b.tenant, gen := b.rec_.gen.toNat, node := b.rec_.node, block := b.rec_.block }

/-- A record with the place of a thread in it. -/
def Block.threadRecord (b : Block) (tid : Nat) (r : ErrRec) : ErrRec :=
  { b.record r with part := partOf tid, lane := laneOf tid, slot := b.slotOf tid }

/-! ## Uncorrectable reads (R284, R286, R290) -/

/-- Who reads: a thread with the accesses of its shed (thread, address and bytes of each lane), the engine of a block
(its core and slot-table entry), or the device for a tenant. -/
structure Reader where
  tenant : Option Nat
  thread : Option ThreadId
  engine : Option (Nat × Nat)
  pc : Nat
  vaddr : Nat
  shed : List (ThreadId × Nat × Nat)
  deriving DecidableEq, Repr

def Reader.none : Reader := ⟨Option.none, Option.none, Option.none, 0, 0, []⟩
def Reader.thread_ (t : Nat) (id : ThreadId) (pc va : Nat) : Reader := ⟨some t, some id, Option.none, pc, va, []⟩
def Reader.tenant_ (t va : Nat) : Reader := ⟨some t, Option.none, Option.none, 0, va, []⟩
def Reader.engine_ (b : Block) (va : Nat) : Reader := ⟨some b.tenant, Option.none, some (b.core, b.ent), 0, va, []⟩

/-- The virtual address of a granule on the page read; zero for a reader without one. -/
def Reader.granuleVa (w : Reader) (granule : Nat) : Nat :=
  if w.vaddr = 0 then 0 else w.vaddr / 65536 * 65536 + 32 * granule % 65536

/-- The thread that a creation names: the lowest lane of the shed whose bytes lie in the granule, else the reader
(R290). -/
def Reader.names (w : Reader) (granule : Nat) : Option ThreadId :=
  let a := w.granuleVa granule
  match w.shed.find? (fun x => decide (x.2.1 < a + 32) && decide (a < x.2.1 + x.2.2)) with
  | some x => some x.1
  | .none => w.thread

/-- SRC of an error in memory (R292): L2, tier-1 or tier-2. -/
def Latent.src (l : Latent) : Nat := if l.l2 then 2 else if 32 * l.granule < Config.tier2Base then 3 else 4

/-- One latent uncorrectable error is found: its granule is poisoned and a KIND 0x01 record written; the block whose access, or whose
engine's, caused it keeps the granule as its ORIGIN. -/
def State.found (s : State) (w : Reader) (l : Latent) : State :=
  let s1 : State := { s with latent := s.latent.filter (fun x => x != l), mem := s.mem.setPoison l.granule }
  let r : ErrRec := { kind := 0x01, sev := 1, src := l.src, pc := w.pc, vaddr := w.granuleVa l.granule, paddr := 32 * l.granule,
                      synd := l.syndrome.toNat, origin := 32 * l.granule }
  let keep (core ent : Nat) : State := s1.modBlock core ent (fun b => { b with origin := 32 * l.granule })
  match w.names l.granule with
  | some id => match s.block? id.core id.ent with
    | some b => (keep id.core id.ent).writeRecord b.tenant (b.threadRecord id.tid r)
    | none => s1
  | none => match w.tenant with
    | some t => match w.engine.bind (fun x => s.block? x.1 x.2) with
      | some b => (keep b.core b.ent).writeRecord t (b.record r)
      | none => s1.writeRecord t r
    | none => s1.pfRecord r

/-- The errors that lie in `n` bytes of physical memory are found. -/
def State.discoverIn (s : State) (w : Reader) (pa n : Nat) : State :=
  runAll (fun (s : State) l => s.found w l) (s.latent.filter (fun l => (granules pa n).contains l.granule)) s

/-- A walk finds the errors in the table entries that it reads; what the bits of a poisoned entry say still stands (R286, R290;
assumption 94). -/
def State.walked (s : State) (t va : Nat) : State :=
  if s.latent.isEmpty then s
  else runAll (fun (s : State) (x : Nat × Nat) => s.discoverIn (.tenant_ t 0) x.1 x.2) (s.walkPath t va) s

/-- The walk of the next entry of a tenant's error queue. -/
def State.queueWalked (s : State) (t : Nat) : State :=
  let q := (s.tenant t).errq
  if q.base = 0 then s else s.walked t (q.base.toNat + 64 * q.head)

/-- A record of a tenant (R89). -/
def State.tenantRecord (s : State) (t : Nat) (r : ErrRec) : State := (s.queueWalked t).writeRecord t r

/-- A record that a thread causes, sent to its tenant. -/
def State.threadRec (s : State) (id : ThreadId) (r : ErrRec) : State :=
  match s.block? id.core id.ent with
  | some b => s.tenantRecord b.tenant (b.threadRecord id.tid r)
  | none => s

/-- A read of `n` bytes of physical memory finds the errors that lie there. -/
def State.discover (s : State) (w : Reader) (pa n : Nat) : State :=
  if s.latent.any (fun l => (granules pa n).contains l.granule) then
    (match w.tenant with | some t => s.queueWalked t | none => s).discoverIn w pa n
  else s

/-- Bytes read at the home slice, and whether any lies in a poisoned granule. -/
def State.homeRead (s : State) (w : Reader) (pa n : Nat) : State × List Byte × Bool :=
  let s1 := s.discover w pa n
  (s1, s1.mem.read pa n, s1.mem.anyPoison pa n)

/-- Poison consumed by a thread or its engine command (R288, R291): the record of KIND 0x02 or 0x03, with the status of
the command. -/
def State.consumedBy (s : State) (id : ThreadId) (kind pc vaddr src status : Nat) : State :=
  match s.block? id.core id.ent with
  | some b => s.tenantRecord b.tenant
      (b.threadRecord id.tid { kind := kind, sev := 2, src := src, pc := pc, vaddr := vaddr, synd := status, origin := b.origin })
  | none => s

/-- Poison consumed by a thread itself. -/
def State.consumed (s : State) (id : ThreadId) (kind pc vaddr src : Nat) : State := s.consumedBy id kind pc vaddr src 0

/-! ## The migration queue (R208, R209, R217) -/

/-- Bytes of a page of this module or of the host as the device reads them (R42, R83). -/
def State.pageRead (s : State) (e : TlbEntry) (va n : Nat) : List Byte :=
  if e.tier = 3 then s.host.read (e.pa va) n else s.mem.read (e.pa va) n

/-- MQ of a notified leaf is set with a relaxed atomic at the home slice (R217). -/
def State.setMq (s : State) (leaf : Option Nat) : State :=
  match leaf with
  | some a =>
    let bits := s.mem.nat a 8
    if bitOf bits 12 then s else s.writeLeaf a (bits + 2 ^ 12)
  | none => s

/-- The two words of a notification (R208). -/
def Notice.bytes (n : Notice) (time : Nat) : List Byte :=
  toBytes 8 (n.type + n.tier * 2 ^ 4 + n.heatR * 2 ^ 6 + n.heatW * 2 ^ 8 + b2n n.write * 2 ^ 10 + n.va / 65536 * 65536) ++ toBytes 8 time

/-- The page of a tenant's queue: one that notifications find writable, and of KIND 0. -/
def State.noticePage (s : State) (t : Nat) : Option TlbEntry :=
  let base := (s.tenant t).migqbase.toNat
  if base = 0 then none
  else match s.walkFor t base .store with
    | .ok e => if e.kind = 0 then some e else none
    | _ => none

/-- A notification that is dropped (R209). -/
def State.dropNotice (s : State) (t : Nat) : State := s.modTenant t (fun x => { x with migdrop := satInc x.migdrop })

/-- A notification posted in a queue of this module or of the host (R209), or dropped. -/
def State.postHere (s : State) (t : Nat) (e : TlbEntry) (n : Notice) : State :=
  let base := (s.tenant t).migqbase.toNat
  let head := ofBytes (s.pageRead e base 8) % 1024
  let tail := ofBytes (s.pageRead e (base + 8) 8) % 1024
  if (head + 1) % 1024 = tail then s.dropNotice t
  else
    let s1 := s.pageWrite .response e (base + 0x40 + 16 * head) (n.bytes s.time)
    ((s1.pageWrite .response e base (toBytes 8 ((head + 1) % 1024))).raise (t + 1) 1).setMq n.leaf

/-- The work on a tenant's queue in another module: on its commands, or on its notifications. -/
def Tenant.queueWork (x : Tenant) (commands : Bool) : QueueWork := if commands then x.serving else x.posting
def State.modQueue (s : State) (t : Nat) (commands : Bool) (f : QueueWork → QueueWork) : State :=
  s.modTenant t (fun x => if commands then { x with serving := f x.serving } else { x with posting := f x.posting })

/-- A line of that queue is asked for; without a route the request has failed. -/
def State.askQueue (s : State) (t : Nat) (commands : Bool) (e : TlbEntry) (line : Nat) : State :=
  let q := lineRequest e line
  let note (st : Option Nat) (s : State) : State := s.modQueue t commands (fun w => { w with lines := w.lines ++ [⟨line, none, st⟩] })
  if s.reachable t q.dmod then note none (s.send none (.queueLine t commands) q) else note (some 2) s

/-- Bytes written to that queue; the work goes on when they are acknowledged. -/
def State.writeQueue (s : State) (t : Nat) (commands : Bool) (e : TlbEntry) (va : Nat) (bs : List Byte) : State :=
  let q := { tierPacket e 0x01 va with payload := bs }
  let went (s : State) (owed : Bool) : State := s.modQueue t commands (fun w => { w with stage := w.stage + 1, owed := owed })
  if s.reachable t q.dmod then went (s.send none (.queueWrite t commands) q) true else went s false

/-- The oldest notification is done with; the next one begins. -/
def State.nextNotice (s : State) (t : Nat) (e : TlbEntry) : State :=
  let s1 := s.modTenant t (fun x => { x with notices := x.notices.tail, posting := ⟨[], false, 0⟩ })
  if (s1.tenant t).notices.isEmpty then s1 else s1.askQueue t false e ((s.tenant t).migqbase.toNat / 128)

/-- The posting of the oldest notification in a queue of another module goes on: HEAD and TAIL are read, the entry is written, then,
when that is acknowledged, HEAD, and then vector 1 is raised (R209). -/
def State.postThere (s : State) (t : Nat) (e : TlbEntry) : State :=
  let x := s.tenant t
  let base := x.migqbase.toNat
  match x.notices with
  | [] => s
  | n :: _ =>
    if x.posting.owed then s
    else match lineRead x.posting.lines base 16 with
      | .unasked => s.askQueue t false e (base / 128)
      | .owed => s
      | .failed _ => (s.dropNotice t).nextNotice t e
      | .here bs _ =>
        let head := ofBytes (bs.take 8) % 1024
        if x.posting.stage = 0 then
          if (head + 1) % 1024 = ofBytes (bs.drop 8) % 1024 then (s.dropNotice t).nextNotice t e
          else s.writeQueue t false e (base + 0x40 + 16 * head) (n.bytes s.time)
        else if x.posting.stage = 1 then s.writeQueue t false e base (toBytes 8 ((head + 1) % 1024))
        else ((s.raise (t + 1) 1).setMq n.leaf).nextNotice t e

/-- The notifications on their way go on. -/
def State.postNotices (s0 : State) (t : Nat) : State :=
  let s := s0.walked t (s0.tenant t).migqbase.toNat
  match s.noticePage t with
  | some e =>
    if e.tier = 2 then s.postThere t e
    else runAll (fun (s : State) n => s.postHere t e n) (s.tenant t).notices
      (s.modTenant t (fun x => { x with notices := [], posting := ⟨[], false, 0⟩ }))
  | none => runAll (fun (s : State) _ => s.dropNotice t) (s.tenant t).notices
      (s.modTenant t (fun x => { x with notices := [], posting := ⟨[], false, 0⟩ }))

/-- A notification is posted, or dropped and counted (R209); in a queue of another module that takes the time of its requests. -/
def State.notify (s : State) (t : Nat) (n : Notice) : State :=
  (s.modTenant t (fun x => { x with notices := x.notices ++ [n] })).postNotices t

/-- A not-present notification when an access first holds on a page (R206). -/
def State.notPresent (s : State) (t va : Nat) (write : Bool) : State :=
  let page := va / 65536
  let recent := (s.tenant t).notified.any (fun n => n.1 == page && decide (s.time < n.2 + 1000000))
  if recent then s
  else
    let s1 := s.modTenant t (fun x => { x with notified := (page, s.time) :: x.notified.filter (fun n => n.1 != page) })
    s1.notify t ⟨3, va, write, 0, 0, 0, none⟩

/-- A walk of the page has succeeded: the next hold notifies again. -/
def State.present (s : State) (t va : Nat) : State :=
  if (s.tenant t).notified.any (fun n => n.1 == va / 65536) then
    s.modTenant t (fun x => { x with notified := x.notified.filter (fun n => n.1 != va / 65536) })
  else s

/-- The access writes (R199, R208). -/
def Acc.writes (a : Acc) : Bool := !(a == .load || a == .fetch)

/-- A core's translation of an access; the walk that it needs, if any, finds errors in the tables (R198, R199, R286). -/
def State.translate (s : State) (core t va : Nat) (a : Acc) : State × Xlat :=
  (if (s.tlbFind core t va).isNone then s.walked t va else s).lookup core t va a

/-- A translation with its notification: the page that is not valid is reported once, a walk that succeeds renews the
report (R206). -/
def State.xlat (s : State) (core t va : Nat) (a : Acc) : State × Xlat :=
  match s.translate core t va a with
  | (s1, .notValid) => (s1.notPresent t va a.writes, .notValid)
  | (s1, r) => (if s.walks core t va then s1.present t va else s1, r)

/-- A die's counter of a page counts one request: it moves to the front of its table, whose last one is replaced beyond 1,024
(R217; assumption 13). -/
def State.bump (s : State) (die t page n : Nat) : State :=
  let mine := s.counters.filter (fun c => c.die == die && !(c.tenant == t && c.page == page))
  { s with counters := (⟨die, t, page, n⟩ :: mine).take 1024 ++ s.counters.filter (fun c => c.die != die) }

def State.counted (s : State) (die t page : Nat) : Nat :=
  ((s.counters.find? (fun c => c.die == die && c.tenant == t && c.page == page)).map (·.count)).getD 0

/-- A 128-byte request that L2 sends to a page's tier, on account of a tenant and of a grid (R30): one to TIER 1, 2 or 3 counts in
the table of the slice's die; at 4,096 a TYPE 1 notification is posted and MQ set unless it is set already (R217). Every request
that performs at the home slice is taken to reach the tier, and the slice of a page of TIER 2 or 3 to be that of its virtual or
bus address (assumption 13). -/
def State.count (s : State) (g : Option (Nat × BitVec 16)) (t tier a va : Nat) : State :=
  let s0 := s.usesRequest 0 t g
  let s1 := if tier = 1 then s0.usesRequest 1 t g else s0
  if tier = 0 then s1
  else
    let die := sliceDie (homeSlice a)
    let n := s1.counted die t (va / 65536) + 1
    if n < 4096 then s1.bump die t (va / 65536) n
    else
      let s2 := s1.bump die t (va / 65536) 0
      match s2.walk t va with
      | .ok l => if l.mq then s2 else s2.notify t ⟨1, va, false, l.heatW, l.heatR, l.tier, some l.addr⟩
      | _ => s2

/-- The same for an address under its entry. -/
def State.countAt (s : State) (g : Option (Nat × BitVec 16)) (e : TlbEntry) (va : Nat) : State :=
  s.count g e.tenant e.tier (if e.tier = 2 then va else e.pa va) va

/-- The grid for which a reader reads. -/
def State.gridBy (s : State) (w : Reader) : Option (Nat × BitVec 16) :=
  match w.thread, w.engine with
  | some id, _ => (s.block? id.core id.ent).bind Block.grid
  | none, some x => (s.block? x.1 x.2).bind Block.grid
  | none, none => none

/-! ## The repair log (R33, R77) -/

/-- A repair is reported: an entry of the log, a KIND 0x31 record and vector 1. -/
def State.repaired (s : State) (row die item : Nat) : State :=
  let n := s.boot.repairSeq
  let e : Repair := ⟨BitVec.ofNat 64 s.time, BitVec.ofNat 64 (row + die * 2 ^ 8 + item % 32 * 2 ^ 9), BitVec.ofNat 64 n⟩
  let s1 : State := { s with boot := { s.boot with
    repairSeq := n + 1
    repairs := if n < 64 then s.boot.repairs ++ [e] else modifyAt (fun _ => e) s.boot.repairs (n % 64) } }
  (s1.pfRecord { kind := 0x31, sev := 0, src := 11, synd := n }).raise 0 1

end Sys2Proof.Machine
end

