-- ==== Sys2Proof/Machine/Contract.lean ====
section
/-! DEFINITION. Arithmetic contracts: descriptors, the catalogue and the capability registers (R274, R275, R279 to R281). -/

namespace Sys2Proof.Machine

/-- A contract descriptor (R275) with its speed (R280). -/
structure Contract where
  number : Nat
  group : Nat
  alignw : Nat
  subn : Nat
  rpt : Nat
  accw : Nat
  ftab : Nat
  vfma : Bool
  vsub : Bool
  speed : Nat
  deriving DecidableEq, Repr

/-- The published catalogue (R279). -/
def catalogue : List Contract :=
  [⟨0x0101, 2, 24, 2, 0, 24, 1, true, true, 1⟩,
   ⟨0x0102, 2, 24, 0, 0, 24, 1, true, false, 1⟩,
   ⟨0x0201, 4, 28, 0, 0, 24, 2, false, false, 0⟩,
   ⟨0x0301, 5, 0, 0, 0, 24, 3, false, false, 0⟩,
   ⟨0x0302, 7, 0, 0, 2, 32, 3, false, false, 0⟩,
   ⟨0x03F0, 0, 0, 0, 1, 24, 3, false, false, 3⟩]

/-- The contract of a number; Saffron stands for a number that no launch admits (R98, R279). -/
def contractOf (n : Nat) : Contract :=
  (catalogue.find? (fun c => c.number == n)).getD ⟨0x0301, 5, 0, 0, 0, 24, 3, false, false, 0⟩

/-- The descriptor as `CTRDESC` reads (R275). -/
def Contract.descriptor (c : Contract) : Nat :=
  c.number + c.group * 2 ^ 16 + c.alignw * 2 ^ 20 + c.subn * 2 ^ 28 + c.rpt * 2 ^ 30 + c.accw * 2 ^ 32
    + c.ftab * 2 ^ 40 + b2n c.vfma * 2 ^ 44 + b2n c.vsub * 2 ^ 46

/-- `CTRCAP0` to `CTRCAP15` (R280). -/
def ctrcap (i : Nat) : Nat :=
  match catalogue[i]? with
  | some c => c.number + c.speed * 2 ^ 16
  | none => 0x000F0000

/-- A contract is carried (R280). -/
def carried (n : Nat) : Bool := catalogue.any (fun c => c.number == n && c.speed != 15)

def Block.contract (b : Block) : Contract := contractOf b.rec_.contract

end Sys2Proof.Machine
end

