-- ==== Sys2Proof/Machine/Nodes.lean ====
section
/-! DEFINITION. The node table: launch checks, creation, decrement, retirement, cancel, kill and discard (R98, R106 to R115). -/

namespace Sys2Proof.Machine

/-! ## The launch record (R96 to R98) -/

/-- A field is zero. -/
def zeroField (w lo n : Nat) : Bool := field w lo n == 0

/-- The reserved fields of words 0 to 14 are zero (CODE 0x11). -/
def launchReservedOk (w : List DWord) : Bool :=
  let d := dword w
  zeroField (d 0) 54 10 && zeroField (d 1) 23 9 && zeroField (d 4) 54 10 && zeroField (d 6) 54 10 && zeroField (d 7) 54 10
    && zeroField (d 8) 17 15 && [9, 10, 11, 12, 13, 14].all (fun i => d i == 0)

/-- Sizes of the grid (CODE 0x13). -/
def launchSizesOk (w : List DWord) : Bool :=
  let d := dword w
  let threads := field (d 1) 32 16
  let gang := field (d 1) 48 8
  let gx := field (d 2) 0 32
  let gy := field (d 2) 32 16
  let gz := field (d 2) 48 16
  decide (1 ≤ threads) && decide (threads ≤ 4096) && decide (1 ≤ gang) && decide (gang ≤ 4)
    && decide (1 ≤ gx) && gx % gang == 0 && decide (1 ≤ gy) && decide (1 ≤ gz) && decide (gx * gy * gz ≤ 2 ^ 32)

/-- SCRATCH, FRAME and NUNIF (CODE 0x14). -/
def launchStoreOk (w : List DWord) : Bool :=
  let d := dword w
  let frame := field (d 3) 32 16
  decide (field (d 3) 0 32 ≤ 458752) && decide (8 ≤ frame) && decide (frame ≤ 4096) && frame % 8 == 0
    && decide (field (d 3) 48 16 ≤ 256)

/-- Addresses (CODE 0x15). -/
def launchAddressesOk (w : List DWord) : Bool :=
  let d := dword w
  let nunif := field (d 3) 48 16
  field (d 0) 0 54 != 0 && d 0 % 64 == 0 && (nunif == 0 || d 4 % 8 == 0)
    && field (d 6) 0 54 != 0 && d 6 % 64 == 0 && field (d 7) 0 54 != 0 && d 7 % 65536 == 0

/-- A dword of tenant memory that the I/O die reads: its value and poison, none where the page does not translate
readable; frames of TIER 2 are not read (assumption 14). -/
def State.readFor (s0 : State) (t va : Nat) : State × Option UVal :=
  let s := s0.walked t va
  match s.walkFor t va .load with
  | .ok e =>
    if e.tier = 2 then (s, none)
    else if e.tier = 3 then (s, some ⟨BitVec.ofNat 64 (s.host.nat (e.pa va) 8), s.host.anyPoison (e.pa va) 8⟩)
    else
      let r := s.homeRead (.tenant_ t va) (e.pa va) 8
      (r.1, some ⟨BitVec.ofNat 64 (ofBytes r.2.1), r.2.2⟩)
  | _ => (s, none)

/-- `n` dwords of tenant memory; none when one does not translate readable. -/
def State.readDwords (s : State) (t va : Nat) : Nat → State × Option (List UVal)
  | 0 => (s, some [])
  | n + 1 =>
    match s.readFor t va with
    | (s1, none) => (s1, none)
    | (s1, some v) => match s1.readDwords t (va + 8) n with
      | (s2, some vs) => (s2, some (v :: vs))
      | (s2, none) => (s2, none)

/-- The lowest-numbered FREE node that a tenant owns (R106). -/
def State.freeNode (s : State) (t : Nat) : Option Nat :=
  let x := s.tenant t
  go (s := s) t x.nodefirst x.nodecnt
where
  go {s : State} (t n : Nat) : Nat → Option Nat
    | 0 => none
    | k + 1 => if s.ownsNode t n && (s.node n).st == .free then some n else go (s := s) t (n + 1) k

/-- Number the values of a uniform image. -/
def numbered (vs : List UVal) : List (Nat × UVal) := go 0 vs
where
  go (i : Nat) : List UVal → List (Nat × UVal)
    | [] => []
    | v :: vs => (i, v) :: go (i + 1) vs

/-- The checks of R98 from 0x11 on, and the captured launch. -/
def State.checkLaunch (s : State) (t : Nat) (w : List DWord) : State × Except Nat Launched :=
  let d := dword w
  if !launchReservedOk w then (s, .error 0x11)
  else if !carried (field (d 1) 0 16) then (s, .error 0x12)
  else if !launchSizesOk w then (s, .error 0x13)
  else if !launchStoreOk w then (s, .error 0x14)
  else if !launchAddressesOk w then (s, .error 0x15)
  else
    let nunif := field (d 3) 48 16
    match s.readDwords t (field (d 4) 0 54) nunif with
    | (s1, none) => (s1, .error 0x16)
    | (s1, some vs) =>
      if bitOf (d 8) 16 && !s.ownsNode t (field (d 8) 0 16) then (s1, .error 0x17)
      else if (s.freeNode t).isNone then (s1, .error 0x18)
      else
        let flags := field (d 1) 16 16
        let prio := field (d 1) 56 8
        (s1, .ok {
          entry := BitVec.ofNat 54 (d 0)
          contract := field (d 1) 0 16
          flags := BitVec.ofNat 16 flags
          threads := field (d 1) 32 16
          gang := field (d 1) 48 8
          prio := if (s.tenant t).maxprio < prio then (s.tenant t).maxprio else prio
          gridx := field (d 2) 0 32
          gridy := field (d 2) 32 16
          gridz := field (d 2) 48 16
          scratch := field (d 3) 0 32
          frame := field (d 3) 32 16
          nunif := nunif
          seed := if bitOf flags 6 then (s.tenant t).seed else BitVec.ofNat 64 (d 5)
          trapTab := BitVec.ofNat 54 (d 6)
          backing := BitVec.ofNat 54 (d 7)
          unif := numbered vs })

/-! ## Logical cores and quads in service (R31, R121) -/

def State.quadOk (s : State) (q : Nat) : Bool :=
  match s.boot.quadMap[q]? with
  | some e => e.ok
  | none => false

/-- The failed quad of a die that Fevar is remapping: the first whose fault was recorded (R33). -/
def State.inRemap (s : State) (q : Nat) : Bool := s.boot.remapping.find? (fun x => x / 24 == q / 24) == some q

/-- The gangs of a quad leave it: it is being remapped, or it is out of service (R32, R123, R131). -/
def State.quadLeaves (s : State) (q : Nat) : Bool := s.inRemap q || !s.quadOk q

/-- The in-service cores, or quads for gangs of more than one block, in ascending number (R121). -/
def State.placesFor (s : State) (gang : Nat) : List Nat :=
  if gang = 1 then (List.range Config.cores).filter (fun c => s.quadOk (quadOf c))
  else (List.range Config.quads).filter s.quadOk

/-! ## Creation (R107, R108) -/

/-- A node is created in a FREE entry: GEN and CSEQ advance, the rest is fresh. -/
def State.createNode (s : State) (t n : Nat) (x : Node) : State :=
  let old := s.node n
  let y : Node := { x with
    num := n, gen := old.gen + 1, cseq := s.cseq + 1, tenant := t, outcome := 0, failin := false, paced := false, nextblk := 0,
    ahead := [], live := 0, energy := 0, micro := 0 }
  { s.setNode y with cseq := s.cseq + 1 }

/-- A grid node of a captured launch; READY with a count of 0, else ARMED (R110). -/
def State.createGrid (s : State) (t pred : Nat) (w8 : Nat) (l : Launched) : State × Nat :=
  match s.freeNode t with
  | none => (s, 0)
  | some n =>
    (s.createNode t n { Node.empty n with
      pred := pred, st := if pred = 0 then .ready else .armed, cnode := field w8 0 16, cnv := bitOf w8 16,
      ecap := field w8 32 32, launch := some l, places := if pred = 0 then s.placesFor l.gang else [] }, n)

/-! ## Discard of saved gangs (R114) -/

/-- A chain of the block is in flight (R64). -/
def State.chainsOf (s : State) (node : Nat) (gen : BitVec 16) (block : Nat) : Bool :=
  s.coll.chains.any (fun c => c.owner.node == node && c.owner.gen == gen && c.owner.block == block)

/-- A fabric command of the block is in flight (R428). -/
def State.commandsOf (s : State) (node : Nat) (gen : BitVec 16) (block : Nat) : Bool :=
  s.fabric.cmds.any (fun c => c.owner.node == node && c.owner.gen == gen && c.owner.block == block)

def Image.gang (i : Image) : Nat × BitVec 16 × Nat := (i.rec_.node, i.rec_.gen, i.rec_.block - i.rec_.rank)

/-- An image may be discarded now: no chain of its gang is in flight. -/
def State.discardable (s : State) (i : Image) : Bool :=
  (s.images.filter (fun j => j.gang == i.gang)).all (fun j => !s.chainsOf j.rec_.node j.rec_.gen j.rec_.block)

/-- Saved gangs of an ENDING node with OUTCOME 2, 3 or 5 are discarded: LIVE falls and their images are freed. -/
def State.discard (s : State) (n : Nat) : State :=
  let x := s.node n
  if x.st == .ending && (x.outcome == 2 || x.outcome == 3 || x.outcome == 5) then
    let gone := s.images.filter (fun i => i.rec_.node == n && i.rec_.gen == x.gen && i.saved && s.discardable i)
    let k := (gone.filter (fun i => i.verify != .secondary)).length
    { s.modNode n (fun y => { y with live := y.live - k }) with
      images := s.images.filter (fun i => !(gone.contains i)) }
  else s

/-! ## Decrement and retirement (R109, R110, R112) -/

/-- Refusals of decrements count (R54, R109). -/
def State.refuseSignal (s : State) (t : Nat) : State := s.modTenant t (fun x => { x with sigref := satInc x.sigref })

/-- A decrement is accepted: the node is owned by the tenant, ARMED, and its counter is not zero (R109). -/
def State.decrementOk (s : State) (t n : Nat) : Bool :=
  s.ownsNode t n && (s.node n).st == .armed && (s.node n).pred != 0

mutual

/-- A decrement that reaches the node table; a refused one leaves the node unchanged. -/
def State.decrement (s : State) (t n : Nat) (failure : Bool) : Nat → State × Bool
  | 0 => (s, false)
  | fuel + 1 =>
    if !s.decrementOk t n then (s, false)
    else
      let x := s.node n
      let y := { x with failin := x.failin || failure, pred := x.pred - 1 }
      if x.pred = 1 then
        if x.event then (State.retire (s.setNode y) n (if y.failin then 6 else 1) fuel, true)
        else if y.failin then (State.retire (s.setNode y) n 6 fuel, true)
        else (s.setNode { y with st := .ready, places := s.placesFor ((x.launch.map (·.gang)).getD 1) }, true)
      else (s.setNode y, true)

/-- Retirement (R112): the successor is decremented, the vector raised, the node FREE. -/
def State.retire (s : State) (n outcome : Nat) : Nat → State
  | 0 => s
  | fuel + 1 =>
    let s1 := s.modNode n (fun x => { x with outcome := outcome })
    let x := s1.node n
    let s2 := if x.cnv then
        match State.decrement s1 x.tenant x.cnode (outcome != 1) fuel with
        | (a, true) => a
        | (a, false) => a.refuseSignal x.tenant
      else s1
    let s3 := if x.vec != 0 then s2.raise (x.tenant + 1) x.vec else s2
    s3.modNode n (fun x => { x with st := .free })

end

/-- Steps that a chain of retirements may take: two for each node. -/
def nodeFuel : Nat := 131074

/-- A decrement from a source that counts a refusal (R109). -/
def State.signal (s : State) (t n : Nat) (failure : Bool) : State :=
  match s.decrement t n failure nodeFuel with
  | (a, true) => a
  | (a, false) => a.refuseSignal t

/-- An ENDING node whose LIVE has reached 0 retires (R110). -/
def State.settleNode (s : State) (n : Nat) : State :=
  let x := s.node n
  if x.st == .ending && x.live == 0 then s.retire n (if x.outcome == 0 then 1 else x.outcome) nodeFuel else s

/-! ## Kill (R113, R114) -/

/-- A gang's entries leave a matrix engine: requests dropped, banks freed (R113). -/
def Engine.drop (e : Engine) (g : Nat × BitVec 16 × Nat) : Engine :=
  { e with
    table := e.table.filter (fun x => x.gang != g)
    running := if e.running.any (fun x => x.gang == g) then none else e.running
    passing := e.passing && !e.running.any (fun x => x.gang == g)
    narrow := e.narrow && !e.running.any (fun x => x.gang == g)
    banks := e.banks.map (fun b => if b.gang == some g then Bank.empty else b)
    stickies := e.stickies.filter (fun x => x.gang != g) }

/-- A killed block: its threads stop at once, its copy commands are dropped (R113). -/
def Block.kill (b : Block) : Block :=
  { b with
    killed := true
    copies := []
    token := none
    threads := b.threads.map (fun th =>
      { th with status := .exited, regs := [], spills := [], pend := [], loads := [], chain := none, wait := none,
                trapNext := none, traps := [] }) }

/-- The resident blocks of a gang are killed: side-log entries and matrix requests go with them. -/
def State.stopGang (s : State) (g : Nat × BitVec 16 × Nat) : State :=
  let bs := s.blocks.filter (fun b => b.gang == g)
  let s1 : State := { s with
    blocks := s.blocks.map (fun b => if b.gang == g then b.kill else b)
    cores := s.cores.map (fun c =>
      { c with sideLog := c.sideLog.filter (fun e => !bs.any (fun b => b.core == c.num && b.ent == e.slote)) })
    engines := s.engines.map (fun e => if bs.any (fun b => quadOf b.core == e.quad) then e.drop g else e) }
  s1

/-- A node goes to ENDING with an outcome; OUTCOME keeps its first non-zero value (R110). Its saved gangs are
discarded where R114 says so, and under OUTCOME 5 its resident gangs are killed. -/
def State.endNode (s : State) (n outcome : Nat) : State :=
  let x := s.node n
  if x.st == .running || x.st == .ending then
    let o := if x.outcome == 0 then outcome else x.outcome
    let s1 := s.setNode { x with st := .ending, outcome := o }
    let s2 := if outcome = 5 && x.st == .running then
        runAll (fun (s : State) g => s.stopGang g)
          ((s1.blocks.filter (fun b => b.rec_.node == n && b.rec_.gen == x.gen && !b.saving)).map Block.gang) s1
      else s1
    (s2.discard n).settleNode n
  else s

/-- The gang of a block is killed with OUTCOME 2. -/
def State.killGang (s : State) (core ent : Nat) : State :=
  match s.block? core ent with
  | none => s
  | some b => if b.killed then s else (s.stopGang b.gang).endNode b.rec_.node 2

/-- The cancel form (R113): ARMED and READY retire, RUNNING ends, ENDING and FREE are unchanged. -/
def State.cancelNode (s : State) (n : Nat) : State :=
  match (s.node n).st with
  | .armed => s.retire n 5 nodeFuel
  | .ready => s.retire n 5 nodeFuel
  | .running => s.endNode n 5
  | _ => s

/-- Every block of the part stops and every node in use is FREE with OUTCOME 7, without retirement (R27, R110). -/
def State.emergency (s : State) : State :=
  { s with
    power := { s.power with stopped := true }
    nodes := s.nodes.map (fun x => { (if x.st == .free then x else { x with st := .free, outcome := 7 }) with live := 0 })
    blocks := []
    images := []
    cores := s.cores.map (fun c => { c with sideLog := [], control := [] })
    lanes := []
    engines := s.engines.map (fun e => { Engine.empty e.quad with posts := e.posts })
    fabric := { s.fabric with cmds := [], unacked := [], markers := [], held := [] }
    coll := { s.coll with chains := [], ready := [], notes := [], data := [] }
    shed := none }

end Sys2Proof.Machine
end

