-- ==== Sys2Proof/Machine/Cache.lean ====
section
/-! DEFINITION. L1 lines, accesses at the home slice, phase boundaries and the scratchpad with its barrier objects (R186, R187, R219, R225 to R230, R241 to R245). -/

namespace Sys2Proof.Machine

/-! ## L1 lines (R186) -/

def L1Line.empty (core line : Nat) : L1Line := ⟨core, line, zeroBytes 128, 0, 0, 0, 0, 0⟩
def L1Line.is (l : L1Line) (core line : Nat) : Bool := l.core == core && l.line == line
def State.l1Line? (s : State) (core line : Nat) : Option L1Line := s.l1.find? (fun l => l.is core line)
def State.dropLine (s : State) (core line : Nat) : State := { s with l1 := s.l1.filter (fun l => !l.is core line) }
def State.putLine (s : State) (l : L1Line) : State := { s with l1 := l :: s.l1.filter (fun m => !m.is l.core l.line) }

/-- A mask of 128 bits whose bit i is `f i`. -/
def mask128 (f : Nat → Bool) : BitVec 128 := BitVec.ofNat 128 (sum 128)
where
  sum : Nat → Nat
    | 0 => 0
    | n + 1 => sum n + (if f n then 2 ^ n else 0)

/-- Bit i of `n` bytes from offset `o` on. -/
def spanMask (o n : Nat) : BitVec 128 := BitVec.ofNat 128 ((2 ^ n - 1) * 2 ^ o)

/-- Line bytes chosen one by one: from the line where the mask is set, from the other bytes elsewhere. -/
def pickBytes (m : BitVec 128) (mine theirs : List Byte) : List Byte :=
  (List.range 128).map (fun i => if m.getLsbD i then mine[i]?.getD 0 else theirs[i]?.getD 0)

/-- The poison bits of the four granules of a line in memory. -/
def ByteMem.linePoison (m : ByteMem) (line : Nat) : BitVec 4 :=
  BitVec.ofNat 4 (b2n (m.poisoned (4 * line)) + 2 * b2n (m.poisoned (4 * line + 1)) + 4 * b2n (m.poisoned (4 * line + 2))
    + 8 * b2n (m.poisoned (4 * line + 3)))

/-- The poison of a write-back: a granule with a dirty byte takes the line's poison, and one that is all dirty its
absence too (R287). -/
def writeBackPoison (l : L1Line) (m : ByteMem) : ByteMem :=
  runAll (fun (m : ByteMem) g =>
    let d := l.dirty.extractLsb' (32 * g) 32
    if d = 0 then m
    else if l.poison.getLsbD g then m.setPoison (4 * l.line + g)
    else if d = BitVec.allOnes 32 then m.clearPoison (4 * l.line + g)
    else m) [0, 1, 2, 3] m

/-- The dirty bytes of a line go to the home slice (R186), as one request (R217). -/
def State.writeBack (s : State) (l : L1Line) : State :=
  let m := runAll (fun (m : ByteMem) i =>
    if l.dirty.getLsbD i then m.set (128 * l.line + i) (l.data[i]?.getD 0) else m) (List.range 128) s.mem
  if l.dirty = 0 then s
  else (({ s with mem := writeBackPoison l m } : State).markLines false (128 * l.line) 128).count none l.tenant
    (b2n (decide (Config.tier2Base ≤ 128 * l.line))) (128 * l.line) (128 * l.vline)

/-- The core writes back its dirty bytes of a line and drops it (R219, R237, R247). -/
def State.flushLine (s : State) (core line : Nat) : State :=
  match s.l1Line? core line with
  | some l => (s.writeBack l).dropLine core line
  | none => s

/-- Every line that `n` bytes touch is written back and dropped. -/
def State.flushRange (s : State) (core pa n : Nat) : State :=
  runAll (fun (s : State) l => s.flushLine core l) (linesOf pa n) s

/-- Lines that a core's L1 holds: the rest of its SRAM beside the scratchpads of its blocks (R104, R184). -/
def State.l1Lines (s : State) (core : Nat) : Nat :=
  (Config.sramBytes - (s.blocksOn core).foldl (fun n b => n + b.alloc) 0) / 128

/-- The lines of a core beyond the first `n` are evicted, their dirty bytes written back (R186, R233). -/
def State.evictBeyond (s : State) (core n : Nat) : State :=
  runAll (fun (s : State) (l : L1Line) => s.flushLine core l.line) ((s.l1.filter (fun l => l.core == core)).drop n) s

/-- A line is allocated in L1: the lines allocated longest ago make room, and one with CACHE 2 is the next to be replaced (R180,
R184; assumption 89). -/
def State.allocLine (s : State) (l : L1Line) (cache : Nat) : State :=
  let s1 := (s.dropLine l.core l.line).evictBeyond l.core (s.l1Lines l.core - 1)
  if cache = 2 then { s1 with l1 := s1.l1 ++ [l] } else s1.putLine l

/-- Every dirty byte of a core's L1 is written back; the lines stay, clean: the release point (R227, R232, R234). -/
def State.writeBackAll (s : State) (core : Nat) : State :=
  let s1 := runAll (fun (s : State) l => s.writeBack l) (s.l1.filter (fun l => l.core == core)) s
  { s1 with l1 := s1.l1.map (fun l => if l.core == core then { l with clean := l.clean ||| l.dirty, dirty := 0 } else l) }

/-- The acquisition point of a core (R228): clean lines go, the clean bytes of dirty lines are invalid, so that a later load reads what
is published by then (R232, R234). -/
def State.acquire (s : State) (core : Nat) : State :=
  { s with
    l1 := (s.l1.map (fun l => if l.core == core then { l with clean := 0 } else l)).filter
      (fun l => l.core != core || l.dirty != 0) }

/-! ## Loads and stores of mapped memory (R180, R219) -/

/-- The load that a thread owes an acquire for, beside its earlier ones (R228, R230). -/
def acquireRec (a : Option Await) : LoadRec := ⟨none, none, .n32, ⟨0, false⟩, none, a, true, false⟩

/-- A thread acquires: at once when none of its loads is in flight, else after they have returned; it does not issue before (R228). -/
def State.acquireAfter (s : State) (id : ThreadId) : State :=
  match s.thread? id with
  | some th =>
    if th.loads.isEmpty then s.acquire id.core
    else s.modThread id (fun t => { t with loads := t.loads ++ [acquireRec none] })
  | none => s

/-- A fill of the line of an address: bytes that are neither clean nor dirty come from the home slice, as one request, and are clean
(R217, R228). -/
def State.fillLine (s : State) (w : Reader) (core : Nat) (e : TlbEntry) (va cache : Nat) : State × L1Line :=
  let line := e.pa va / 128
  let l := (s.l1Line? core line).getD (L1Line.empty core line)
  if l.clean ||| l.dirty = BitVec.allOnes 128 then (s, l)
  else
    let s1 := (s.discover w (128 * line) 128).countAt (s.gridBy w) e va
    let l' := { l with data := pickBytes (l.clean ||| l.dirty) l.data (s1.mem.read (128 * line) 128), clean := ~~~l.dirty,
                       poison := l.poison ||| s1.mem.linePoison line, tenant := e.tenant, vline := va / 128 }
    (s1.allocLine l' cache, l')

/-- Bits of the granules of a line that `n` bytes from offset `o` touch. -/
def lineGranules (o n : Nat) : List Nat := (List.range ((o + n - 1) / 32 - o / 32 + 1)).map (· + o / 32)

/-- A load through L1: bytes that it holds, clean since the latest acquisition point or dirty, are the value; others are filled from
the home slice (R225, R234, R235). A line that is absent is allocated unless CACHE forbids it (R180). -/
def State.l1Load (s : State) (w : Reader) (core : Nat) (e : TlbEntry) (va n cache : Nat) : State × List Byte × Bool :=
  let line := e.pa va / 128
  let o := e.pa va % 128
  let have_ := match s.l1Line? core line with
    | some l => (l.clean ||| l.dirty) &&& spanMask o n == spanMask o n
    | none => false
  if (cache == 1 || cache == 3) && (s.l1Line? core line).isNone then s.homeRead w (e.pa va) n
  else
    let r := if have_ then (s, (s.l1Line? core line).getD (L1Line.empty core line)) else s.fillLine w core e va cache
    (r.1, (List.range n).map (fun i => r.2.data[o + i]?.getD 0), (lineGranules o n).any (fun g => r.2.poison.getLsbD g))

/-- Bytes of a list replaced from a position on. -/
def overwrite (xs : List Byte) (o : Nat) (bs : List Byte) : List Byte := xs.take o ++ bs ++ xs.drop (o + bs.length)

/-- The poison of a line's granules after a store, which clears those that it covers whole (R287). -/
def linePoisonAfter (p0 : BitVec 4) (line o n : Nat) (p : Bool) (full : List Nat) : BitVec 4 :=
  runAll (fun (q : BitVec 4) g =>
    let bit := BitVec.ofNat 4 (2 ^ g)
    if p then q ||| bit
    else if full.contains (4 * line + g) || (decide (o ≤ 32 * g) && decide (32 * g + 32 ≤ o + n)) then q &&& ~~~bit
    else q) (lineGranules o n) p0

/-- A store in L1: the line is allocated without a read and its bytes are dirty (R186). -/
def State.l1Store (s : State) (core : Nat) (e : TlbEntry) (va cache : Nat) (bs : List Byte) (p : Bool) (full : List Nat) : State :=
  let line := e.pa va / 128
  let o := e.pa va % 128
  let l := (s.l1Line? core line).getD (L1Line.empty core line)
  let m := spanMask o bs.length
  let l' := { l with data := overwrite l.data o bs, dirty := l.dirty ||| m, clean := l.clean &&& ~~~m,
                     poison := linePoisonAfter l.poison line o bs.length p full, tenant := e.tenant, vline := va / 128 }
  if (s.l1Line? core line).isSome then s.putLine l' else s.allocLine l' cache

/-- A load performs at the home slice (R219): the clean bytes of its line leave the issuing core's L1; a dirty byte of
the core is the value read (R223; assumption 15). -/
def State.homeLoad (s : State) (w : Reader) (core pa n : Nat) : State × List Byte × Bool :=
  let line := pa / 128
  match s.l1Line? core line with
  | some l =>
    let r := s.homeRead w pa n
    let l' := { l with clean := 0 }
    let s1 := if l.dirty = 0 then r.1.dropLine core line else r.1.putLine l'
    (s1, (List.range n).map (fun i => if l.dirty.getLsbD (pa % 128 + i) then l.data[pa % 128 + i]?.getD 0
      else r.2.1[i]?.getD 0),
      r.2.2 || (lineGranules (pa % 128) n).any (fun g => l.poison.getLsbD g && (l.dirty.extractLsb' (32 * g) 32) != 0))
  | none => s.homeRead w pa n

/-- An access to a page of TIER 0, 1 or 3 performs beyond the core's L1 (R180, R219). -/
def State.leavesL1 (s : State) (core : Nat) (e : TlbEntry) (va cache : Nat) (home : Bool) : Bool :=
  e.tier == 3 || home || e.kind != 0 || ((cache == 1 || cache == 3) && (s.l1Line? core (e.pa va / 128)).isNone)

/-- A load of a page of TIER 0, 1 or 3 (R219). -/
def State.loadMem (s : State) (w : Reader) (core : Nat) (e : TlbEntry) (va n cache : Nat) (home : Bool) :
    State × List Byte × Bool :=
  let pa := e.pa va
  if e.tier = 3 then (s, s.host.read pa n, s.host.anyPoison pa n)
  else if home || e.kind != 0 then s.homeLoad w core pa n
  else s.l1Load w core e va n cache

/-- A store to a page of TIER 0, 1 or 3 (R219). -/
def State.storeMem (s : State) (core : Nat) (e : TlbEntry) (va cache : Nat) (home : Bool) (bs : List Byte) (p : Bool)
    (full : List Nat) : State :=
  let pa := e.pa va
  if e.tier = 3 then s.hostStore pa bs p full
  else if home || e.kind != 0 then
    (s.flushRange core pa bs.length).homeStore pa bs p full
  else if (cache == 1 || cache == 3) && (s.l1Line? core (pa / 128)).isNone then s.homeStore pa bs p full
  else s.l1Store core e va cache bs p full

/-! ## Register results that wakes write -/

/-- A value written to a vector destination: the register (unless NWB) and the latches of the lane (`WriteDst`, R339).
`shift` is false where the result shifts no latch. -/
def State.writeVec (s : State) (id : ThreadId) (d : Dst) (wide : Bool) (v : UVal) (shift : Bool) : State :=
  let s1 := if d.nwb then s else s.modThread id (fun th =>
    let i := th.fbase + d.reg.toNat
    let a := th.setReg i ⟨BitVec.ofNat 32 v.nat, v.poison⟩
    if wide then a.setReg (i + 1) ⟨BitVec.ofNat 32 (v.nat / 2 ^ 32), v.poison⟩ else a)
  if shift then s1.setLane ((s1.laneFor id).shift v) else s1

/-! ## Scratchpad (R187, R241 to R244) -/

/-- A word of the scratchpad of a gang member of a block. -/
def State.scrWord (s : State) (b : Block) (w : ScrWord) : Word :=
  match s.member? b w.member with
  | some m => BitVec.ofNat 32 (s.scratch.nat (m.scrAddr w.off) 4)
  | none => 0

/-- A thread that a step has released: from `BAR` with the acquire of its scope (R413), from `WAITA` with its result, available a
cycle after the step (R143), and at the next instruction (R416). -/
def State.wakeThread (s : State) (b : Block) (th : Thread) : State :=
  let id := b.idOf th.tid
  match th.status with
  | .bar w p _ gang =>
    if bitOf (s.scrWord b w).toNat 16 != p then
      let s1 := s.modThread id (fun t => { t with status := .run })
      if gang then s1.acquireAfter id else s1
    else s
  | .waita w v d next =>
    let x := s.scrWord b w
    if x != v then
      let p := match s.member? b w.member with
        | some m => s.scratch.anyPoison (m.scrAddr w.off) 4
        | none => false
      (s.modThread id (fun t =>
        { t with
          status := .run
          pc := next
          pend := t.pend ++ [⟨t.fbase + d.reg.toNat, b2n (!d.nwb), none, s.cycle + 1, none⟩] })).writeVec id d false (word32 x.toNat p) true
    else s
  | _ => s

/-- Every thread of the quad whose awaited word differs is released (R242, R413, R416). -/
def State.wake (s : State) (quad : Nat) : State :=
  runAll (fun (s : State) b => runAll (fun (s : State) th => s.wakeThread b th) b.threads s)
    (s.blocks.filter (fun b => quadOf b.core == quad && !b.killed)) s

/-- Bytes stored in a block's scratchpad, with the releases that follow. -/
def State.scrStore (s : State) (b : Block) (off : Nat) (bs : List Byte) (p : Bool) (full : List Nat) : State :=
  ({ s with scratch := s.scratch.store (b.scrAddr off) bs p full } : State).wake (quadOf b.core)

/-- Bytes read from a block's scratchpad. -/
def State.scrLoad (s : State) (b : Block) (off n : Nat) : List Byte × Bool :=
  (s.scratch.read (b.scrAddr off) n, s.scratch.anyPoison (b.scrAddr off) n)

/-- A barrier object (R241). -/
structure BarObj where
  bytes : Word
  phase : Bool
  arrivals : Nat
  bytesInit : Word
  arrivalsInit : Nat
  reserved : Bool
  deriving DecidableEq, Repr

def BarObj.ofWords (w0 w1 w2 w3 : Nat) : BarObj :=
  ⟨BitVec.ofNat 32 w0, bitOf w1 16, field w1 0 16, BitVec.ofNat 32 w2, field w3 0 16, field w1 17 15 != 0 || field w3 16 16 != 0⟩

def State.barObj (s : State) (b : Block) (off : Nat) : BarObj :=
  let a := b.scrAddr off
  BarObj.ofWords (s.scratch.nat a 4) (s.scratch.nat (a + 4) 4) (s.scratch.nat (a + 8) 4) (s.scratch.nat (a + 12) 4)

def BarObj.toBytes (o : BarObj) : List Byte :=
  Machine.toBytes 4 o.bytes.toNat ++ Machine.toBytes 4 (o.arrivals + b2n o.phase * 2 ^ 16) ++ Machine.toBytes 4 o.bytesInit.toNat
    ++ Machine.toBytes 4 o.arrivalsInit

/-- `Settle` of R243. -/
def BarObj.settle (o : BarObj) : BarObj :=
  if o.bytes = 0 && o.arrivals = 0 then { o with phase := !o.phase, bytes := o.bytesInit, arrivals := o.arrivalsInit } else o

/-- `Init`, `Expect`, `Add` and `Arrive` of R243; `Arrive` answers none where it overruns. -/
def BarObj.init (b : Word) (a : Nat) : BarObj := ⟨b, false, a, b, a, false⟩
def BarObj.expect (o : BarObj) (n : Word) : BarObj := ({ o with bytes := o.bytes - n } : BarObj).settle
def BarObj.add (o : BarObj) (n : Word) : BarObj := ({ o with bytes := o.bytes + n } : BarObj).settle
def BarObj.arrive (o : BarObj) (k : Nat) : Option BarObj :=
  if o.arrivals < k then none else some ({ o with arrivals := o.arrivals - k } : BarObj).settle

/-- A barrier object written as one step. -/
def State.setBar (s : State) (b : Block) (off : Nat) (o : BarObj) : State := s.scrStore b off o.toBytes false []

/-- Every thread of a block that has not exited is held at a barrier wait on its object at `off`, or is one of `joining`,
which arrive there now. -/
def Block.allAt (b : Block) (off : Nat) (joining : List Nat) : Bool :=
  b.threads.any (fun th => !th.exited) && b.threads.all (fun th => th.exited || joining.contains th.tid
    || (match th.status with | .bar w _ _ _ => w == ⟨b.rec_.rank, off + 4⟩ | _ => false))

/-- A snapshot point of a block begins (R296): issue stops, and the commands issued before it are awaited; a verified
primary waits 10 ms for its counterpart (R307). -/
def State.beginSnapshot (s : State) (b : Block) : State :=
  let s1 := s.modBlock b.core b.ent (fun x =>
    { x with
      snap := x.snap.map (fun sn => { sn with point := true })
      threads := if x.verify == .primary then
          x.threads.map (fun th => if th.exited then th else { th with wait := some (.verify (s.halfNs + 20000000)) })
        else x.threads
      copies := x.copies.map (fun k => { k with awaited := true }) })
  { s1 with fabric := { s1.fabric with cmds := s1.fabric.cmds.map (fun k =>
      if k.form == 2 && k.owner.node == b.rec_.node && k.owner.gen == b.rec_.gen && k.owner.block == b.rec_.block
      then { k with awaited := true } else k) } }

/-- A step of R243 on a block's object: a flip at which all its threads wait is a snapshot point under `SNAP`. -/
def State.stepBar (s : State) (b : Block) (off : Nat) (o : BarObj) (joining : List Nat) : State :=
  let flip := (s.barObj b off).phase != o.phase
  let b' := (s.block? b.core b.ent).getD b
  let snapshot := flip && b'.allAt off joining && (match b'.snap with | some sn => !sn.point && !sn.rolling | none => false)
  (if snapshot then s.beginSnapshot b else s).setBar b off o

/-- `SNAP` logs an addition by fabric or collective traffic as TYPE 8 (R299). -/
def Block.logAddition (b : Block) (off : Nat) (n : Word) : Block :=
  match b.snap with
  | some sn =>
    if sn.log.length < 1024 then
      { b with snap := some { sn with log := sn.log ++ [⟨0, 8, 0, 0, 0, off, true, n, none, none⟩] } }
    else { b with snap := some { sn with unprot := true } }
  | none => b

/-- An engine's, the fabric's or the collective engine's addition (R242, R243): discarded on an object with a non-zero
reserved bit. -/
def State.barAdd (s : State) (b : Block) (off : Nat) (n : Word) : State :=
  let o := s.barObj b off
  if o.reserved then s else s.stepBar b off (o.add n) []

end Sys2Proof.Machine
end

