-- ==== Sys2Proof/Machine/Operands.lean ====
section
/-! DEFINITION. What each instruction reads and writes, its latency class, and how operands are read (R142, R143, R151, R310 to R312, R317). -/

namespace Sys2Proof.Machine

/-- The rows of the latency table (R143). -/
inductive Lat where
  | fast | mul | div | fp32 | fp64 | sfu | quant | cross | load | sync
  deriving DecidableEq, Repr

/-- Result latency and issue cycles of a row (R143). -/
def Lat.cycles : Lat → Nat × Nat
  | .fast => (1, 1)
  | .mul => (3, 1)
  | .div => (24, 8)
  | .fp32 => (4, 1)
  | .fp64 => (8, 2)
  | .sfu => (16, 4)
  | .quant => (6, 1)
  | .cross => (6, 1)
  | .load => (1, 1)
  | .sync => (1, 1)

/-- The rows that a contract's SPEED scales (R281). -/
def Lat.scaled : Lat → Bool
  | .fp32 => true
  | .fp64 => true
  | .sfu => true
  | .quant => true
  | _ => false

/-- What an instruction uses: sources A, B and C with the registers each spans, further register groups, its vector
destination, the records and further condition registers it names, its latency row, and what `SSET`, `SADD`, `SLD`, accesses
without a result and fences add. -/
structure Use where
  head : Head
  a : Option (Src × Nat) := none
  b : Option (Src × Nat) := none
  c : Option (Src × Nat) := none
  dst : Option (Dst × Nat) := none
  recs : List (BitVec 8) := []
  ccs : List (BitVec 2) := []
  lat : Lat := .fast
  /-- uniform register that it writes -/
  udst : Option (BitVec 8) := none
  /-- a lane that would trap is dropped instead (`PREF`, R410) -/
  quiet : Bool := false
  /-- so is a lane of a demoted thread (`ST`, `RED`, `ATFX`, R168) -/
  quietDem : Bool := false
  /-- a poisoned guard register takes no trap (R410, R415): its flags decide -/
  tame : Bool := false
  deriving DecidableEq, Repr

/-- Registers that an operand of a width spans. -/
def wid (w : Bool) : Nat := if w then 2 else 1

/-- FP32 or FP64 row (R143). -/
def latOf (t : Ty) : Lat := if t == .f64 then .fp64 else .fp32

def useAlu2 (p : Alu2) (b32 : Bool) (l : Lat) : Use :=
  { head := p.head, a := some (p.a, wid p.ty.wide), b := some (p.b, wid (p.ty.wide && !b32)),
    dst := some (p.d, wid p.ty.wide), lat := l }

def useAluC (p : AluC) : Use :=
  { head := p.head, a := some (p.a, wid p.ty.wide), b := some (p.b, wid p.ty.wide), dst := some (p.d, wid p.ty.wide),
    ccs := [p.k] }

def useAlu3 (p : Alu3) (dw aw bw cw : Bool) (l : Lat) : Use :=
  { head := p.head, a := some (p.a, wid aw), b := some (p.b, wid bw), c := some (p.c, wid cw),
    dst := some (p.d, wid dw), lat := l }

def useAlu1 (p : Alu1) (d32 : Bool) : Use :=
  { head := p.head, a := some (p.a, wid p.ty.wide), dst := some (p.d, wid (p.ty.wide && !d32)) }

def useFp1 (p : Fp1) (l : Lat) : Use :=
  { head := p.head, a := some (p.a, wid p.ty.wide), dst := some (p.d, wid p.ty.wide), lat := l }

def useFp2 (p : Fp2) (d32 b32 : Bool) (l : Lat) : Use :=
  { head := p.head, a := some (p.a, wid p.ty.wide), b := some (p.b, wid (p.ty.wide && !b32)),
    dst := some (p.d, wid (p.ty.wide && !d32)), lat := l }

def useFp3 (p : Fp3) (l : Lat) : Use :=
  { head := p.head, a := some (p.a, wid p.ty.wide), b := some (p.b, wid p.ty.wide), c := some (p.c, wid p.ty.wide),
    dst := some (p.d, wid p.ty.wide), lat := l }

def useBarV (p : BarV) (w : Bool) : Use :=
  { head := p.head, b := some (p.m.x, 1), c := some (p.c, wid w), recs := [p.m.rcd], lat := .sync }

def useBarD (p : BarD) : Use :=
  { head := p.head, b := some (p.m.x, 1), dst := some (p.d, 1), recs := [p.m.rcd], lat := .sync }

def useCpy (p : Cpy) (n : Nat) : Use :=
  { head := p.head, c := some (.v p.g, n), recs := [p.src, p.dst], lat := .sync }

/-- The record of a fabric command's local side; none when it is the scratchpad (R425). -/
def fabRecs (p : Fab) : List (BitVec 8) :=
  match p.a with
  | .s r => [r]
  | _ => []

def useFab (p : Fab) : Use :=
  { head := p.head, b := some (p.b, 1), c := some (p.c, 1), recs := fabRecs p, lat := .sync }

def useColl (p : Coll) (w : Bool) : Use :=
  { head := p.head, a := some (p.a, wid w), dst := some (p.d, 1), lat := .sync }

def useLaunch (p : Launch) (dw aw : Bool) : Use :=
  { head := p.head, a := some (p.a, wid aw), b := some (p.b, 1), dst := some (p.d, wid dw), lat := .sync }

def useMxacc (p : Mxacc) : Use := { head := p.head, c := some (.v p.g, 4), lat := .sync }

/-- What an instruction uses; none for a device event. -/
def useOf : Instr → Option Use
  | .nop p => some { head := { p.head with cond := 14, csel := 0 } }
  | .bra p => some { head := p.head }
  | .brx p => some { head := p.head, a := some (p.a, 2) }
  | .call p => some { head := p.head }
  | .callx p => some { head := p.head, a := some (p.a, 2) }
  | .ret p => some { head := p.head }
  | .exit p => some { head := p.head }
  | .demote p => some { head := p.head }
  | .yield p => some { head := p.head }
  | .trap p => some { head := p.head }
  | .tret p => some { head := p.head, a := some (.v 2, 2) }
  | .loop p => some { head := p.head, dst := some (⟨false, false, 0, p.reg⟩, 1) }
  | .bkpt p => some { head := p.head }
  | .iadd p => some (useAlu2 p false .fast)
  | .isub p => some (useAlu2 p false .fast)
  | .iadc p => some (useAluC p)
  | .isbc p => some (useAluC p)
  | .imul p => some (useAlu2 p false .mul)
  | .imulh p => some (useAlu2 p false .mul)
  | .imad p => some (useAlu3 p p.ty.wide p.ty.wide p.ty.wide p.ty.wide .mul)
  | .imadw p => some (useAlu3 p true false false true .mul)
  | .imin p => some (useAlu2 p false .fast)
  | .imax p => some (useAlu2 p false .fast)
  | .iabs p => some (useAlu1 p false)
  | .isad p => some (useAlu3 p false false false false .fast)
  | .icmp p => some { head := p.head, a := some (p.a, wid p.ty.wide), b := some (p.b, wid p.ty.wide), dst := some (p.d, wid p.ty.wide) }
  | .sel p => some { head := p.head, a := some (p.a, wid p.ty.wide), b := some (p.b, wid p.ty.wide), dst := some (p.d, wid p.ty.wide), ccs := [p.k] }
  | .iadd3 p => some (useAlu3 p p.ty.wide p.ty.wide p.ty.wide p.ty.wide .fast)
  | .idivQ p => some (useAlu2 p false .div)
  | .idivR p => some (useAlu2 p false .div)
  | .and p => some (useAlu2 p false .fast)
  | .or p => some (useAlu2 p false .fast)
  | .xor p => some (useAlu2 p false .fast)
  | .andn p => some (useAlu2 p false .fast)
  | .bool3 p => some { head := p.head, a := some (p.a, wid p.ty.wide), b := some (p.b, wid p.ty.wide), c := some (p.c, wid p.ty.wide), dst := some (p.d, wid p.ty.wide) }
  | .shl p => some (useAlu2 p true .fast)
  | .shr p => some (useAlu2 p true .fast)
  | .sar p => some (useAlu2 p true .fast)
  | .rotL p => some (useAlu2 p true .fast)
  | .rotR p => some (useAlu2 p true .fast)
  | .fshfL p => some (useAlu3 p p.ty.wide p.ty.wide p.ty.wide false .fast)
  | .fshfR p => some (useAlu3 p p.ty.wide p.ty.wide p.ty.wide false .fast)
  | .bfx p => some (useAlu2 p true .fast)
  | .bfi p => some (useAlu3 p p.ty.wide p.ty.wide false p.ty.wide .fast)
  | .popc p => some (useAlu1 p true)
  | .clz p => some (useAlu1 p true)
  | .brev p => some (useAlu1 p false)
  | .permb p => some { head := p.head, a := some (p.a, 1), b := some (p.tbl, 4), dst := some (p.d, 1) }
  | .mov p => some (useAlu1 p false)
  | .movi p => some { head := p.head, a := if p.wide then some (p.a, 1) else none, dst := some (p.d, wid p.wide) }
  | .sset p => some { head := p.head, a := some (p.a, 2), udst := some p.reg }
  | .ssetLo p => some { head := p.head, a := some (p.a, 1), udst := some p.reg }
  | .ssetHi p => some { head := p.head, a := some (p.a, 1), udst := some p.reg }
  | .sadd p => some { head := p.head, a := some (p.a, 2), b := some (p.b, 2), udst := some p.d.reg, ccs := if p.d.cce then [p.d.cct] else [] }
  | .sld p => some { head := p.head, b := some (p.x, 1), recs := [p.rcd], lat := .load, udst := some p.reg }
  | .rdsr p => some { head := p.head, dst := some (p.d, wid p.wide) }
  | .wrsr p => some { head := p.head, a := some (p.a, wid p.wide) }
  | .rand p => some { head := p.head, dst := some (p.d, wid p.wide) }
  | .electWv p => some { head := p.head, dst := some (p.d, 1), lat := .sync }
  | .electBlk p => some { head := p.head, dst := some (p.d, 1), lat := .sync }
  | .fadd p => some (useFp2 p false false (latOf p.ty))
  | .fsub p => some (useFp2 p false false (latOf p.ty))
  | .fmul p => some (useFp2 p false false (latOf p.ty))
  | .ffma p => some (useFp3 p (latOf p.ty))
  | .fmin p => some (useFp2 p false false (latOf p.ty))
  | .fmax p => some (useFp2 p false false (latOf p.ty))
  | .fcmp p => some { head := p.head, a := some (p.a, wid p.ty.wide), b := some (p.b, wid p.ty.wide), dst := some (p.d, 1), lat := (latOf p.ty) }
  | .frnd p => some (useFp1 p (latOf p.ty))
  | .fcls p => some (useFp2 p true true .fast)
  | .fscl p => some (useFp2 p false true (latOf p.ty))
  | .hadd2 p => some (useFp2 p false false .fp32)
  | .hmul2 p => some (useFp2 p false false .fp32)
  | .hfma2 p => some (useFp3 p .fp32)
  | .hmnmx2 p => some { head := p.head, a := some (p.a, 1), b := some (p.b, 1), dst := some (p.d, 1), lat := .fp32 }
  | .hdot2 p => some (useFp3 p .fp32)
  | .cvt p => some { head := p.head, a := some (p.a, wid p.sty.wide), dst := some (p.d, wid p.dty.wide), lat := .fp32 }
  | .cvtpP p => some { head := p.head, a := some (p.a, 1), c := some (p.q, 1), dst := some (p.d, 1), lat := .fp32 }
  | .cvtpU p => some { head := p.head, a := some (p.q, 1), dst := some (p.d, 1), lat := .fp32 }
  | .qscale p => some { head := p.head, a := some (p.a, 1), dst := some (p.d, 1), lat := .quant }
  | .qnt p => some { head := p.head, a := some (p.a, 1), b := some (p.s, 1), c := some (p.q, 1), dst := some (p.d, 1), lat := .quant }
  | .dqnt p => some { head := p.head, a := some (p.q, 1), b := some (p.s, 1), dst := some (p.d, 1), lat := .quant }
  | .rcp p => some (useFp1 p .sfu)
  | .rsq p => some (useFp1 p .sfu)
  | .sqrt p => some (useFp1 p .sfu)
  | .exp2 p => some (useFp1 p .sfu)
  | .log2 p => some (useFp1 p .sfu)
  | .sinpi p => some (useFp1 p .sfu)
  | .cospi p => some (useFp1 p .sfu)
  | .tanh p => some (useFp1 p .sfu)
  | .xshf p => some { head := p.head, a := some (p.a, wid p.wide), b := some (p.b, 1), dst := some (p.d, wid p.wide), lat := .cross }
  | .xred p => some { head := p.head, a := some (p.a, wid p.ty.wide), dst := some (p.d, wid p.ty.wide), lat := .cross }
  | .xscan p => some { head := p.head, a := some (p.a, wid p.ty.wide), dst := some (p.d, wid p.ty.wide), lat := .cross }
  | .xvote p => some { head := p.head, a := some (p.a, 1), dst := some (p.d, 1), lat := .cross }
  | .xcmx p => some { head := p.head, a := some (p.a, 1), b := some (p.b, 1), dst := some (p.d, 2), lat := .cross }
  | .meet p => some { head := p.head, lat := .cross }
  | .ld p => some { head := p.head, b := some (p.m.x, 1), dst := some (p.d, wid p.ty.wide), recs := [p.m.rcd], lat := .load }
  | .st p => some { head := p.head, b := some (p.m.x, 1), c := some (p.c, wid p.ty.wide), recs := [p.m.rcd], quietDem := true }
  | .atom p => some { head := p.head, b := some (p.m.x, 1), c := some (p.c, wid p.ty.wide), dst := some (p.d, wid p.ty.wide), recs := [p.m.rcd], lat := .load }
  | .red p => some { head := p.head, b := some (p.m.x, 1), c := some (p.c, wid p.ty.wide), recs := [p.m.rcd], quietDem := true }
  | .cas p => some { head := p.head, b := some (p.m.x, 1), c := some (.v p.g, 2 * wid p.ty.wide), dst := some (p.d, wid p.ty.wide), recs := [p.m.rcd], lat := .load }
  | .atfx p => some { head := p.head, b := some (p.m.x, 1), c := some (p.c, wid p.ty.wide), recs := [p.m.rcd], quietDem := true }
  | .ldfx p => some { head := p.head, b := some (p.m.x, 1), dst := some (p.d, wid p.ty.wide), recs := [p.m.rcd], lat := .load }
  | .pref p => some { head := p.head, b := some (p.m.x, 1), recs := [p.m.rcd], quiet := true, tame := true }
  | .barInit p => some (useBarV p true)
  | .barExpect p => some (useBarV p false)
  | .barArrive p => some (useBarD p)
  | .barWait p => some (useBarV p false)
  | .barArrwait p => some (useBarD p)
  | .phaseAcq p => some { head := p.head, lat := .sync, tame := true }
  | .phaseRel p => some { head := p.head, lat := .sync, tame := true }
  | .phaseAr p => some { head := p.head, lat := .sync, tame := true }
  | .fence p => some { head := p.head, lat := .sync, tame := true }
  | .waita p => some { head := p.head, b := some (p.m.x, 1), dst := some (p.d, 1), recs := [p.m.rcd], lat := .sync }
  | .cpyLin p => some (useCpy p 4)
  | .cpyGath p => some (useCpy p 4)
  | .cpytG2s p => some (useCpy p 6)
  | .cpytS2g p => some (useCpy p 6)
  | .put p => some (useFab p)
  | .puts p => some (useFab p)
  | .get p => some (useFab p)
  | .collStep p => some (useColl p true)
  | .collSetup p => some (useColl p true)
  | .collFree p => some (useColl p false)
  | .launch p => some (useLaunch p false true)
  | .nsigArm p => some (useLaunch p false false)
  | .nsigDec p => some (useColl p false)
  | .nsigCan p => some (useColl p false)
  | .nsigQry p => some (useLaunch p true false)
  | .mxop p => some { head := p.head, a := some (p.a, 1), recs := (match p.b with | .s r => [r] | _ => []), lat := .sync }
  | .mxldb p => some { head := p.head, c := some (.v p.g, 4), recs := [p.src], lat := .sync }
  | .mxaccZero p => some (useMxacc p)
  | .mxaccLd p => some (useMxacc p)
  | .mxaccSt p => some (useMxacc p)
  | .mxaccFree p => some (useMxacc p)
  | .mxstat p => some { head := p.head, dst := some (p.d, 1), lat := .sync }
  | .mxstatClr p => some (useColl p false)
  | _ => none

/-! ## The instruction and its thread while it executes -/

/-- One lane of a shed: the thread and its block as they stood when the instruction issued, and the lane's latches. -/
structure Ctx where
  id : ThreadId
  blk : Block
  th : Thread
  ln : LaneSt
  deriving DecidableEq, Repr

/-- Registers of a source, frame-relative: first and count. -/
def srcRegs : Option (Src × Nat) → List (Nat × Nat)
  | some (.v r, n) => [(r.toNat, n)]
  | _ => []

/-- The vector registers that an instruction reads. -/
def Use.reads (u : Use) : List (Nat × Nat) := srcRegs u.a ++ srcRegs u.b ++ srcRegs u.c

/-- The vector registers that an instruction writes. -/
def Use.writes (u : Use) : List (Nat × Nat) :=
  match u.dst with
  | some (d, n) => if d.nwb then [] else [(d.reg.toNat, n)]
  | none => []

/-- Some operand lies at or beyond the frame size (R151). -/
def Use.beyondFrame (u : Use) (frame : Nat) : Bool :=
  (u.reads ++ u.writes).any (fun r => decide (frame < r.1 + r.2))

/-- The latches that an instruction names. -/
def Use.latches (u : Use) : List (BitVec 2) :=
  [u.a, u.b, u.c].filterMap (fun s => match s with | some (.b l, _) => some l | _ => none)

/-- The frame-relative registers that the last-use marks free (R154, R318). -/
def Use.marked (u : Use) : List (Nat × Nat) :=
  (if u.head.lua then srcRegs u.a else []) ++ (if u.head.lub then srcRegs u.b else [])
    ++ (if u.head.luc then srcRegs u.c else [])

/-- The value of a special source (R312); `wide` selects the 64-bit read. -/
def Ctx.special (c : Ctx) (s : State) (imm : Word) (wide : Bool) : Special → Nat
  | .zero => 0
  | .imm => if wide then lowBits 64 (signedOf 32 imm.toNat) else imm.toNat
  | .immhi => imm.toNat * 2 ^ 32
  | .immz => imm.toNat
  | .lane => laneOf c.id.tid
  | .weave => weaveOf c.id.tid
  | .tid => c.id.tid
  | .blk => c.blk.rec_.block
  | .rank => c.blk.rec_.rank
  | .lanes => Config.lanes
  | .nthreads => c.blk.rec_.threads
  | .gsize => c.blk.rec_.gsize
  | .gridx => grid s (·.gridx)
  | .gridy => grid s (·.gridy)
  | .gridz => grid s (·.gridz)
  | .part => partOf c.id.tid
  | .slot => c.blk.slotOf c.id.tid
  | .core => c.id.core
  | .ctr => c.blk.rec_.contract
  | .time => if wide then s.time else s.time % 2 ^ 32
where
  grid (s : State) (f : Launched → Nat) : Nat :=
    match (s.node c.blk.rec_.node).launch with
    | some l => f l
    | none => 0

/-- `Src` of R339: the operand at 32 or 64 bits with its poison (R286, R311). -/
def Ctx.src (c : Ctx) (s : State) (imm : Word) (wide : Bool) : Src → UVal
  | .v r =>
    let lo := c.th.reg (c.th.fbase + r.toNat)
    if wide then
      let hi := c.th.reg (c.th.fbase + r.toNat + 1)
      ⟨hi.val ++ lo.val, lo.poison || hi.poison⟩
    else ⟨lo.val.zeroExtend 64, lo.poison⟩
  | .s r =>
    let u := c.blk.uni r.toNat
    if wide then u else ⟨BitVec.ofNat 64 (u.val.toNat % 2 ^ 32), u.poison⟩
  | .b l =>
    let x := c.ln.latch l
    ⟨if wide then x.val else BitVec.ofNat 64 (x.val.toNat % 2 ^ 32), x.poison⟩
  | .sp k =>
    let x := c.special s imm wide k
    ⟨BitVec.ofNat 64 (if wide then x else x % 2 ^ 32), false⟩

/-- The 32-bit values of a group of consecutive vector registers (R417). -/
def Ctx.group (c : Ctx) (first n : Nat) : List UVal :=
  (List.range n).map (fun i =>
    let r := c.th.reg (c.th.fbase + first + i)
    ⟨r.val.zeroExtend 64, r.poison⟩)

/-- The four words of a record (R177), and whether one of them is poisoned. -/
def Block.record4 (b : Block) (r : BitVec 8) : RecWords × Bool :=
  let w (i : Nat) := b.uni (r.toNat + i)
  (⟨(w 0).val, (w 1).val, (w 2).val, (w 3).val⟩, (w 0).poison || (w 1).poison || (w 2).poison || (w 3).poison)

end Sys2Proof.Machine
end

