-- ==== Sys2Proof/Machine/Float.lean ====
section
/-! DEFINITION. Number formats, rounding, flags, scale codes and fixed-point cells (R254 to R273, R377 to R381). -/

namespace Sys2Proof.Machine

/-! ## Flags of `FPSTAT` (R260) -/

def fNV : BitVec 5 := 16
def fDZ : BitVec 5 := 8
def fOF : BitVec 5 := 4
def fUF : BitVec 5 := 2
def fNX : BitVec 5 := 1

/-- A flag that is raised or not. -/
def flagIf (b : Bool) (f : BitVec 5) : BitVec 5 := if b then f else 0

/-! ## Formats (R254) -/

/-- A format: bits of exponent and fraction, bias, and the greatest exponent of a finite value. -/
structure Fmt where
  ebits : Nat
  fbits : Nat
  bias : Int
  top : Int
  deriving DecidableEq, Repr

def F64 : Fmt := ⟨11, 52, 1023, 1023⟩
def F32 : Fmt := ⟨8, 23, 127, 127⟩
def F16 : Fmt := ⟨5, 10, 15, 15⟩
def BF16 : Fmt := ⟨8, 7, 127, 127⟩
/-- F4 has no infinity and no NaN: its greatest exponent field is an ordinary one (R265). -/
def F4 : Fmt := ⟨2, 1, 2, 1⟩

def Fmt.sign (f : Fmt) (neg : Bool) : Nat := if neg then 2 ^ (f.ebits + f.fbits) else 0
/-- The exponent of the smallest normal number. -/
def Fmt.emin (f : Fmt) : Int := 1 - f.bias
def Fmt.infBits (f : Fmt) (neg : Bool) : Nat := f.sign neg + (2 ^ f.ebits - 1) * 2 ^ f.fbits
def Fmt.maxBits (f : Fmt) (neg : Bool) : Nat := f.infBits neg - 1
/-- The canonical quiet NaN (R255). -/
def Fmt.nanBits (f : Fmt) : Nat := f.infBits false + 2 ^ (f.fbits - 1)

/-- The format of a floating type. -/
def tyFmt : Ty → Fmt
  | .f16 => F16
  | .bf16 => BF16
  | .f64 => F64
  | .f4 => F4
  | _ => F32

/-! ## Exact values -/

/-- A NaN, an infinity, or the exact value (-1)^neg * m * 2^e; a zero keeps its sign. -/
inductive Num where
  | nan
  | inf (neg : Bool)
  | fin (neg : Bool) (m : Nat) (e : Int)
  deriving DecidableEq, Repr

def Num.isNaN : Num → Bool
  | .nan => true
  | _ => false
def Num.isInf : Num → Bool
  | .inf _ => true
  | _ => false
def Num.isZero : Num → Bool
  | .fin _ m _ => m == 0
  | _ => false
def Num.neg? : Num → Bool
  | .nan => false
  | .inf n => n
  | .fin n _ _ => n
def Num.negate : Num → Num
  | .nan => .nan
  | .inf n => .inf (!n)
  | .fin n m e => .fin (!n) m e
def Num.ofInt (x : Int) : Num := .fin (decide (x < 0)) x.natAbs 0

/-- The value of bits in a format (R254); a subnormal operand is flushed where `flush` says so (R259). -/
def Fmt.read (f : Fmt) (flush : Bool) (x : Nat) : Num :=
  let s := bitOf x (f.ebits + f.fbits)
  let ex := field x f.fbits f.ebits
  let fr := field x 0 f.fbits
  if ex == 2 ^ f.ebits - 1 then (if fr == 0 then .inf s else .nan)
  else if ex == 0 then .fin s (if flush then 0 else fr) (f.emin - f.fbits)
  else .fin s (2 ^ f.fbits + fr) ((ex : Int) - f.bias - f.fbits)

/-- The value of an F4 code (R265). -/
def readF4 (x : Nat) : Num :=
  let ex := field x 1 2
  let fr := field x 0 1
  if ex == 0 then .fin (bitOf x 3 && fr != 0) fr (-2) else .fin (bitOf x 3) (2 + fr) ((ex : Int) - 3)

/-- The value of a TR code, and NV for the reserved one (R267). -/
def readTR (x : Nat) : Num × BitVec 5 :=
  match field x 0 2 with
  | 1 => (.fin false 1 0, 0)
  | 3 => (.fin true 1 0, 0)
  | 2 => (.fin false 0 0, fNV)
  | _ => (.fin false 0 0, 0)

/-! ## Rounding (R256 to R259, R261) -/

/-- m * 2^e rounded to a multiple of 2^q: the multiple and whether it is inexact. -/
def roundAt (md : Rnd) (neg : Bool) (m : Nat) (e q : Int) : Nat × Bool :=
  if q ≤ e then (m * 2 ^ (e - q).toNat, false)
  else
    let k := (q - e).toNat
    let hi := m / 2 ^ k
    let rem := m % 2 ^ k
    let up := match md with
      | .rtz => false
      | .rup => !neg && rem != 0
      | .rdn => neg && rem != 0
      | _ => decide (2 ^ k < 2 * rem) || (2 * rem == 2 ^ k && hi % 2 == 1)
    (hi + b2n up, rem != 0)

/-- The result of an overflow (R257). -/
def Fmt.overflow (f : Fmt) (md : Rnd) (neg : Bool) : Nat :=
  match md with
  | .rtz => f.maxBits neg
  | .rup => if neg then f.maxBits neg else f.infBits neg
  | .rdn => if neg then f.infBits neg else f.maxBits neg
  | _ => f.infBits neg

/-- `Round` (R339) of a non-zero finite value, `flush` being VSUB. -/
def Fmt.roundFin (f : Fmt) (md : Rnd) (flush neg : Bool) (m : Nat) (e : Int) : Nat × BitVec 5 :=
  let q0 := e + Nat.log2 m - f.fbits
  let lead := q0 + Nat.log2 (roundAt md neg m e q0).1
  if f.top < lead then (f.overflow md neg, fOF ||| fNX)
  else
    let qmin := f.emin - f.fbits
    let q := if q0 < qmin then qmin else q0
    let r := roundAt md neg m e q
    if flush && decide (r.1 < 2 ^ f.fbits) then (f.sign neg, fUF ||| fNX)
    else (f.sign neg + (q - qmin).toNat * 2 ^ f.fbits + r.1, flagIf r.2 fNX ||| flagIf (r.2 && decide (lead < f.emin)) fUF)

/-- `Round` (R339): a value to the bits of a format and the flags it raises. -/
def Fmt.round (f : Fmt) (md : Rnd) (flush : Bool) : Num → Nat × BitVec 5
  | .nan => (f.nanBits, 0)
  | .inf n => (f.infBits n, 0)
  | .fin n m e => if m = 0 then (f.sign n, 0) else f.roundFin md flush n m e

/-! ## Exact sums and products (R258) -/

/-- The sum of two values, exact; infinities of opposite sign are invalid. -/
def Num.add (md : Rnd) : Num → Num → Num × BitVec 5
  | .nan, _ => (.nan, 0)
  | _, .nan => (.nan, 0)
  | .inf a, .inf b => if a == b then (.inf a, 0) else (.nan, fNV)
  | .inf a, _ => (.inf a, 0)
  | _, .inf b => (.inf b, 0)
  | .fin s m e, .fin t n k =>
    let lo := if e < k then e else k
    let x : Int := (m * 2 ^ (e - lo).toNat : Nat)
    let y : Int := (n * 2 ^ (k - lo).toNat : Nat)
    let z := (if s then -x else x) + (if t then -y else y)
    (.fin (if z = 0 then (if m == 0 && n == 0 && s && t then true else md == .rdn) else decide (z < 0)) z.natAbs lo, 0)

/-- The product of two values, exact; 0 times infinity is invalid (R261). -/
def Num.mul (a b : Num) : Num × BitVec 5 :=
  if (a.isZero && b.isInf) || (a.isInf && b.isZero) then (.nan, fNV)
  else match a, b with
    | .nan, _ => (.nan, 0)
    | _, .nan => (.nan, 0)
    | .fin s m e, .fin t n k => (.fin (s != t) (m * n) (e + k), 0)
    | x, y => (.inf (x.neg? != y.neg?), 0)

/-- A rounded sum and a rounded product (R377). -/
def Fmt.addR (f : Fmt) (md : Rnd) (flush : Bool) (a b : Num) : Nat × BitVec 5 :=
  let x := a.add md b
  let r := f.round md flush x.1
  (r.1, x.2 ||| r.2)
def Fmt.mulR (f : Fmt) (md : Rnd) (flush : Bool) (a b : Num) : Nat × BitVec 5 :=
  let x := a.mul b
  let r := f.round md flush x.1
  (r.1, x.2 ||| r.2)

/-- Multiply-add, fused or in two roundings (R276, R377). -/
def Fmt.fmaR (f : Fmt) (md : Rnd) (flush unfused : Bool) (a b c : Num) : Nat × BitVec 5 :=
  let p := a.mul b
  if p.2 != 0 then (f.nanBits, fNV)
  else if p.1.isNaN || c.isNaN then (f.nanBits, 0)
  else if unfused then
    let p' := f.round md flush p.1
    let r := f.addR md flush (f.read false p'.1) c
    (r.1, p'.2 ||| r.2)
  else f.addR md flush p.1 c

/-! ## Comparison (R378, R379) -/

/-- The order of two values that are no NaN; zeros are equal. -/
def Num.cmp (a b : Num) : Ordering :=
  match a, b with
  | .inf s, .inf t => if s == t then .eq else if s then .lt else .gt
  | .inf s, _ => if s then .lt else .gt
  | _, .inf t => if t then .gt else .lt
  | .fin s m e, .fin t n k =>
    let lo := if e < k then e else k
    let x : Int := (m * 2 ^ (e - lo).toNat : Nat)
    let y : Int := (n * 2 ^ (k - lo).toNat : Nat)
    compare (if s then -x else x) (if t then -y else y)
  | _, _ => .eq

/-- The bits of an operand as read: a subnormal that is flushed is a zero. -/
def Fmt.asRead (f : Fmt) (flush : Bool) (x : Nat) : Nat :=
  if flush && field x f.fbits f.ebits == 0 then f.sign (bitOf x (f.ebits + f.fbits)) else x % 2 ^ (1 + f.ebits + f.fbits)

/-- `FMIN` and `FMAX` (R378). -/
def Fmt.minmax (f : Fmt) (flush max : Bool) (x y : Nat) : Nat :=
  let a := f.read flush x
  let b := f.read flush y
  if a.isNaN && b.isNaN then f.nanBits
  else if a.isNaN then f.asRead flush y
  else if b.isNaN then f.asRead flush x
  else
    let o := match a.cmp b with
      | .eq => if a.neg? == b.neg? then Ordering.eq else if a.neg? then .lt else .gt
      | r => r
    let first := if max then o != .lt else o != .gt
    if first then f.asRead flush x else f.asRead flush y

/-- The flags of a comparison (R379). -/
def Fmt.relation (f : Fmt) (flush : Bool) (x y : Nat) : Flags :=
  let a := f.read flush x
  let b := f.read flush y
  if a.isNaN || b.isNaN then ⟨false, false, true, true⟩
  else match a.cmp b with
    | .lt => ⟨true, false, false, false⟩
    | .eq => ⟨false, true, true, false⟩
    | .gt => ⟨false, false, true, false⟩

/-- Whether a comparison holds, from its flags (R379). -/
def fcmpHolds (c : FCmp) (r : Flags) : Bool :=
  match c with
  | .eq => r.z
  | .ne => !r.z
  | .lt => r.n
  | .le => r.n || r.z
  | .gt => !r.n && !r.z && !r.v
  | .ge => !r.n && !r.v
  | .un => r.v

/-! ## Rounding to integers, scaling, classes (R380, R381) -/

/-- `FRND` (R380). -/
def Fmt.integral (f : Fmt) (md : Rnd) (flush : Bool) (x : Nat) : Nat × BitVec 5 :=
  match f.read flush x with
  | .fin n m e =>
    if m = 0 then (f.sign n, 0)
    else
      let r := roundAt md n m e 0
      ((f.round .rne false (.fin n r.1 0)).1, flagIf r.2 fNX)
  | v => f.round md flush v

/-- `FSCL` (R380); a count beyond 8,192 rounds as 8,192 does in every format. -/
def Fmt.scale (f : Fmt) (md : Rnd) (flush : Bool) (x : Nat) (n : Int) : Nat × BitVec 5 :=
  match f.read flush x with
  | .fin s m e => f.round md flush (.fin s m (e + clampInt n (-8192) 8192))
  | v => f.round md flush v

/-- The class bit of raw bits (R381). -/
def Fmt.cls (f : Fmt) (x : Nat) : Nat :=
  let s := bitOf x (f.ebits + f.fbits)
  let ex := field x f.fbits f.ebits
  let fr := field x 0 f.fbits
  if ex == 2 ^ f.ebits - 1 then
    (if fr == 0 then (if s then 0 else 7) else if bitOf fr (f.fbits - 1) then 9 else 8)
  else if ex == 0 then (if fr == 0 then (if s then 3 else 4) else if s then 2 else 5)
  else if s then 1 else 6

/-! ## Conversions (R262, R266, R267) -/

/-- To an integer range: 0 and NV for a NaN, the limit and NV outside the range. -/
def toInteger (md : Rnd) (lo hi : Int) : Num → Int × BitVec 5
  | .nan => (0, fNV)
  | .inf n => (if n then lo else hi, fNV)
  | .fin n m e =>
    let r := roundAt md n m e 0
    let v : Int := if n then -(r.1 : Int) else r.1
    if v < lo then (lo, fNV) else if hi < v then (hi, fNV) else (v, flagIf r.2 fNX)

/-- To F4 (R266). -/
def toF4 (md : Rnd) : Num → Nat × BitVec 5
  | .nan => (0, fNV)
  | .inf n => (F4.sign n + 7, fOF ||| fNX)
  | .fin n m e =>
    if m = 0 then (0, 0)
    else
      let r := F4.roundFin md false n m e
      if r.2 &&& fOF != 0 then (F4.sign n + 7, fOF ||| fNX)
      else if r.1 % 8 = 0 then (0, fUF ||| fNX)
      else (r.1, r.2 &&& fNX)

/-- To TR (R267). -/
def toTR (md : Rnd) : Num → Nat × BitVec 5
  | .nan => (0, fNV)
  | .inf n => (if n then 3 else 1, fNX)
  | .fin n m e =>
    let r := roundAt md n m e 0
    (if r.1 = 0 then 0 else if n then 3 else 1, flagIf (r.2 || decide (1 < r.1)) fNX)

/-- The limits of an integer type of `w` bits (R263). -/
def intLo (signed : Bool) (w : Nat) : Int := if signed then -(2 ^ (w - 1) : Nat) else 0
def intHi (signed : Bool) (w : Nat) : Int := if signed then (2 ^ (w - 1) : Nat) - 1 else (2 ^ w : Nat) - 1

/-- Width and signedness of an integer type. -/
def tyInt : Ty → Option (Nat × Bool)
  | .i8 => some (8, true)
  | .i16 => some (16, true)
  | .i32 => some (32, true)
  | .i64 => some (64, true)
  | .n8 => some (8, false)
  | .n16 => some (16, false)
  | .n32 => some (32, false)
  | .n64 => some (64, false)
  | _ => none

/-- The value of a source of a type (R386). -/
def readNum (t : Ty) (flush : Bool) (x : Nat) : Num × BitVec 5 :=
  match tyInt t with
  | some (w, true) => (Num.ofInt (signedOf w x), 0)
  | some (w, false) => (Num.ofInt (x % 2 ^ w : Nat), 0)
  | none => match t with
    | .f4 => (readF4 x, 0)
    | .tr => readTR x
    | t => ((tyFmt t).read flush x, 0)

/-- An exact zero from a source that has no zero of sign −: an integer, F4 or TR. It takes R258's sign; a floating source keeps the sign
that is part of its exact value (R262; assumption 74). -/
def convertZero (t : Ty) (md : Rnd) (v : Num) : Num :=
  match t, v with
  | .f16, v => v
  | .bf16, v => v
  | .f32, v => v
  | .f64, v => v
  | _, .fin _ 0 e => .fin (md == .rdn) 0 e
  | _, v => v

/-- A value converted to a type; the bits have the type's width. -/
def convertNum (t : Ty) (md : Rnd) (flush : Bool) (v : Num) : Nat × BitVec 5 :=
  match tyInt t with
  | some (w, sg) =>
    let r := toInteger md (intLo sg w) (intHi sg w) v
    (lowBits w r.1, r.2)
  | none => match t with
    | .f4 => toF4 md v
    | .tr => toTR md v
    | t => (tyFmt t).round md flush v

/-- Element width of an element format, and how it is read and converted (R384). -/
def efWidth : EF → Nat
  | .i8 => 8
  | .n8 => 8
  | .nib => 4
  | .nibn => 4
  | .f4 => 4
  | .tr => 2
  | .f16 => 16
  | .bf16 => 16

def efRead (t : EF) (flush : Bool) (x : Nat) : Num × BitVec 5 :=
  match t with
  | .i8 => (Num.ofInt (signedOf 8 x), 0)
  | .n8 => (Num.ofInt (x % 256 : Nat), 0)
  | .nib => (Num.ofInt (signedOf 4 x), 0)
  | .nibn => (Num.ofInt (x % 16 : Nat), 0)
  | .f4 => (readF4 x, 0)
  | .tr => readTR x
  | .f16 => (F16.read flush x, 0)
  | .bf16 => (BF16.read flush x, 0)

/-- An integer element format's conversion. -/
def toElem (w : Nat) (sg : Bool) (md : Rnd) (v : Num) : Nat × BitVec 5 :=
  let r := toInteger md (intLo sg w) (intHi sg w) v
  (lowBits w r.1, r.2)

def efConvert (t : EF) (md : Rnd) (flush : Bool) (v : Num) : Nat × BitVec 5 :=
  match t with
  | .i8 => toElem 8 true md v
  | .n8 => toElem 8 false md v
  | .nib => toElem 4 true md v
  | .nibn => toElem 4 false md v
  | .f4 => toF4 md v
  | .tr => toTR md v
  | .f16 => F16.round md flush v
  | .bf16 => BF16.round md flush v

/-! ## Scale codes (R268, R269) -/

/-- `ScaleValue` for codes 1 to 254: significand and exponent. -/
def scaleValue (c : Nat) : Nat × Int :=
  let m := match c % 4 with
    | 0 => 0x800000
    | 1 => 0x9837F0
    | 2 => 0xB504F3
    | _ => 0xD744FD
  (m, ((c / 4 : Nat) : Int) - 32 - 23)

/-- `qmax` of a target (R269, R388). -/
def efQmax : EF → Nat
  | .i8 => 127
  | .nib => 7
  | .f4 => 3
  | _ => 1

/-- `QScaleCode` (R269): the code, C and V. -/
def qscaleCode (v : Num) (qmax : Nat) : Nat × Bool × Bool :=
  match v with
  | .nan => (255, false, false)
  | .inf _ => (255, false, false)
  | .fin _ m e =>
    let x : Num := .fin false m e
    if m = 0 then (0, false, false)
    else if x.cmp (.fin false qmax (-32)) != .gt then (1, true, false)
    else match ((List.range 254).map (· + 1)).find? (fun c => x.cmp (.fin false ((scaleValue c).1 * qmax) (scaleValue c).2) != .gt) with
      | some c => (c, false, false)
      | none => (254, false, true)

/-- `x / ScaleValue(s)` (R389); an inexact quotient carries a last bit far below every element format. -/
def divScale (v : Num) (s : Nat) : Num :=
  match v with
  | .fin n m e =>
    let d := scaleValue s
    let q := m * 2 ^ 200 / d.1
    let r := m * 2 ^ 200 % d.1
    .fin n (2 * q + b2n (r != 0)) (e - d.2 - 201)
  | w => w

/-! ## Fixed-point cells (R270 to R273) -/

/-- The limits of VALUE. -/
def cellMax : Int := (2 ^ 126 : Nat) - 1
def cellMin : Int := -(2 ^ 126 : Nat)

/-- `CellAdd` (R271): the cell and whether the addition saturated. -/
def cellAdd (cell : Nat) (x : Num) : Nat × Bool :=
  match x with
  | .fin n m e =>
    let q : Int := (roundAt .rtz false m e (-64)).1
    let s := signedOf 127 cell + (if n then -q else q)
    (lowBits 127 (clampInt s cellMin cellMax) + b2n (bitOf cell 127) * 2 ^ 127, decide (cellMax < s) || decide (s < cellMin))
  | _ => (cell % 2 ^ 127 + 2 ^ 127, false)

/-- The value that `LDFX` reads (R273). -/
def cellRead (f : Fmt) (cell : Nat) : Nat × BitVec 5 :=
  if bitOf cell 127 then (f.nanBits, fNV)
  else
    let v := signedOf 127 cell
    f.round .rne false (.fin (decide (v < 0)) v.natAbs (-64))

end Sys2Proof.Machine
end

