-- ==== Sys2Proof/Machine/Special.lean ====
section
/-! DEFINITION. The special functions in FP32 (R278, R391 to R393) and the dot-product procedure (R277). -/

namespace Sys2Proof.Machine

/-! ## Fixed-point evaluation

An irrational value is computed to 320 fraction bits and handed on with a last bit set, far below any rounding
position, that stands for the bits beyond. Every exact case is answered before. -/

/-- Fraction bits. -/
def fxBits : Nat := 320
def fxOne : Nat := 2 ^ fxBits
def fxMul (a b : Nat) : Nat := a * b / 2 ^ fxBits
/-- pi and the natural logarithm of 2. -/
def fxPi : Nat := 0x3243f6a8885a308d313198a2e03707344a4093822299f31d0082efa98ec4e6c89452821e638d01377
def fxLn2 : Nat := 0xb17217f7d1cf79abc9e3b39803f2f6af40f343267298b62d8a0d175b8baafa2be7b876206debac98

/-- The value m * 2^e to 320 fraction bits. -/
def fxOf (m : Nat) (e : Int) : Nat := (roundAt .rtz false m e (-320)).1

/-- A value with 320 fraction bits and more beyond. -/
def sticky (neg : Bool) (v : Nat) : Num := .fin neg (2 * v + 1) (-321)

/-- The integer square root of `n`, found bit by bit. -/
def sqrtBits (n : Nat) : Nat → Nat → Nat
  | 0, r => r
  | k + 1, r => if (r + 2 ^ k) * (r + 2 ^ k) ≤ n then sqrtBits n k (r + 2 ^ k) else sqrtBits n k r

/-- The exponential of `t` below 1: the sum of `t^k / k!` from term `k` on. -/
def expSum (t : Nat) : Nat → Nat → Nat → Nat
  | 0, _, _ => 0
  | n + 1, k, term => term + expSum t n (k + 1) (fxMul term t / (k + 1))

def fxExp (t : Nat) : Nat := expSum t 80 0 fxOne

/-- `n` squarings. -/
def fxSquare : Nat → Nat → Nat
  | 0, x => x
  | n + 1, x => fxSquare n (fxMul x x)

/-- The alternating sums of sine and cosine: the terms from `term` on, each `t^2 / ((k + 1) (k + 2))` of the one before. -/
def trigSum (t2 : Nat) : Nat → Nat → Nat → Int
  | 0, _, _ => 0
  | n + 1, k, term => (term : Int) - trigSum t2 n (k + 2) (fxMul term t2 / ((k + 1) * (k + 2)))

/-- `atanh z` as the sum of `z^(2k+1) / (2k+1)`. -/
def atanhSum (z2 : Nat) : Nat → Nat → Nat → Nat
  | 0, _, _ => 0
  | n + 1, k, p => p / k + atanhSum z2 n (k + 2) (fxMul p z2)

/-- sin(pi r) for 0 < r = m * 2^e, at most 1/4; below 2^-60 it is pi r. -/
def sinPi (m : Nat) (e : Int) : Num :=
  if e + Nat.log2 m < -60 then .fin false (2 * (fxPi * m) + 1) (e - 321)
  else
    let t := fxMul fxPi (fxOf m e)
    sticky false (trigSum (fxMul t t) 40 1 t).toNat

/-- cos(pi r) for 0 < r = m * 2^e, at most 1/4; below 2^-60 it is just below 1. -/
def cosPi (m : Nat) (e : Int) : Num :=
  if e + Nat.log2 m < -60 then sticky false (fxOne - 1)
  else
    let t := fxMul fxPi (fxOf m e)
    sticky false (trigSum (fxMul t t) 40 0 fxOne).toNat

/-- m * 2^e modulo 2, in units of 2^min(e,0): the residue and the units of 1. -/
def modTwo (m : Nat) (e : Int) : Nat × Nat :=
  if 0 ≤ e then (m * 2 ^ (if e < 1 then 0 else 1) % 2, 1) else (m % 2 ^ (1 - e).toNat, 2 ^ (-e).toNat)

/-! ## The functions of a finite, non-zero operand (R391 to R393) -/

/-- 1 / x. -/
def rcpOf (neg : Bool) (m : Nat) (e : Int) : Num :=
  .fin neg (2 * (2 ^ 200 / m) + b2n (2 ^ 200 % m != 0)) (-e - 201)

/-- x as an even power of two times a significand. -/
def evenExp (m : Nat) (e : Int) : Nat × Int := if e % 2 = 0 then (m, e) else (2 * m, e - 1)

def sqrtOf (m : Nat) (e : Int) : Num :=
  let x := evenExp m e
  let n := x.1 * 2 ^ 200
  let r := sqrtBits n 115 0
  .fin false (2 * r + b2n (r * r != n)) (x.2 / 2 - 101)

def rsqOf (m : Nat) (e : Int) : Num :=
  let x := evenExp m e
  let r := sqrtBits (2 ^ 200 / x.1) 101 0
  .fin false (2 * r + b2n (r * r * x.1 != 2 ^ 200)) (-(x.2 / 2) - 101)

/-- 2^x: the integer part scales, the fraction is exp(f ln 2). Beyond 2^12 in magnitude the result overflows or
underflows alike. -/
def exp2Of (neg : Bool) (m : Nat) (e : Int) : Num :=
  if 12 ≤ e + Nat.log2 m then .fin false 3 (if neg then -4096 else 4096)
  else
    let v := fxOf m e
    let n : Int := (v / fxOne : Nat)
    let f := v % fxOne
    if f = 0 then .fin false 1 (if neg then -n else n)
    else
      let i := if neg then -n - 1 else n
      let g := if neg then fxOne - f else f
      .fin false (2 * fxExp (fxMul g fxLn2) + 1) (i - 321)

/-- log2 x: the exponent plus the logarithm of the significand y in [1, 2), 2 atanh((y-1)/(y+1)) / ln 2. -/
def log2Of (m : Nat) (e : Int) : Num :=
  let l := Nat.log2 m
  let n : Int := e + l
  if m = 2 ^ l then Num.ofInt n
  else
    let y := m * 2 ^ (fxBits - l)
    let z := (y - fxOne) * fxOne / (y + fxOne)
    let frac := 2 * atanhSum (fxMul z z) 110 1 z * fxOne / fxLn2
    let v : Int := n * (fxOne : Nat) + frac
    sticky (decide (v < 0)) v.natAbs

/-- sin(pi x): an integer gives a zero with the sign of x, and a half exactly 1. -/
def sinpiOf (neg : Bool) (m : Nat) (e : Int) : Num :=
  let r := modTwo m e
  let flip := decide (r.2 ≤ r.1)
  let u := r.1 % r.2
  let w := if r.2 < 2 * u then r.2 - u else u
  let k : Int := if e < 0 then e else 0
  if u = 0 then .fin neg 0 0
  else
    let v := if 2 * w = r.2 then .fin false 1 0
      else if 4 * w ≤ r.2 then sinPi w k
      else cosPi (r.2 - 2 * w) (k - 1)
    if neg != flip then v.negate else v

/-- cos(pi x): half-integers give +0, integers exactly 1 or -1. -/
def cospiOf (m : Nat) (e : Int) : Num :=
  let r := modTwo m e
  let u := if r.2 < r.1 then 2 * r.2 - r.1 else r.1
  let flip := decide (r.2 < 2 * u)
  let w := if flip then r.2 - u else u
  let k : Int := if e < 0 then e else 0
  let v := if w = 0 then .fin false 1 0
    else if 2 * w = r.2 then .fin false 0 0
    else if 4 * w ≤ r.2 then cosPi w k
    else sinPi (r.2 - 2 * w) (k - 1)
  if flip then v.negate else v

/-- tanh x: below 2^-13 just under x, from 64 on just under 1, else (1 - g) / (1 + g) with g = exp(-2|x|). -/
def tanhOf (neg : Bool) (m : Nat) (e : Int) : Num :=
  let l := e + Nat.log2 m
  if l < -13 then .fin neg (m * 2 ^ 64 - 1) (e - 64)
  else if 6 ≤ l then sticky neg (fxOne - 1)
  else
    let ex := fxSquare 8 (fxExp (2 * fxOf m e / 256))
    let g := fxOne * fxOne / ex
    sticky neg ((fxOne - g) * fxOne / (fxOne + g))

/-! ## Rounding under FTAB (R278) -/

/-- A special function's result: NX where the written value differs, UF and OF as for any result. -/
def ftabRound (c : Contract) (v : Num) : Nat × BitVec 5 :=
  match v with
  | .fin n m e =>
    if m = 0 then (F32.sign n, 0)
    else
      let r := F32.roundFin (if c.ftab == 2 then .rtz else .rne) c.vsub n m e
      let inf := field r.1 23 8 == 255
      if c.ftab != 1 || inf || r.1 % 128 == 0 then r
      else
        let tiny := field r.1 23 8 == 0
        (r.1 - r.1 % 128, r.2 ||| fNX ||| flagIf tiny fUF)
  | w => F32.round .rne false w

inductive Sfu where
  | rcp | rsq | sqrt | exp2 | log2 | sinpi | cospi | tanh
  deriving DecidableEq, Repr

/-- The results of special operands (R392); none where the function is computed. -/
def Sfu.special (f : Sfu) (v : Num) : Option (Num × BitVec 5) :=
  match v with
  | .nan => some (.nan, 0)
  | .inf true => some (match f with
      | .rcp => (.fin true 0 0, 0)
      | .exp2 => (.fin false 0 0, 0)
      | .tanh => (.fin true 1 0, 0)
      | _ => (.nan, fNV))
  | .inf false => some (match f with
      | .rcp => (.fin false 0 0, 0)
      | .rsq => (.fin false 0 0, 0)
      | .sinpi => (.nan, fNV)
      | .cospi => (.nan, fNV)
      | .tanh => (.fin false 1 0, 0)
      | _ => (.inf false, 0))
  | .fin n m _ =>
    if m = 0 then some (match f with
      | .rcp => (.inf n, fDZ)
      | .rsq => (.inf n, fDZ)
      | .log2 => (.inf true, fDZ)
      | .exp2 => (.fin false 1 0, 0)
      | .cospi => (.fin false 1 0, 0)
      | _ => (v, 0))
    else if n && (f == .rsq || f == .sqrt || f == .log2) then some (.nan, fNV)
    else none

/-- The value of a function at a finite operand. -/
def Sfu.value (f : Sfu) (neg : Bool) (m : Nat) (e : Int) : Num :=
  match f with
  | .rcp => rcpOf neg m e
  | .rsq => rsqOf m e
  | .sqrt => sqrtOf m e
  | .exp2 => exp2Of neg m e
  | .log2 => log2Of m e
  | .sinpi => sinpiOf neg m e
  | .cospi => cospiOf m e
  | .tanh => tanhOf neg m e

/-- A special function of FP32 bits under a contract. -/
def Sfu.run (f : Sfu) (c : Contract) (x : Nat) : Nat × BitVec 5 :=
  let v := F32.read c.vsub x
  match f.special v with
  | some r => ((F32.round .rne false r.1).1, r.2)
  | none => match v with
    | .fin n m e => ftabRound c (f.value n m e)
    | _ => (F32.nanBits, 0)

/-! ## The dot-product procedure (R277) -/

/-- The value has a magnitude below 2^k. -/
def Num.below (v : Num) (k : Int) : Bool :=
  match v with
  | .fin _ m e => m == 0 || decide (e + Nat.log2 m < k)
  | _ => false

/-- A zero of the value's sign. -/
def Num.zeroed (v : Num) : Num := .fin v.neg? 0 0

/-- A product after the flushes of SUBN. -/
def dotProduct (c : Contract) (f : Fmt) (a b : Num) : Num :=
  let sub (x : Num) : Num := if (c.subn == 1 || c.subn == 3) && x.below f.emin then x.zeroed else x
  let p := ((sub a).mul (sub b)).1
  if (c.subn == 2 || c.subn == 3) && p.below f.emin then p.zeroed else p

/-- The exponent of the largest product of a group; none when all are zero. -/
def groupExp : List Num → Option Int
  | [] => none
  | .fin _ m e :: ps =>
    let here := if m = 0 then none else some (e + Nat.log2 m)
    match here, groupExp ps with
    | none, r => r
    | some x, none => some x
    | some x, some y => some (if x < y then y else x)
  | _ :: ps => groupExp ps

/-- A product truncated to a multiple of 2^q, and whether that changed it. -/
def truncTo (q : Int) (v : Num) : Num × Bool :=
  match v with
  | .fin n m e =>
    let r := roundAt .rtz n m e q
    if q ≤ e then (v, false) else (.fin n r.1 q, r.2)
  | w => (w, false)

/-- `RoundAcc` (R277): to `w` significand bits in the exponent range of FP32. A zero that a non-zero sum rounds to is +0. -/
def roundAcc (w : Nat) (v : Num) : Num × Bool :=
  match v with
  | .fin n m e =>
    if m = 0 then (v, false)
    else
      let q0 := e + Nat.log2 m - (w - 1 : Nat)
      let qmin : Int := -126 - (w - 1 : Nat)
      let q := if q0 < qmin then qmin else q0
      let r := roundAt .rne n m e q
      if 127 < q + Nat.log2 r.1 && r.1 != 0 then (.inf n, true)
      else (.fin (n && r.1 != 0) r.1 q, r.2)
  | x => (x, false)

/-- The exact sum of values, a zero sum keeping - only where all are zeros of sign -. -/
def exactSum (acc : Num) (ps : List Num) : Num := ps.foldl (fun x p => (x.add .rne p).1) acc

/-- The groups of a list. -/
def groupsOf {α : Type} (n : Nat) : Nat → List α → List (List α)
  | 0, _ => []
  | k + 1, xs => if xs.isEmpty then [] else xs.take n :: groupsOf n k (xs.drop n)

/-- The sum of products in groups; the flag says that a truncation or a rounding changed a value. -/
def dotGroups (c : Contract) (acc : Num) (inexact : Bool) : List (List Num) → Num × Bool
  | [] => (acc, inexact)
  | g :: gs =>
    let ts := match groupExp g with
      | some x => if c.alignw = 0 then g.map (fun p => (p, false)) else g.map (truncTo (x - c.alignw))
      | none => g.map (fun p => (p, false))
    let cut := inexact || ts.any (·.2)
    let ps := ts.map (·.1)
    let r := if c.rpt == 1 then
        ps.foldl (fun (s : Num × Bool) p =>
          let x := roundAcc c.accw (s.1.add .rne p).1
          (x.1, s.2 || x.2)) (acc, cut)
      else
        let x := roundAcc c.accw (exactSum acc ps)
        (x.1, cut || x.2)
    dotGroups c r.1 r.2 gs

/-- `DotContract` (R277): the result and whether anything was inexact. Without infinities and NaNs among its inputs no
group is invalid: an accumulator that overflowed stays infinite. -/
def dotContract (c : Contract) (f : Fmt) (as bs : List Num) (acc : Num) : Num × Bool :=
  let pairs := as.zip bs
  let invalid := pairs.any (fun p => p.1.isNaN || p.2.isNaN || (p.1.isInf && p.2.isZero) || (p.1.isZero && p.2.isInf))
  if acc.isNaN || invalid then (.nan, false)
  else
    let infs := (pairs.filter (fun p => p.1.isInf || p.2.isInf)).map (fun p => p.1.neg? != p.2.neg?)
      ++ (if acc.isInf then [acc.neg?] else [])
    if infs.contains true && infs.contains false then (.nan, false)
    else match infs with
      | n :: _ => (.inf n, false)
      | [] => dotGroups c acc false (groupsOf (2 ^ c.group) pairs.length (pairs.map (fun p => dotProduct c f p.1 p.2)))

end Sys2Proof.Machine
end

