-- ==== Sys2Proof/Machine/Flags.lean ====
section
/-! DEFINITION. Condition tests and the flags that instructions write (R315, R316, R342, R356). -/

namespace Sys2Proof.Machine

/-- `CondHolds` (R316); 15 never reaches here. -/
def condHolds (f : Flags) (cond : BitVec 4) : Bool :=
  match cond.toNat with
  | 0 => f.z
  | 1 => !f.z
  | 2 => f.c
  | 3 => !f.c
  | 4 => f.n
  | 5 => !f.n
  | 6 => f.v
  | 7 => !f.v
  | 8 => f.c && !f.z
  | 9 => !f.c || f.z
  | 10 => f.n == f.v
  | 11 => f.n != f.v
  | 12 => !f.z && f.n == f.v
  | 13 => f.z || f.n != f.v
  | _ => true

/-- `GuardTrue` (R339). -/
def guardTrue (h : Head) (cs : CondRegs) : Bool := h.cond == 14 || condHolds (cs.get h.csel).flags h.cond

/-- N and Z of a result of `w` bits, with C and V given. -/
def nzFlags (w r : Nat) (c v : Bool) : Flags := ⟨bitOf r (w - 1), r == 0, c, v⟩

/-! ## Integer results and their flags (R342, R355 to R359) -/

/-- Width of an integer type's operation. -/
def tyBits (t : Ty) : Nat := if t.wide then 64 else 32
/-- The type is signed. -/
def tySigned (t : Ty) : Bool := match tyInt t with | some (_, sg) => sg | none => false
/-- `ext` of R342. -/
def ext (t : Ty) (x : Nat) : Int := if tySigned t then signedOf (tyBits t) x else (x : Int)
def tyLo (t : Ty) : Int := intLo (tySigned t) (tyBits t)
def tyHi (t : Ty) : Int := intHi (tySigned t) (tyBits t)

/-- An exact value saturated or cut to a type. -/
def satOr (t : Ty) (sat : Bool) (e : Int) : Nat := lowBits (tyBits t) (if sat then clampInt e (tyLo t) (tyHi t) else e)

/-- A signed sum overflows (R356). -/
def signedOver (w : Nat) (v : Int) : Bool := decide (v < intLo true w) || decide (intHi true w < v)

/-- The result and flags of an additive opcode: the exact value, the carry and the signed sum (R356). -/
def additive (t : Ty) (sat : Bool) (e : Int) (c : Bool) (vs : Int) : Nat × Flags :=
  let r := satOr t sat e
  (r, nzFlags (tyBits t) r c (signedOver (tyBits t) vs))

def iaddR (t : Ty) (sat : Bool) (k : Nat) (a b : Nat) : Nat × Flags :=
  let w := tyBits t
  additive t sat (ext t a + ext t b + k) (decide (2 ^ w ≤ a + b + k)) (signedOf w a + signedOf w b + k)

/-- A subtraction with a borrow of `k`. -/
def isubR (t : Ty) (sat : Bool) (k : Nat) (a b : Nat) : Nat × Flags :=
  let w := tyBits t
  additive t sat (ext t a - ext t b - k) (decide (b + k ≤ a)) (signedOf w a - signedOf w b - k)

def iadd3R (t : Ty) (sat : Bool) (a b q : Nat) : Nat × Flags :=
  let w := tyBits t
  additive t sat (ext t a + ext t b + ext t q) (decide (2 ^ w ≤ a + b + q)) (signedOf w a + signedOf w b + signedOf w q)

/-- A multiplicative result: V outside the type's range (R357). -/
def mulR (t : Ty) (sat : Bool) (e : Int) : Nat × Flags :=
  let r := satOr t sat e
  (r, nzFlags (tyBits t) r false (decide (e < tyLo t) || decide (tyHi t < e)))

def imulhR (t : Ty) (a b : Nat) : Nat × Flags :=
  let w := tyBits t
  let r := lowBits (2 * w) (ext t a * ext t b) / 2 ^ w
  (r, nzFlags w r false false)

/-- The 64-bit type of the same signedness (R357). -/
def wideOf (t : Ty) : Ty := if tySigned t then .i64 else .n64

def imadwR (t : Ty) (sat : Bool) (a b q : Nat) : Nat × Flags :=
  mulR (wideOf t) sat (ext t a * ext t b + ext (wideOf t) q)

/-- A result with the flags of R342. -/
def plainR (w r : Nat) : Nat × Flags := (r, nzFlags w r false false)

def iminR (t : Ty) (a b : Nat) : Nat × Flags := plainR (tyBits t) (if ext t a ≤ ext t b then a else b)
def imaxR (t : Ty) (a b : Nat) : Nat × Flags := plainR (tyBits t) (if ext t b ≤ ext t a then a else b)

def iabsR (t : Ty) (sat : Bool) (a : Nat) : Nat × Flags :=
  let w := tyBits t
  let r := satOr t sat (signedOf w a).natAbs
  (r, nzFlags w r false (a == 2 ^ (w - 1)))

/-- The difference of `ISAD`: of words, or summed over four bytes (R358). -/
def sadOf (t : Ty) (a b : Nat) : Nat :=
  let byte (i : Nat) := match t with
    | .i8 => (signedOf 8 (field a (8 * i) 8) - signedOf 8 (field b (8 * i) 8)).natAbs
    | _ => ((field a (8 * i) 8 : Int) - field b (8 * i) 8).natAbs
  if t == .i8 || t == .n8 then byte 0 + byte 1 + byte 2 + byte 3 else (ext t a - ext t b).natAbs

def isadR (t : Ty) (sat : Bool) (a b q : Nat) : Nat × Flags :=
  let e := sadOf t a b + q
  let r := if sat && decide (2 ^ 32 ≤ e) then 2 ^ 32 - 1 else e % 2 ^ 32
  (r, nzFlags 32 r (decide (2 ^ 32 ≤ e)) false)

/-- A comparison of integers. -/
def cmpHolds (c : Cmp) (x y : Int) : Bool :=
  match c with
  | .eq => x == y
  | .ne => x != y
  | .lt => decide (x < y)
  | .le => decide (x ≤ y)
  | .gt => decide (y < x)
  | .ge => decide (y ≤ x)

/-- All ones or zero, with the flags of a subtraction (R358). -/
def icmpR (t : Ty) (c : Cmp) (a b : Nat) : Nat × Flags :=
  (if cmpHolds c (ext t a) (ext t b) then 2 ^ tyBits t - 1 else 0, (isubR t false 0 a b).2)

/-- Quotient, remainder and V of a division (R359). -/
def divide (t : Ty) (sat : Bool) (a b : Nat) : Int × Int × Bool :=
  let x := ext t a
  let y := ext t b
  if y = 0 then (if 0 ≤ x then tyHi t else tyLo t, x, true)
  else if tySigned t && x == tyLo t && y == -1 then (if sat then tyHi t else tyLo t, 0, true)
  else
    let q : Int := (x.natAbs / y.natAbs : Nat)
    let quo := if decide (x < 0) == decide (y < 0) then q else -q
    (quo, x - quo * y, false)

def idivQR (t : Ty) (sat : Bool) (a b : Nat) : Nat × Flags :=
  let d := divide t sat a b
  let r := lowBits (tyBits t) d.1
  (r, nzFlags (tyBits t) r false d.2.2)

def idivRR (t : Ty) (a b : Nat) : Nat × Flags :=
  let d := divide t false a b
  let r := lowBits (tyBits t) d.2.1
  (r, nzFlags (tyBits t) r false d.2.2)

/-! ## Logic and bits (R360 to R365) -/

/-- A value whose bit i below `n` is `f i`. -/
def bitsFrom (f : Nat → Bool) : Nat → Nat
  | 0 => 0
  | n + 1 => bitsFrom f n + b2n (f n) * 2 ^ n

def bool3R (w tt a b q : Nat) : Nat × Flags :=
  plainR w (bitsFrom (fun i => bitOf tt (b2n (bitOf a i) + 2 * b2n (bitOf b i) + 4 * b2n (bitOf q i))) w)

/-- Shifts (R362): no power beyond the width is formed. -/
def shlR (w a s : Nat) : Nat × Flags :=
  let r := if w ≤ s then 0 else a * 2 ^ s % 2 ^ w
  (r, nzFlags w r (decide (1 ≤ s) && decide (s ≤ w) && bitOf a (w - s)) false)

def shrR (w a s : Nat) : Nat × Flags :=
  let r := if w ≤ s then 0 else a / 2 ^ s
  (r, nzFlags w r (decide (1 ≤ s) && decide (s ≤ w) && bitOf a (s - 1)) false)

def sarR (w a s : Nat) : Nat × Flags :=
  let top := bitOf a (w - 1)
  let r := if w ≤ s then (if top then 2 ^ w - 1 else 0) else lowBits w (signedOf w a / (2 ^ s : Nat))
  (r, nzFlags w r (if w < s then top else decide (1 ≤ s) && bitOf a (s - 1)) false)

/-- The low half of a joined value shifted right, and the high half of one shifted left (R362). -/
def funnelL (w a b s : Nat) : Nat := (a * 2 ^ w + b) * 2 ^ (s % w) / 2 ^ w % 2 ^ w
def funnelR (w a b s : Nat) : Nat := (a * 2 ^ w + b) / 2 ^ (s % w) % 2 ^ w

def rotlR (w a s : Nat) : Nat × Flags := plainR w (funnelL w a a s)
def rotrR (w a s : Nat) : Nat × Flags := plainR w (funnelR w a a s)

/-- `BFX` (R363). -/
def bfxR (t : Ty) (a b : Nat) : Nat × Flags :=
  let w := tyBits t
  let pos := field b 0 8
  let len := if field b 8 8 < w then field b 8 8 else w
  let low (i : Nat) : Bool := if pos + i < w then bitOf a (pos + i) else tySigned t && bitOf a (w - 1)
  plainR w (bitsFrom (fun i => if i < len then low i else tySigned t && decide (0 < len) && low (len - 1)) w)

/-- `BFI` (R363). -/
def bfiR (w a b q : Nat) : Nat × Flags :=
  let pos := field b 0 8
  let len := if field b 8 8 < w then field b 8 8 else w
  plainR w (bitsFrom (fun i => if pos ≤ i && decide (i < pos + len) then bitOf a (i - pos) else bitOf q i) w)

def popCount (a : Nat) : Nat → Nat
  | 0 => 0
  | n + 1 => popCount a n + b2n (bitOf a n)

/-- Zero bits above the highest one bit. -/
def leadZeros (a : Nat) : Nat → Nat
  | 0 => 0
  | n + 1 => if bitOf a n then 0 else 1 + leadZeros a n

/-- A result of 32 bits from an operand of `w` bits (R364). -/
def popcR (w a : Nat) : Nat × Flags := plainR 32 (popCount a w)
def clzR (w a : Nat) : Nat × Flags := plainR 32 (leadZeros a w)
def brevR (w a : Nat) : Nat × Flags := plainR w (bitsFrom (fun i => bitOf a (w - 1 - i)) w)

/-- `PERMB` (R365). -/
def permb (x : Nat) (table : List Nat) : Nat :=
  ofBytes ((List.range 4).map (fun i =>
    let k := field x (8 * i) 8
    if bitOf k 7 then 0 else BitVec.ofNat 8 (field (table[k % 16 / 4]?.getD 0) (8 * (k % 4)) 8)))

/-! ## The draw of `RAND` (R372) -/

def randomOf (seed stream ctr : Nat) : Nat :=
  let m := 2 ^ 64
  let z0 := (seed + 0x9E3779B97F4A7C15 * (stream * 2 ^ 32 + ctr + 1)) % m
  let z1 := (z0 ^^^ (z0 / 2 ^ 30)) * 0xBF58476D1CE4E5B9 % m
  let z2 := (z1 ^^^ (z1 / 2 ^ 27)) * 0x94D049BB133111EB % m
  z2 ^^^ (z2 / 2 ^ 31)

end Sys2Proof.Machine
end

