-- ==== Sys2Proof/Machine/Backing.lean ====
section
/-! DEFINITION. The backing region: register granules spilled and filled, and link entries (R156, R157, R285, R297). -/

namespace Sys2Proof.Machine

/-! ## Layout (R156, R297) -/

/-- EXEC: the registers and link entries of a slice. -/
def Block.exec (b : Block) : Nat := b.rec_.threads * (4 * b.rec_.frame + 4096)

/-- SNAPSZ of R297. -/
def Block.snapSize (b : Block) : Nat := 196608 + 4 * b.rec_.threads * b.rec_.frame + b.rec_.scrLen * 4096

/-- RB: the rollback area, with `SNAP` only (R297). -/
def Block.rb (b : Block) : Nat := if b.flag 2 then 36864 + 2 * b.snapSize else 0

/-- SLICE, a multiple of 64 KiB. -/
def Block.slice (b : Block) : Nat := ceilDiv (b.exec + b.rb) 65536 * 65536

/-- NRES: slices of primary copies. -/
def State.nres (s : State) (b : Block) : Nat :=
  match (s.node b.rec_.node).launch with
  | some l =>
    let n := l.gridx * l.gridy * l.gridz
    if n < 3072 then n else 3072
  | none => 3072

/-- The virtual address of a block's slice. -/
def State.sliceOf (s : State) (b : Block) : Nat :=
  b.rec_.backing.toNat + (if b.verify == .secondary then s.nres b + b.res else b.res) * b.slice

/-- The address of a virtual register of a thread, and of its link entry for a depth of 1 to 255. -/
def State.regAddr (s : State) (b : Block) (tid i : Nat) : Nat := s.sliceOf b + 4 * (tid * b.rec_.frame + i)
def State.linkAddr (s : State) (b : Block) (tid d : Nat) : Nat :=
  s.sliceOf b + 4 * b.rec_.threads * b.rec_.frame + 4096 * tid + 16 * (d - 1)

/-! ## Accesses to the region (R157) -/

/-- What an access to the backing region meets: a page, a hold, or a failure kind of R157. -/
inductive Backing where
  | ok (e : TlbEntry)
  | hold
  | fail (kind : Nat)
  deriving DecidableEq, Repr

def State.backing (s : State) (b : Block) (va : Nat) (a : Acc) : State × Backing :=
  match s.xlat b.core b.tenant va a with
  | (s1, .ok e) =>
    (s1, if e.kind != 0 then .fail 3 else if 2 ≤ e.tier then .fail 4 else .ok e)
  | (s1, .notValid) => (s1, .hold)
  | (s1, .blocked) => (s1, .hold)
  | (s1, .perm) => (s1, .fail 1)
  | (s1, .format) => (s1, .fail 2)

/-- A failed access kills the gang, with a KIND 0x23 record (R157). -/
def State.backingFail (s : State) (b : Block) (va kind : Nat) : State :=
  (s.tenantRecord b.tenant (b.record { kind := 0x23, sev := 2, src := 0, vaddr := va, synd := kind })).killGang b.core b.ent

/-- How an operation on the region ended for the thread that needs it. -/
inductive Need where
  | ready
  | hold (va : Nat)
  | killed
  deriving DecidableEq, Repr

/-! ## Spills (R156) -/

/-- The eight registers of a granule as bytes, free ones zero, and the poison of the granule. -/
def Thread.granuleBytes (th : Thread) (g : Nat) : List Byte × Bool :=
  let rs := (List.range 8).map (fun i => th.reg (8 * g + i))
  (rs.flatMap (fun r => toBytes 4 r.val.toNat), rs.any (·.poison))

/-- The registers of a granule that are not free, as a mask. -/
def Thread.granuleMask (th : Thread) (g : Nat) : BitVec 8 :=
  BitVec.ofNat 8 (ofBytes' ((List.range 8).map (fun i => th.regs.any (fun r => r.1 == 8 * g + i))))
where
  ofBytes' : List Bool → Nat
    | [] => 0
    | b :: bs => b2n b + 2 * ofBytes' bs

/-- One granule of a thread goes to the backing store. -/
def State.spill (s : State) (b : Block) (tid g : Nat) : State × Need :=
  match b.threads[tid]? with
  | none => (s, .ready)
  | some th =>
    let va := s.regAddr b tid (8 * g)
    match s.backing b va .store with
    | (s1, .ok e) =>
      let v := th.granuleBytes g
      let s2 := s1.storeMem b.core e va 0 false v.1 v.2 [e.pa va / 32]
      (s2.modThread (b.idOf tid) (fun t =>
        { t with regs := t.regs.filter (fun r => r.1 / 8 != g), spills := ⟨g, th.granuleMask g⟩ :: t.spills }), .ready)
    | (s1, .hold) => (s1, .hold va)
    | (s1, .fail k) => (s1.backingFail b va k, .killed)

/-- Granules of a thread spilled in order, until one is held or the gang is killed. -/
def State.spillAll (s : State) (core ent tid : Nat) : List Nat → State × Need
  | [] => (s, .ready)
  | g :: gs =>
    match s.block? core ent with
    | none => (s, .killed)
    | some b => match s.spill b tid g with
      | (s1, .ready) => s1.spillAll core ent tid gs
      | r => r

/-- The threads of a lane. -/
def State.laneThreads (s : State) (id : ThreadId) : List (Block × Thread) :=
  (s.blocksOn id.core).flatMap (fun b =>
    (b.threads.filter (fun th => partOf th.tid == partOf id.tid && laneOf th.tid == laneOf id.tid && !th.exited)).map
      (fun th => (b, th)))

/-- Granules in use in a lane. -/
def State.laneGranules (s : State) (id : ThreadId) : Nat :=
  (s.laneThreads id).foldl (fun n x => n + x.2.granules.length) 0

/-- The granules of a thread inside its current frame. -/
def Thread.inFrame (th : Thread) (g : Nat) : Bool := decide (th.fbase / 8 ≤ g) && decide (8 * g < th.fbase + th.frame)

/-- Granules are freed for a thread: those of the lane's thread that has gone longest without issuing, else its own
outside its current frame, lowest first (R156). -/
def State.freeGranules (s : State) (id : ThreadId) : State × Need :=
  let others := (s.laneThreads id).filter (fun x => !(x.1.ent == id.ent && x.2.tid == id.tid) && !x.2.granules.isEmpty)
  match bestBy (fun (x y : Block × Thread) => decide (x.2.lastIssue < y.2.lastIssue)) others with
  | some (b, th) => match s.spillAll b.core b.ent th.tid th.granules with
    | (s1, .hold va) =>
      (s1.modThread id (fun t => { t with heldFor := if (s.block? id.core id.ent).any (fun x => x.tenant == b.tenant) then none else some b.tenant }),
        .hold va)
    | r => r
  | none => match s.thread? id with
    | none => (s, .killed)
    | some th => match th.granules.filter (fun g => !th.inFrame g) with
      | [] => (s, .ready)
      | g :: _ => s.spillAll id.core id.ent id.tid [g]

/-- `k` more granules are made free in the lane of a thread. -/
def State.makeRoom (s : State) (id : ThreadId) (k : Nat) : Nat → State × Need
  | 0 => (s, .ready)
  | fuel + 1 =>
    if s.laneGranules id + k ≤ 64 then (s, .ready)
    else match s.freeGranules id with
      | (s1, .ready) => s1.makeRoom id k fuel
      | (s1, .killed) => if (s1.thread? id).any (fun t => !t.exited) then s1.makeRoom id k fuel else (s1, .killed)
      | r => r

/-- The granules that registers `[first, first + n)` of the virtual space lie in. -/
def regGranules (first n : Nat) : List Nat := if n = 0 then [] else (List.range ((first + n - 1) / 8 - first / 8 + 1)).map (· + first / 8)

/-- Granules for registers about to be written, frame-relative, are allocated in the lane (R156). -/
def State.allocate (s : State) (id : ThreadId) (rs : List (Nat × Nat)) : State × Need :=
  match s.thread? id with
  | none => (s, .killed)
  | some th =>
    let gs := runAll addNat (rs.flatMap (fun r => regGranules (th.fbase + r.1) r.2)) []
    let new := gs.filter (fun g => !th.granules.contains g)
    if new.isEmpty then (s, .ready) else s.makeRoom id new.length 130

/-- A register takes a value that was on its way before the chain in progress began: the chain's abandonment keeps it (R163). -/
def Thread.setOwn (th : Thread) (i : Nat) (v : RegVal) : Thread :=
  { th.setReg i v with chain := th.chain.map (fun c => { c with regs := insertNat c.regs i v }) }

/-- A granule is no longer in the backing store. -/
def Thread.unspill (th : Thread) (g : Nat) : Thread :=
  let out (xs : List Spill) := xs.filter (fun x => x.g != g)
  { th with spills := out th.spills, chain := th.chain.map (fun c => { c with spills := out c.spills }) }

/-- A spilled granule is filled again (R142, R156). -/
def State.fillGranule (s : State) (id : ThreadId) (g : Nat) : State × Need :=
  match s.block? id.core id.ent, s.thread? id with
  | some b, some th =>
    match th.spills.find? (fun sp => sp.g == g) with
    | none => (s, .ready)
    | some sp =>
      match s.makeRoom id 1 130 with
      | (s1, .ready) =>
        let va := s1.regAddr b id.tid (8 * g)
        match s1.backing b va .load with
        | (s2, .ok e) =>
          let r := s2.loadMem (.thread_ b.tenant id th.pc.toNat va) b.core e va 32 0 false
          (r.1.modThread id (fun t =>
            runAll (fun (t : Thread) i =>
              if sp.mask.getLsbD i then
                t.setOwn (8 * g + i) ⟨BitVec.ofNat 32 (ofBytes ((r.2.1.drop (4 * i)).take 4)), r.2.2⟩
              else t) (List.range 8) (t.unspill g)), .ready)
        | (s2, .hold) => (s2, .hold va)
        | (s2, .fail k) => (s2.backingFail b va k, .killed)
      | r => r
  | _, _ => (s, .killed)

/-! ## Link entries (R156) -/

/-- A link entry is pushed for depth `d`: return PC, slide and the caller's frame size. -/
def State.pushLink (s : State) (id : ThreadId) (d : Nat) (ret : CodeAddr) (n frame : Nat) : State × Need :=
  match s.block? id.core id.ent with
  | none => (s, .killed)
  | some b =>
    let va := s.linkAddr b id.tid d
    match s.backing b va .store with
    | (s1, .ok e) =>
      (s1.storeMem b.core e va 0 false (toBytes 8 ret.toNat ++ toBytes 8 (n + frame * 2 ^ 8)) false [], .ready)
    | (s1, .hold) => (s1, .hold va)
    | (s1, .fail k) => (s1.backingFail b va k, .killed)

/-- The link entry of depth `d`: return PC, slide and frame size. A reserved bit set, or an uncorrectable error in it,
kills the gang with a KIND 0x32 record (R157, R285). -/
def State.readLink (s : State) (id : ThreadId) (d : Nat) (pc : Nat) : State × Need × Nat × Nat × Nat :=
  match s.block? id.core id.ent with
  | none => (s, .killed, 0, 0, 0)
  | some b =>
    let va := s.linkAddr b id.tid d
    match s.backing b va .load with
    | (s1, .ok e) =>
      -- the syndrome of an error that this read finds (R291)
      let synd := ((s1.latent.find? (fun l => decide (e.tier < 2) && (granules (e.pa va) 16).contains l.granule)).map (·.syndrome.toNat)).getD 0
      let r := s1.loadMem (.thread_ b.tenant id pc va) b.core e va 16 0 false
      let w0 := ofBytes (r.2.1.take 8)
      let w1 := ofBytes (r.2.1.drop 8)
      if r.2.2 || field w0 54 10 != 0 || field w1 17 47 != 0 then
        ((r.1.tenantRecord b.tenant (b.threadRecord id.tid { kind := 0x32, sev := 2, src := 0, pc := pc, vaddr := va, synd := synd })).killGang
          b.core b.ent, .killed, 0, 0, 0)
      else (r.1, .ready, field w0 0 54, field w1 0 8, field w1 8 9)
    | (s1, .hold) => (s1, .hold va, 0, 0, 0)
    | (s1, .fail k) => (s1.backingFail b va k, .killed, 0, 0, 0)

end Sys2Proof.Machine
end

