-- ==== Sys2Proof/Machine/Fetch.lean ====
section
/-! DEFINITION. Fetch blocks: the check code, the header, the checks of a reached block and the instruction buffer (R320 to R326, R214). -/

namespace Sys2Proof.Machine

/-- One step of the check code over a bit (R321). -/
def crcBit (crc : BitVec 16) : BitVec 16 := if crc.getLsbD 15 then (crc <<< 1) ^^^ 0x1021#16 else crc <<< 1

/-- The check code over one byte. -/
def crcByte (crc : BitVec 16) (x : Byte) : BitVec 16 :=
  let c := crc ^^^ (x.zeroExtend 16 <<< 8)
  crcBit (crcBit (crcBit (crcBit (crcBit (crcBit (crcBit (crcBit c)))))))

/-- `Crc16` (R321). -/
def crc16 (bs : List Byte) : BitVec 16 := runAll crcByte bs 0xFFFF

/-- The address of the fetch block that holds a PC, and the slot (R140). -/
def blockOfPc (pc : Nat) : Nat := pc / 64 * 64
def slotOfPc (pc : Nat) : Nat := (pc % 64 - 4) / 12

/-- The header and words of a block's 64 bytes. -/
def blockOfBytes (t a : Nat) (bs : List Byte) : IBlock :=
  let h := ofBytes (bs.take 4)
  { tenant := t, addr := a, nslot := field h 0 3, entry := bitOf h 3,
    frame := if bitOf h 3 && field h 5 8 == 0 then 256 else field h 5 8,
    words := (List.range 5).map (fun i => bytesWord ((bs.drop (4 + 12 * i)).take 12)), only := none }

/-- The header rules of R323 step 4. -/
def headerOk (bs : List Byte) : Bool :=
  let h := ofBytes (bs.take 4)
  let n := field h 0 3
  decide (1 ≤ n) && decide (n ≤ 5) && !bitOf h 4 && field h 13 3 == 0 && (bitOf h 3 || field h 5 8 == 0)
    && (bs.drop (4 + 12 * n)).all (· == 0)

/-- A block of the instruction buffer that a thread may use (R214, R324). -/
def IBlock.usable (k : IBlock) (t a ent tid : Nat) : Bool :=
  k.tenant == t && k.addr == a && (match k.only with | none => true | some us => us.contains (ent, tid))

def State.ibufFind (s : State) (id : ThreadId) (t a : Nat) : Option IBlock :=
  (s.core id.core).ibuf.find? (fun k => k.usable t a id.ent id.tid)

/-- A block enters the buffer, or moves to its front; the least recently used beyond 512 is replaced (R324). -/
def State.ibufPut (s : State) (core : Nat) (k : IBlock) : State :=
  s.modCore core (fun c => { c with ibuf := (k :: c.ibuf.filter (fun x => x != k)).take Config.ibufBlocks })

/-- What a thread that reaches a block meets (R323). -/
inductive Fetched where
  | ok (k : IBlock)
  | hold
  /-- its line is on its way from another module (R195) -/
  | lines
  | trap (kind info : Nat)
  deriving DecidableEq, Repr

/-- The instruction-integrity failure's record (R291, R323). -/
def State.integrity (s : State) (id : ThreadId) (pc a computed stored : Nat) : State :=
  s.threadRec id { kind := 0x12, sev := 2, src := 6, pc := pc, vaddr := a, synd := computed + stored * 2 ^ 16 }

/-- A thread asks another module for the line of an address; without a route the request has failed (R46). -/
def State.askLine (s : State) (b : Block) (tid : Nat) (e : TlbEntry) (va : Nat) : State :=
  let q := lineRequest e (va / 128)
  let note (st : Option Nat) (s : State) : State :=
    s.modThread (b.idOf tid) (fun th => { th with remote := th.remote ++ [⟨va / 128, none, st⟩] })
  if s.reachable b.tenant q.dmod then note none ((s.countAt b.grid e va).send (some b.core) (.record (b.ownerOf tid)) q)
  else note (some 2) s

/-- The 64 bytes of a block at the home slice, in host memory for TIER 3, or in a line of another module for TIER 2 (R195, R324;
assumption 16). -/
def State.fetchBytes (s : State) (id : ThreadId) (e : TlbEntry) (t a pc : Nat) : State × LineRead :=
  match s.block? id.core id.ent, s.thread? id with
  | some b, some th =>
    if e.tier = 2 then
      match lineRead th.remote a 64 with
      | .unasked => (s.askLine b id.tid e a, .owed)
      | .owed => (s, .owed)
      | r => (s.modThread id (fun t => { t with remote := [] }), r)
    else
      let s1 := s.countAt b.grid e a
      if e.tier = 3 then (s1, .here (s1.host.read (e.pa a) 64) (s1.host.anyPoison (e.pa a) 64))
      else let r := s1.homeRead (.thread_ t id pc a) (e.pa a) 64; (r.1, .here r.2.1 r.2.2)
  | _, _ => (s, .owed)

/-- The checks of R323 on the block at `a`, for a thread at `pc`; a block that passes enters the buffer. A request for a line of code
that fails takes the remote-access trap (R207). A handler's failure writes no KIND 0x12 record (R329). -/
def State.reach (s : State) (id : ThreadId) (t a pc : Nat) (entry handler : Bool) : State × Fetched :=
  let enter (s : State) (k : IBlock) : State × Fetched :=
    if entry && !k.entry then (s, .trap 0x02 0) else (s.ibufPut id.core k, .ok k)
  match s.ibufFind id t a with
  | some k => enter s k
  | none =>
    match s.xlat id.core t a .fetch with
    | (s1, .notValid) => (s1, .hold)
    | (s1, .blocked) => (s1, .hold)
    | (s1, .perm) => (s1, .trap 0x0C 0)
    | (s1, .format) => (s1, .trap 0x0D 0)
    | (s1, .ok e) =>
      if e.kind != 0 then (s1, .trap 0x0E 0)
      else match s1.fetchBytes id e t a pc with
        | (s2, .failed st) => (s2, .trap 0x11 st)
        | (s2, .here bs p) =>
          let computed := (crc16 (bs.drop 4)).toNat
          let stored := ofBytes ((bs.drop 2).take 2)
          if p || computed != stored || !headerOk bs then
            ((if handler then s2 else s2.integrity id pc a computed stored), .trap 0x03 0)
          else enter s2 (blockOfBytes t a bs)
        | (s2, _) => (s2, .lines)

/-- The next PC in sequence (R322): the next slot, or slot 0 of the next block. -/
def nextPc (k : IBlock) (pc : CodeAddr) : CodeAddr :=
  if slotOfPc pc.toNat + 1 < k.nslot then pc + 12 else BitVec.ofNat 54 (k.addr + 68)

/-- A core that acknowledges a shootdown keeps the blocks of the pages for the threads whose PC lies in them (R214). -/
def State.dropCode (s : State) (t : Nat) (p : Nat → Bool) : State :=
  { s with
    cores := s.cores.map (fun c =>
      { c with ibuf := c.ibuf.filterMap (fun k =>
        if k.tenant == t && p k.addr then
          let inside := (s.blocks.filter (fun b => b.core == c.num && b.tenant == t)).flatMap (fun b =>
            (b.threads.filter (fun th => !th.exited && blockOfPc th.pc.toNat == k.addr
              && k.usable t k.addr b.ent th.tid)).map (fun th => (b.ent, th.tid)))
          if inside.isEmpty then none else some { k with only := some inside }
        else some k) }) }

/-- The PC of a thread (entry, index) of a core lies in a block of its instruction buffer. -/
def State.isIn (s : State) (core : Nat) (k : IBlock) (u : Nat × Nat) : Bool :=
  match s.block? core u.1, s.thread? ⟨core, u.1, u.2⟩ with
  | some b, some th => b.tenant == k.tenant && !th.exited && blockOfPc th.pc.toNat == k.addr
  | _, _ => false

/-- A thread that has left a block kept for it after a shootdown may no longer use it; with the last one the block goes (R214). -/
def State.trimCode (s : State) : State :=
  { s with
    cores := s.cores.map (fun c =>
      { c with ibuf := c.ibuf.filterMap (fun k => match k.only with
        | none => some k
        | some us =>
          let inside := us.filter (s.isIn c.num k)
          if inside.isEmpty then none else some { k with only := some inside }) }) }

end Sys2Proof.Machine
end

