-- ==== Sys2Proof/Machine/Ops.lean ====
section
/-! DEFINITION. Taking a trap and returning from one, and how a shed executes an instruction lane by lane (R146, R154, R158 to R163, R317, R325, R330). -/

namespace Sys2Proof.Machine

/-! ## Chains (R161 to R163) -/

/-- A chain is abandoned: none of its results commits and the thread is at its first instruction. -/
def Thread.abortChain (th : Thread) : Thread :=
  match th.chain with
  | some c => { th with regs := c.regs, spills := c.spills, ccs := c.ccs, fpstat := c.fpstat, rngctr := c.rngctr,
                        pc := c.first, chain := none }
  | none => th

/-- The chain of a thread after an instruction with or without the CHAIN hint has issued. -/
def Thread.chainAfter (th : Thread) (more : Bool) : Option ChainSt :=
  if !more then none
  else match th.chain with
    | some c => some { c with count := c.count + 1 }
    | none => some ⟨th.pc, 1, th.regs, th.spills, th.ccs, th.fpstat, th.rngctr⟩

/-! ## Taking a trap (R329, R330) -/

/-- What a trap records. -/
structure TrapInfo where
  kind : Nat
  addr : Nat := 0
  info : Nat := 0
  word : Nat := 0
  deriving DecidableEq, Repr

/-- Registers `v0` to `v11` of the handler's frame (R330). -/
def trapRegs (t : TrapInfo) (inChain : Bool) (rpc ipc : Nat) : List Nat :=
  [t.kind + b2n inChain * 2 ^ 8, t.info, rpc % 2 ^ 32, rpc / 2 ^ 32, ipc % 2 ^ 32, ipc / 2 ^ 32, t.addr % 2 ^ 32, t.addr / 2 ^ 32,
   field t.word 0 32, field t.word 32 32, field t.word 64 32, 0]

/-- A thread is held on a memory fault with its PC where it restarts. -/
def State.holdFault (s : State) (id : ThreadId) (va : Nat) (write : Bool) : State :=
  s.modThread id (fun th => { th with status := .fault va write, stale := false, passed := 0 })

/-- A thread that meets a memory fault inside a chain abandons it, and is held (R163). -/
def State.holdAt (s : State) (id : ThreadId) (va : Nat) (write : Bool) : State :=
  ((s.modThread id Thread.abortChain).clearLatches id).holdFault id va write

/-- A trap that finds its table, its handler or its link entry in a page that is not valid is held with it (R157, R329). -/
def State.holdTrap (s : State) (id : ThreadId) (t : TrapInfo) (inChain : Bool) (ipc va : Nat) (write : Bool) : State :=
  (s.holdFault id va write).modThread id (fun th =>
    { th with
      trapNext := some ⟨t.kind, t.addr, t.info, t.word, inChain, some (BitVec.ofNat 54 ipc)⟩
      traps := th.trapNext.toList ++ th.traps })

/-- Consecutive registers of a thread written, unpoisoned. -/
def Thread.setRegs (th : Thread) (i : Nat) : List Nat → Thread
  | [] => th
  | v :: vs => (th.setReg i ⟨BitVec.ofNat 32 v, false⟩).setRegs (i + 1) vs

/-- `TrapEntry` (R329): the handler's block address; a hold while the table's page is not valid; otherwise the gang is
killed. -/
def State.trapEntry (s : State) (id : ThreadId) (b : Block) (k pc : Nat) : State × Need × Nat :=
  let va := b.rec_.trapTab.toNat + 8 * k
  match s.xlat id.core b.tenant va .load with
  | (s1, .notValid) => (s1, .hold va, 0)
  | (s1, .blocked) => (s1, .hold va, 0)
  | (s1, .perm) => (s1.killGang b.core b.ent, .killed, 0)
  | (s1, .format) => (s1.killGang b.core b.ent, .killed, 0)
  | (s1, .ok e) =>
    if e.kind == 1 || decide (2 ≤ e.tier) then (s1.killGang b.core b.ent, .killed, 0)
    else
      let r := (s1.countAt b.grid e va).homeRead (.thread_ b.tenant id pc va) (e.pa va) 8
      let h := ofBytes r.2.1
      if h == 0 || field h 54 10 != 0 || h % 64 != 0 then (r.1.killGang b.core b.ent, .killed, 0)
      else (r.1, .ready, h)

/-- The new frame of a handler, its link entry pushed and its registers written (R330). -/
def State.enterHandler (s : State) (id : ThreadId) (h frame : Nat) (t : TrapInfo) (inChain : Bool) (rpc ipc : Nat) : State :=
  (s.clearLatches id).modThread id (fun th =>
    { th.setRegs (th.fbase + th.frame) (trapRegs t inChain rpc ipc) with
      fbase := th.fbase + th.frame, depth := th.depth + 1, frame := frame, pc := BitVec.ofNat 54 (h + 4), status := .run,
      chain := none, wait := none, heldUni := none, fresh := false, notBefore := s.cycle + 1, lastIssue := s.cycle })

/-- `TakeTrap` (R330) by a thread that stands, outside any chain, at its restart PC: `rpc` is its PC, `ipc` the PC of
the cause. -/
def State.takeTrap (s : State) (id : ThreadId) (t : TrapInfo) (inChain : Bool) (ipc : Nat) : State :=
  match s.block? id.core id.ent, s.thread? id with
  | some b, some th =>
    let rpc := th.pc.toNat
    match s.trapEntry id b t.kind ipc with
    | (s1, .killed, _) => s1
    | (s1, .hold va, _) => s1.holdTrap id t inChain ipc va false
    | (s1, .ready, h) =>
      match s1.reach id b.tenant h ipc true true with
      | (s2, .hold) => s2.holdTrap id t inChain ipc h false
      | (s2, .lines) => s2.holdTrap id t inChain ipc h false
      | (s2, .trap _ _) => s2.killGang b.core b.ent
      | (s2, .ok k) =>
        if th.depth == 255 || decide (b.rec_.frame < th.fbase + th.frame + k.frame) || decide (k.frame < 12) then
          s2.killGang b.core b.ent
        else match s2.allocate id [(th.frame, 12)] with
          | (s3, .killed) => s3
          | (s3, .hold va) => s3.holdTrap id t inChain ipc va true
          | (s3, .ready) => match s3.pushLink id (th.depth + 1) th.pc (th.frame % 256) th.frame with
            | (s4, .killed) => s4
            | (s4, .hold va) => s4.holdTrap id t inChain ipc va true
            | (s4, .ready) => s4.enterHandler id h k.frame t inChain rpc ipc
  | _, _ => s

/-- A thread traps at an instruction: its chain is abandoned, and the restart PC is the chain's first (R163). -/
def State.trapAt (s : State) (id : ThreadId) (t : TrapInfo) (more : Bool) (ipc : Nat) : State :=
  match s.thread? id with
  | some th => (s.modThread id Thread.abortChain).takeTrap id t (th.chain.isSome || more) ipc
  | none => s

/-- What `TRET` and `RET` undo of a frame (R153): registers from the callee's part on are free, the frame is the
caller's. -/
def Thread.popFrame (th : Thread) (n size : Nat) (pc : CodeAddr) : Thread :=
  { th.freeRegs (fun i => decide (th.fbase - n + size ≤ i)) with
    fbase := th.fbase - n, frame := size, depth := th.depth - 1, pc := pc }

/-! ## One lane of a shed -/

/-- How an instruction ends in one lane. -/
inductive LaneOut where
  /-- complete: the next PC follows -/
  | done (s : State)
  /-- complete: control goes to this PC -/
  | jump (pc : CodeAddr) (s : State)
  /-- a trap; nothing of the instruction has performed -/
  | trap (t : TrapInfo) (s : State)
  /-- held on a memory fault: the instruction, or its chain, re-executes -/
  | hold (va : Nat) (write : Bool) (s : State)
  /-- issued, and held with this status at this PC -/
  | park (st : Status) (pc : CodeAddr) (s : State)
  /-- held with this status, its chain and its sources until others arrive (R164, R165) -/
  | gather (st : Status) (s : State)
  /-- not ready until the condition holds, then the instruction issues again -/
  | wait (w : Wait) (s : State)
  /-- the thread has exited or its gang was killed -/
  | gone (s : State)

/-- The context of a lane: latches read invalid after another thread's instruction and at a chain's first (R159). -/
def State.ctx (s : State) (id : ThreadId) : Option Ctx :=
  match s.block? id.core id.ent, s.thread? id with
  | some b, some th =>
    let ln := s.laneFor id
    let ln' := if ln.last == some (id.ent, id.tid) && th.chain.isSome then ln else ln.clear
    some ⟨id, b, th, { ln' with last := some (id.ent, id.tid) }⟩
  | _, _ => none

/-- The PC after an instruction (R322). -/
def State.seqPc (s : State) (c : Ctx) : CodeAddr :=
  match s.ibufFind c.id c.blk.tenant (blockOfPc c.th.pc.toNat) with
  | some k => nextPc k c.th.pc
  | none => c.th.pc + 12

/-- The instruction word at a thread's PC. -/
def State.wordAt (s : State) (c : Ctx) : Nat :=
  match s.ibufFind c.id c.blk.tenant (blockOfPc c.th.pc.toNat) with
  | some k => (k.words[slotOfPc c.th.pc.toNat]?.getD 0).toNat
  | none => 0

/-- Latency and issue cycles under the block's contract (R143, R281). -/
def Use.cycles (u : Use) (b : Block) : Nat × Nat :=
  let k := if u.lat.scaled then 2 ^ b.contract.speed else 1
  (u.lat.cycles.1 * k, u.lat.cycles.2 * k)

/-- Issue cycles of a thread's instruction, twice under `TWIN` (R143, R294). -/
def Use.issueCycles (u : Use) (b : Block) : Nat := (u.cycles b).2 * (if b.flag 1 then 2 else 1)

/-- The results that stay pending after an issue: registers, the condition register and the latch of the destination. -/
def Use.pends (u : Use) (c : Ctx) (now : Nat) : List Pend :=
  let n := (u.cycles c.blk).1
  match u.dst with
  | some (d, k) =>
    if n ≤ 1 then []
    else [⟨c.th.fbase + d.reg.toNat, if d.nwb then 0 else k, if d.cce then some d.cct else none, now + n, some 0⟩]
  | none => []

/-- Registers that the last-use marks free, but for those that the instruction then writes (R154). -/
def Use.frees (u : Use) (results : Bool) (i : Nat) : Bool :=
  u.marked.any (fun r => decide (r.1 ≤ i) && decide (i < r.1 + r.2))
    && !(results && u.writes.any (fun r => decide (r.1 ≤ i) && decide (i < r.1 + r.2)))

/-- The results that a thread still awaits when an instruction issues: in a chain each moves up a latch when the instruction
produces a result; outside one no latch is read (R158, R159). -/
def Thread.awaited (th : Thread) (u : Use) (c : Ctx) (now : Nat) (results : Bool) : List Pend :=
  (th.pend.filter (fun p => decide (now < p.at_))).map (fun p =>
    { p with latch := if c.th.chain.isNone then none else if results && u.dst.isSome then p.latch.map (· + 1) else p.latch })

/-- What every completed issue does to its thread: last uses, the chain, the gap and the pending results. -/
def Thread.issued (th : Thread) (u : Use) (c : Ctx) (now : Nat) (results : Bool) : Thread :=
  let th1 := if u.head.lua || u.head.lub || u.head.luc then
      th.freeRegs (fun i => decide (c.th.fbase ≤ i) && u.frees results (i - c.th.fbase))
    else th
  { th1 with
    chain := c.th.chainAfter u.head.chain
    verified := false
    released := false
    remote := []
    notBefore := now + u.issueCycles c.blk + u.head.gap.toNat
    lastIssue := now
    pend := th1.awaited u c now results ++ (if results then u.pends c now else []) }

/-- The end of an instruction in a lane. -/
def finishLane (u : Use) (c : Ctx) (next : CodeAddr) : LaneOut → State
  | .done s => s.modThread c.id (fun th => { th.issued u c s.cycle true with pc := next })
  | .jump pc s => s.modThread c.id (fun th => { th.issued u c s.cycle true with pc := pc })
  | .trap t s => s.trapAt c.id t u.head.chain c.th.pc.toNat
  | .hold va w s => s.holdAt c.id va w
  | .park st pc s =>
    s.modThread c.id (fun th =>
      { th.issued u c s.cycle true with pc := pc, status := st, stale := false, passed := 0 })
  | .gather st s => s.modThread c.id (fun th => { th with status := st, stale := false, passed := 0 })
  | .wait w s => s.modThread c.id (fun th => { th with wait := some w })
  | .gone s => s

/-- A poisoned value is consumed: its record, then the poison trap (R288). -/
def Ctx.poisoned (c : Ctx) (s : State) (kind va src : Nat) : LaneOut :=
  .trap { kind := 0x10, addr := va } (s.consumed c.id kind c.th.pc.toNat va src)

/-- A latch source is read where R159 does not allow it. -/
def Use.latchBad (u : Use) (c : Ctx) : Bool :=
  u.latches.any (fun l => c.th.chain.isNone || !(c.ln.latch l).valid)

/-- A guard-false thread: last uses and the next PC, nothing else (R317). -/
def skipLane (u : Use) (c : Ctx) (next : CodeAddr) (s : State) : State :=
  s.modThread c.id (fun th => { th.issued u c s.cycle false with pc := next })

/-- A lane that would trap at its operands is dropped: that of a `PREF`, and that of a demoted thread's `ST`, `RED` or `ATFX`
(R168, R410). -/
def Use.drops (u : Use) (c : Ctx) : Bool := u.quiet || (u.quietDem && c.th.dem)

/-- The checks that come before an instruction's own effect in a lane whose guard is true: frame, latches, room for the
destination; then the effect. -/
def Use.lane (u : Use) (body : State → Ctx → LaneOut) (s : State) (c : Ctx) : LaneOut :=
  if u.beyondFrame c.th.frame then (if u.drops c then .done s else .trap { kind := 0x05 } s)
  else if u.latchBad c then (if u.drops c then .done s else .trap { kind := 0x06 } s)
  else match s.allocate c.id u.writes with
    | (s1, .ready) => body s1 c
    | (s1, .hold va) => .hold va true s1
    | (s1, .killed) => .gone s1

/-- The guard reads a poisoned condition register (R288); `NOP` reads none (R346), and `PREF`, `PHASE` and `FENCE` take no trap for
it (R410, R415). -/
def Use.guardPoison (u : Use) (c : Ctx) : Bool :=
  u.head.cond != 14 && (c.th.ccs.get u.head.csel).poison && !c.th.dem && !u.tame

/-- One lane of a shed executes an instruction. -/
def runLane (u : Use) (body : State → Ctx → LaneOut) (s : State) (id : ThreadId) : State :=
  match s.ctx id with
  | none => s
  | some c =>
    if c.th.exited then s
    else
      let s1 := s.setLane c.ln
      let next := s1.seqPc c
      if u.guardPoison c then finishLane u c next (c.poisoned s1 0x02 0 0)
      else if guardTrue u.head c.th.ccs then finishLane u c next (u.lane body s1 c)
      else skipLane u c next s1

/-- The meters' account of a shed's issue slots (R30). -/
def State.slotsUsed (s : State) (sh : Shed) (n : Nat) : Power :=
  match sh.members.head?.bind (fun id => s.block? id.core id.ent) with
  | some b => { s.power with used := addUsage s.power.used ⟨0, sh.core, b.tenant, some (b.rec_.node, b.rec_.gen), n⟩ }
  | none => s.power

/-- The partition of a shed is busy for the issue cycles of its instruction, twice under `TWIN` (R143, R294); the slots are on the
account of the block that it serves (R30). -/
def State.occupy (s : State) (sh : Shed) (n : Nat) : State :=
  { s.modCore sh.core (fun c => { c with busy := insertNat c.busy sh.part (s.cycle, s.cycle + n) }) with
    power := s.slotsUsed sh n }

/-- Issue cycles of a shed. -/
def Use.shedCycles (u : Use) (cs : List Ctx) : Nat :=
  cs.foldl (fun n c => Nat.max n (u.issueCycles c.blk)) 1

/-- Every non-exited thread of a shed takes the illegal-instruction trap, with the whole word (R325). -/
def illegalShed (s : State) (sh : Shed) (word : Nat) : State :=
  runAll (fun (s : State) id => s.trapAt id { kind := 0x00, word := word } false sh.pc.toNat) sh.members
    ({ s with shed := none } : State)

/-! ## Twin issue (R294, R295) and impossible rollbacks (R303) -/

/-- A rollback is impossible: a KIND 0x21 record and the gang's end, once for both copies of a verified pair. -/
def State.rollbackFail (s : State) (core ent cause : Nat) : State :=
  match s.block? core ent with
  | some b =>
    if b.killed then s
    else (s.tenantRecord b.tenant (b.record { kind := 0x21, sev := 2, src := 9, synd := cause })).killGang core ent
  | none => s

/-- A rollback begins: issue stops and chains are abandoned (R302), unless it is impossible (R303). -/
def State.startRollback (s : State) (core ent : Nat) : State :=
  match s.block? core ent with
  | none => s
  | some b => match b.snap with
    | none => s.rollbackFail core ent 1
    | some sn =>
      if sn.unprot then s.rollbackFail core ent 2
      else if 2 ≤ sn.rolls then s.rollbackFail core ent 4
      else if sn.rolling then s
      else s.modBlock core ent (fun b =>
        { b with
          snap := some { sn with rolling := true, point := false }
          threads := b.threads.map Thread.abortChain
          copies := b.copies.map (fun k => { k with awaited := true }) })

/-- The two issues of a shed, which have taken its issue cycles, differ: nothing commits; a KIND 0x10 record; rollback or the gang's end. -/
def twinFail (s : State) (c : Ctx) : State :=
  let lane := (laneOf c.id.tid + 1) % 32
  (s.threadRec c.id { kind := 0x10, sev := 1, src := 7, pc := c.th.pc.toNat, synd := lane }).startRollback c.id.core c.id.ent

/-- The member of a shed whose rotated issue differs, when its block runs under `TWIN`. -/
def Shed.twinCtx (sh : Shed) (cs : List Ctx) : Option Ctx :=
  match sh.twinLane with
  | some l => cs.find? (fun c => laneOf c.id.tid == l && c.blk.flag 1)
  | none => none

/-! ## A shed -/

/-- What the lanes of a shed share: the state before any of them executed, and the lanes that execute the instruction
with a true guard, undemoted, within their frames, with room for its results. -/
structure Peers where
  before : State
  lanes : List Ctx

/-- The contexts of a shed's members. -/
def State.ctxs (s : State) (ids : List ThreadId) : List Ctx := ids.filterMap s.ctx

/-- The lanes that will execute the instruction's effect. -/
def Use.active (u : Use) (s : State) (cs : List Ctx) : List Ctx :=
  cs.filter (fun c => !c.th.exited && guardTrue u.head c.th.ccs && !u.guardPoison c && !c.th.dem
    && !u.beyondFrame c.th.frame && !u.latchBad c && (s.allocate c.id u.writes).2 == .ready)

/-- An eighth instruction of a chain that carries CHAIN is illegal (R161). -/
def Use.chainTooLong (u : Use) (c : Ctx) : Bool :=
  u.head.chain && (match c.th.chain with | some x => decide (7 ≤ x.count) | none => false)

/-- A shed executes an instruction: whole-shed checks, then lane by lane in ascending lane order. -/
def runShedWith (u : Use) (illegal : State → Ctx → Bool) (body : Peers → State → Ctx → LaneOut) (s : State) : State :=
  match s.shed with
  | none => s
  | some sh =>
    let s0 : State := { s with shed := none }
    let cs := s0.ctxs sh.members
    match sh.twinCtx cs with
    | some c => twinFail (s0.occupy sh (u.shedCycles cs)) c
    | none =>
      let s1 := s0.occupy sh (u.shedCycles cs)
      match cs.find? (fun c => u.chainTooLong c || illegal s1 c) with
      | some c => illegalShed s1 sh (s1.wordAt c)
      | none => runAll (runLane u (body ⟨s1, u.active s1 cs⟩)) sh.members s1

/-- A shed executes an instruction whose lanes are independent. -/
def runShed (u : Use) (body : State → Ctx → LaneOut) (s : State) : State :=
  runShedWith u (fun _ _ => false) (fun _ => body) s

/-- The outcome of an instruction. -/
def instr (i : Instr) (body : State → Ctx → LaneOut) (s : State) : Host.Outcome State Fault Refusal :=
  match useOf i with
  | some u => .next (runShed u body s)
  | none => .next s

/-- The outcome of an instruction whose lanes share a step. -/
def instrWith (i : Instr) (body : Peers → State → Ctx → LaneOut) (s : State) : Host.Outcome State Fault Refusal :=
  match useOf i with
  | some u => .next (runShedWith u (fun _ _ => false) body s)
  | none => .next s

/-! ## Results -/

/-- `WriteDst` (R339): the register and the latches take the result, the condition register its flags, both with the
result's poison (R287). -/
def State.writeDst (s : State) (c : Ctx) (d : Dst) (wide : Bool) (v : UVal) (fl : Option Flags) : State :=
  let s1 := s.writeVec c.id d wide v true
  match fl with
  | some f => if d.cce then s1.modThread c.id (fun th => { th with ccs := th.ccs.set d.cct ⟨f, v.poison⟩ }) else s1
  | none => s1

/-- `RaiseFP` (R339). -/
def State.raiseFP (s : State) (c : Ctx) (f : BitVec 5) : State :=
  if f = 0 then s else s.modThread c.id (fun th => { th with fpstat := th.fpstat ||| f })

/-- The token trap where a uniform write or a block-exclusive operation is not allowed (R168, R169). -/
def Ctx.holdsToken (c : Ctx) (s : State) : Bool :=
  !c.th.dem && (match s.block? c.id.core c.id.ent with | some b => b.token == some c.id.tid | none => false)

end Sys2Proof.Machine
end

