-- ==== Sys2Proof/Machine/Cross.lean ====
section
/-! DEFINITION. Rendezvous and the cross-lane instructions (R165, R166, R170, R373, R394 to R401). -/

namespace Sys2Proof.Machine

/-- A participant of a rendezvous and its guard. -/
structure Part where
  c : Ctx
  guard : Bool

def Part.lane (p : Part) : Nat := laneOf p.c.id.tid

/-- The participant of a lane. -/
def partAt (ps : List Part) (l : Nat) : Option Part := ps.find? (fun p => p.lane == l)

/-! ## Values and results -/

/-- Reading the source would trap the thread: a register at or beyond its frame (R151), or a latch where R159 allows none. -/
def Ctx.readTraps (c : Ctx) (wide : Bool) : Src → Bool
  | .v r => decide (c.th.frame < r.toNat + wid wide)
  | .b l => c.th.chain.isNone || !(c.ln.latch l).valid
  | _ => false

/-- A source of a participant; zero where reading it would trap a guard-false thread (R394). -/
def Part.value (p : Part) (s : State) (imm : Word) (wide : Bool) (x : Src) : UVal :=
  if !p.guard && p.c.readTraps wide x then ⟨0, false⟩ else p.c.src s imm wide x

/-- A result delivered to a participant. -/
def Part.deliver (p : Part) (s : State) (d : Dst) (wide : Bool) (v : UVal) (fl : Option Flags) (f : BitVec 5) : State :=
  (s.writeDst p.c d wide v fl).raiseFP p.c f

/-- Every receiving participant gets what `f` says for it. -/
def deliverAll (ps : List Part) (s : State) (d : Dst) (wide : Bool) (f : Part → UVal × Option Flags × BitVec 5) : State :=
  runAll (fun (s : State) p => if p.guard then let r := f p; p.deliver s d wide r.1 r.2.1 r.2.2 else s) ps s

/-! ## XSHF (R396) -/

/-- The source lane of a shuffle. -/
def shuffleLane (md : ShMode) (w : Bool) (l dv : Nat) : Int :=
  let d := if w then (if 6 ≤ dv then 0 else 32 / 2 ^ dv) else dv
  match md with
  | .up => (l : Int) - d
  | .down => (l : Int) + d
  | .xor => (l ^^^ d : Nat)
  | .idx => d

def xshfEffect (p : Xshf) (s : State) (ps : List Part) : State :=
  deliverAll ps s p.d p.wide (fun x =>
    let dv := x.value s p.imm false p.b
    let own := x.value s p.imm p.wide p.a
    let src := shuffleLane p.md p.w x.lane dv.nat
    let got : UVal := if src < 0 || 32 ≤ src then own
      else match partAt ps src.toNat with
        | some y => y.value s p.imm p.wide p.a
        | none => ⟨0, false⟩
    (⟨got.val, got.poison || dv.poison⟩, none, 0))

/-! ## XRED and XSCAN (R397, R398) -/

/-- A contribution: bits, poison, and the flags raised in forming it. -/
structure Contrib where
  bits : Nat
  poison : Bool
  flags : BitVec 5

/-- `Op` of R397 on bits. -/
def redOp (t : Ty) (op : RedOp) (flush : Bool) (a b : Nat) : Nat × BitVec 5 :=
  let w := tyBits t
  if t == .f32 || t == .f64 then
    let f := tyFmt t
    match op with
    | .min => (f.minmax flush false a b, 0)
    | .max => (f.minmax flush true a b, 0)
    | _ => f.addR .rne flush (f.read flush a) (f.read flush b)
  else match op with
    | .add => ((a + b) % 2 ^ w, 0)
    | .min => (if ext t a ≤ ext t b then a else b, 0)
    | .max => (if ext t b ≤ ext t a then a else b, 0)
    | .and => (a &&& b, 0)
    | .or => (a ||| b, 0)
    | .xor => (a ^^^ b, 0)

/-- `Op2` (R397). -/
def redOp2 (t : Ty) (op : RedOp) (flush : Bool) : Option Contrib → Option Contrib → Option Contrib
  | none, v => v
  | u, none => u
  | some u, some v =>
    let r := redOp t op flush u.bits v.bits
    some ⟨r.1, u.poison || v.poison, u.flags ||| v.flags ||| r.2⟩

/-- One step of the butterfly. -/
def butterfly (t : Ty) (op : RedOp) (flush : Bool) (j : Nat) (x : List (Option Contrib)) : List (Option Contrib) :=
  (List.range 32).map (fun l =>
    let m := l ^^^ 2 ^ j
    let lo := if l < m then l else m
    let hi := if l < m then m else l
    redOp2 t op flush (x[lo]?.getD none) (x[hi]?.getD none))

/-- The contributions of the lanes. -/
def contribs (ps : List Part) (s : State) (imm : Word) (wide : Bool) (a : Src) : List (Option Contrib) :=
  (List.range 32).map (fun l => match partAt ps l with
    | some x => if x.guard then let v := x.value s imm wide a; some ⟨v.nat, v.poison, 0⟩ else none
    | none => none)

/-- The flush rule of the participants' block. -/
def vsubOf (ps : List Part) : Bool := match ps with | p :: _ => p.c.blk.contract.vsub | [] => false

def xredEffect (p : Xred) (s : State) (ps : List Part) : State :=
  let x := runAll (fun x j => butterfly p.ty p.op (vsubOf ps) j x) (List.range 5) (contribs ps s p.imm p.ty.wide p.a)
  deliverAll ps s p.d p.ty.wide (fun y => match x[y.lane]?.getD none with
    | some r => (⟨BitVec.ofNat 64 r.bits, r.poison⟩, none, r.flags)
    | none => (⟨0, false⟩, none, 0))

/-- The identity of an exclusive scan without contributions (R398). -/
def scanIdentity (t : Ty) (op : RedOp) : Nat :=
  let w := tyBits t
  if t == .f32 || t == .f64 then
    match op with
    | .min => (tyFmt t).infBits false
    | .max => (tyFmt t).infBits true
    | _ => 0
  else match op with
    | .min => lowBits w (tyHi t)
    | .max => lowBits w (tyLo t)
    | .and => 2 ^ w - 1
    | _ => 0

def xscanEffect (p : Xred) (s : State) (ps : List Part) : State :=
  let x := contribs ps s p.imm p.ty.wide p.a
  deliverAll ps s p.d p.ty.wide (fun y =>
    let n := if p.exc then y.lane else y.lane + 1
    match (x.take n).foldl (redOp2 p.ty p.op (vsubOf ps)) none with
    | some r => (⟨BitVec.ofNat 64 r.bits, r.poison⟩, none, r.flags)
    | none => (⟨BitVec.ofNat 64 (scanIdentity p.ty p.op), false⟩, none, 0))

/-! ## XVOTE (R399) -/

/-- The result of a vote for a lane, and whether a contribution that formed it is poisoned. -/
def voteOf (op : VoteOp) (k : BitVec 2) (l : Nat) (x : List (Option Contrib)) : Nat × Bool :=
  let present := x.filterMap id
  let pred (i : Nat) : Bool := match x[i]?.getD none with | some c => c.bits != 0 | none => false
  let count (n : Nat) : Nat := ((List.range n).filter pred).length
  let poisoned := present.any (·.poison)
  match op with
  | .orp => (b2n (present.any (fun c => c.bits != 0)), poisoned)
  | .andp => (b2n (present.all (fun c => c.bits != 0)), poisoned)
  | .map => (if k = 0 then bitsFrom pred 32 else 0, k == 0 && poisoned)
  | .eqv => (b2n (match present with | c :: cs => cs.all (fun d => d.bits == c.bits) | [] => true), poisoned)
  | .cnt => (count 32, poisoned)
  | .first => (((List.range 32).find? pred).getD 0xFFFFFFFF, poisoned)
  | .below => (count l, (x.take l).any (fun c => match c with | some y => y.poison | none => false))

def xvoteEffect (p : Xvote) (s : State) (ps : List Part) : State :=
  let x := contribs ps s p.imm false p.a
  deliverAll ps s p.d false (fun y =>
    let r := voteOf p.op p.k y.lane x
    (⟨BitVec.ofNat 64 r.1, r.2⟩, some (nzFlags 32 r.1 false false), 0))

/-! ## XCMX (R400) -/

/-- The order of keys: FP32 patterns in the IEEE 754 total order. -/
def keyLt (t : Ty) (a b : Nat) : Bool :=
  let total (x : Nat) : Nat := if bitOf x 31 then 2 ^ 32 - 1 - x else x + 2 ^ 31
  if t == .f32 then decide (total a < total b) else decide (ext t a < ext t b)

def xcmxEffect (p : Xcmx) (s : State) (ps : List Part) : State :=
  let active := ps.filter (·.guard)
  deliverAll ps s p.d true (fun x =>
    let pair (y : Part) : UVal × UVal := (y.value s 0 false p.a, y.value s 0 false p.b)
    let l := x.lane
    let m := l ^^^ 2 ^ p.j.toNat
    let own := pair x
    let out (key pay : UVal) (poison : Bool) : UVal × Option Flags × BitVec 5 :=
      (⟨BitVec.ofNat 64 (key.nat + pay.nat * 2 ^ 32), poison⟩, none, 0)
    match if m < 32 then partAt active m else none with
    | none => out own.1 own.2 (own.1.poison || own.2.poison)
    | some y =>
      let oth := pair y
      let wantMin := (l / 2 ^ p.k.toNat % 2 == 0) == decide (l < m)
      let take := if wantMin then keyLt p.ty oth.1.nat own.1.nat else keyLt p.ty own.1.nat oth.1.nat
      let r := if take then oth else own
      out r.1 r.2 (own.1.poison || oth.1.poison || r.2.poison))

/-! ## ELECT (R170, R373) -/

/-- The token passes to the lowest-numbered thread of those that are guard-true and not demoted. -/
def electEffect (d : Dst) (s : State) (ps : List Part) : State :=
  let pool := ps.filter (fun x => x.guard && !x.c.th.dem)
  match bestBy (fun (a b : Part) => decide (a.c.id.tid < b.c.id.tid)) pool with
  | none => deliverAll ps s d false (fun _ => (⟨0, false⟩, some (nzFlags 32 0 false false), 0))
  | some w =>
    let s1 := s.modBlock w.c.id.core w.c.id.ent (fun b => { b with token := some w.c.id.tid })
    deliverAll ps s1 d false (fun x =>
      let r := b2n (x.c.id.tid == w.c.id.tid)
      (⟨BitVec.ofNat 64 r, false⟩, some ⟨false, r == 0, false, false⟩, 0))

/-! ## The rendezvous itself (R165, R166) -/

/-- What a rendezvous instruction does once for its participants. `MEET` fences at block scope (R401), which orders
accesses that this model performs in order already. -/
def meetEffect (i : Instr) (s : State) (ps : List Part) : State :=
  match i with
  | .xshf p => xshfEffect p s ps
  | .xred p => xredEffect p s ps
  | .xscan p => xscanEffect p s ps
  | .xvote p => xvoteEffect p s ps
  | .xcmx p => xcmxEffect p s ps
  | .electWv p => electEffect p.d s ps
  | .electBlk p => electEffect p.d s ps
  | _ => s

/-- A participant goes on at the next instruction. -/
def finishPart (u : Use) (s : State) (p : Part) : State :=
  let next := s.seqPc p.c
  s.modThread p.c.id (fun th => { th.issued u p.c s.cycle p.guard with pc := next, status := .run })

/-- Room in every lane that receives a result; false when a gang was killed or a page is not valid, which holds the thread: it
arrives again when the page is mapped (R157). -/
def roomFor (u : Use) (s : State) : List Part → State × Bool
  | [] => (s, true)
  | p :: ps =>
    if !p.guard then roomFor u s ps
    else match s.allocate p.c.id u.writes with
      | (s1, .ready) => roomFor u s1 ps
      | (s1, .hold va) => (s1.holdAt p.c.id va true, false)
      | (s1, .killed) => (s1, false)

/-- Registers that the instruction needs and that lie in the backing store (R156, R394). -/
def Thread.absent (th : Thread) (u : Use) : List Nat :=
  let gs := (u.reads ++ u.writes).flatMap (fun r => regGranules (th.fbase + r.1) r.2)
  (th.spills.map (·.g)).filter gs.contains

/-- The threads of a weave that have not exited. -/
def Block.weave (b : Block) (w : Nat) : List Thread := b.threads.filter (fun th => weaveOf th.tid == w && !th.exited)

/-- The instruction and guard of a held thread. -/
def Status.met : Status → Option (Bool × Instr)
  | .rendezvous g i => some (g, i)
  | .electBlk g i => some (g, i)
  | _ => none

/-- Under `TWIN` the executing shed of a rendezvous is issued twice like any other: the participant whose rotated issue differs
(R175, R294). Whether one differs is open (assumption 87). -/
def meetDiffers (s : State) (b : Block) (ps : List Part) : Option Part :=
  if b.flag 1 then match ps with
    | p :: _ => (Config.twinMeet s.cycle b.core (weaveOf p.c.id.tid)).bind (fun l => partAt ps l)
    | [] => none
  else none

/-- Held threads that all stand at one PC and depth execute their instruction once; held ones that do not take the
rendezvous-divergence trap (R166). -/
def State.converge (s : State) (b : Block) (ths : List Thread) : State :=
  match ths with
  | [] => s
  | t :: _ =>
    if ths.all (fun x => x.pc == t.pc && x.depth == t.depth) then
      match t.status.met with
      | none => s
      | some (_, i) => match useOf i with
        | none => s
        | some u =>
          if ths.any (fun x => !(x.absent u).isEmpty) then s
          else
            let mk (s : State) : List Part := ths.filterMap (fun x => match s.ctx (b.idOf x.tid), x.status.met with
              | some c, some (g, _) => some ⟨c, g⟩
              | _, _ => none)
            match roomFor u s (mk s) with
            | (s1, false) => s1
            | (s1, true) =>
              let ps := mk s1
              match meetDiffers s1 b ps with
              | some p => twinFail s1 p.c
              | none =>
              let s2 := runAll (fun (s : State) p => s.setLane p.c.ln) ps s1
              runAll (finishPart u) ps (meetEffect i s2 ps)
    else runAll (fun (s : State) x => s.trapAt (b.idOf x.tid) { kind := 0x08 } false x.pc.toNat) ths s

/-- A weave whose threads are all held at a rendezvous. -/
def State.tryWeave (s : State) (core ent w : Nat) : State :=
  match s.block? core ent with
  | none => s
  | some b =>
    let ths := b.weave w
    if ths.all (fun x => match x.status with | .rendezvous _ _ => true | _ => false) then s.converge b ths else s

/-- A block whose threads, demoted ones apart, are all held at an `ELECT` of block scope (R170). -/
def State.tryElect (s : State) (core ent : Nat) : State :=
  match s.block? core ent with
  | none => s
  | some b =>
    let ths := b.threads.filter (fun x => !x.exited && !x.dem)
    if ths.all (fun x => match x.status with | .electBlk _ _ => true | _ => false) then s.converge b ths else s

/-- Rendezvous that the events of a thread may have completed. -/
def State.tryMeet (s : State) (id : ThreadId) : State := (s.tryWeave id.core id.ent (weaveOf id.tid)).tryElect id.core id.ent

/-- One lane arrives: its guard's poison, its frame and its latches are checked, and it is held (R165). -/
def arriveLane (i : Instr) (u : Use) (s : State) (id : ThreadId) : State :=
  match s.ctx id with
  | none => s
  | some c =>
    if c.th.exited then s
    else
      let s1 := s.setLane c.ln
      let next := s1.seqPc c
      let g := guardTrue u.head c.th.ccs
      let blk := match i with | .electBlk _ => true | _ => false
      if u.guardPoison c then finishLane u c next (c.poisoned s1 0x02 0 0)
      else if g && u.beyondFrame c.th.frame then finishLane u c next (.trap { kind := 0x05 } s1)
      else if g && u.latchBad c then finishLane u c next (.trap { kind := 0x06 } s1)
      else if blk && c.th.dem then finishLane u c next (.done s1)
      else finishLane u c next (.gather (if blk then .electBlk g i else .rendezvous g i) s1)

/-- A shed arrives at a rendezvous, which executes once nobody is missing. -/
def runMeet (i : Instr) (u : Use) (s : State) : State :=
  match s.shed with
  | none => s
  | some sh =>
    let s0 : State := { s with shed := none }
    let cs := s0.ctxs sh.members
    match sh.twinCtx cs with
    | some c => twinFail (s0.occupy sh (u.shedCycles cs)) c
    | none =>
      let s1 := s0.occupy sh (u.shedCycles cs)
      match cs.find? u.chainTooLong with
      | some c => illegalShed s1 sh (s1.wordAt c)
      | none => runAll State.tryMeet sh.members (runAll (arriveLane i u) sh.members s1)

/-- The outcome of a rendezvous instruction. -/
def meet (i : Instr) (s : State) : Host.Outcome State Fault Refusal :=
  match useOf i with
  | some u => .next (runMeet i u s)
  | none => .next s

/-! ## The instructions -/

def execXshf (p : Xshf) (s : State) : Host.Outcome State Fault Refusal := meet (.xshf p) s
def execXred (p : Xred) (s : State) : Host.Outcome State Fault Refusal := meet (.xred p) s
def execXscan (p : Xred) (s : State) : Host.Outcome State Fault Refusal := meet (.xscan p) s
def execXvote (p : Xvote) (s : State) : Host.Outcome State Fault Refusal := meet (.xvote p) s
def execXcmx (p : Xcmx) (s : State) : Host.Outcome State Fault Refusal := meet (.xcmx p) s
def execMeet (p : Plain) (s : State) : Host.Outcome State Fault Refusal := meet (.meet p) s

end Sys2Proof.Machine
end

