-- ==== Sys2Proof/Machine/Issue.lean ====
section
/-! DEFINITION. Readiness, the heddle and the events of issue: ISSUE_OPPORTUNITY, GAP_ELAPSED, YIELD_WAKE, LOAD_DATA_RETURN, FETCH_BLOCK_FILL, GRANULE_FILL (R142 to R149, R156, R173, R174, R323). -/

namespace Sys2Proof.Machine

/-! ## Time passes -/

/-- Cycles of `[now, now + n)` in which a partition's issue is free, the cycle of an issue itself included (R174). -/
def freeCycles (now n issued until_ : Nat) : Nat :=
  (if until_ ≤ now then n else if until_ ≤ now + n then now + n - until_ else 0)
    + (if now < until_ && issued == now && decide (0 < n) then 1 else 0)

/-- `n` cycles pass; yielded threads count the free cycles of their partition (R174). -/
def State.pass (s : State) (n : Nat) : State :=
  let s1 := s.advance n
  if s.blocks.any (fun b => b.threads.any (fun th => th.yieldLeft != 0)) then
    { s1 with
      blocks := s.blocks.map (fun b =>
        { b with threads := b.threads.map (fun th =>
          let x := lookupNat (0, 0) (s.core b.core).busy (partOf th.tid)
          { th with yieldLeft := th.yieldLeft - freeCycles s.cycle n x.1 x.2 }) }) }
  else s1

/-! ## Readiness (R142) -/

/-- The instruction that a thread issues next, when its block is in the buffer. -/
def State.nextInstr (s : State) (b : Block) (th : Thread) : Option (Except Reject Instr) :=
  (s.ibufFind (b.idOf th.tid) b.tenant (blockOfPc th.pc.toNat)).map (fun k =>
    decode (k.words[slotOfPc th.pc.toNat]?.getD 0))

/-- What the next instruction uses; nothing for a word that is no instruction. -/
def nextUse : Except Reject Instr → Option Use
  | .ok i => useOf i
  | .error _ => none

/-- Two register ranges meet. -/
def rangesMeet (a n b m : Nat) : Bool := decide (a < b + m) && decide (b < a + n)

/-- Condition registers that an instruction reads or writes. -/
def Use.condRegs (u : Use) : List (BitVec 2) :=
  (if u.head.cond == 14 then [] else [u.head.csel]) ++ u.ccs
    ++ (match u.dst with | some (d, _) => if d.cce then [d.cct] else [] | none => [])

/-- Uniform registers that an instruction reads. -/
def Use.unis (u : Use) : List Nat :=
  u.recs.flatMap (fun r => (List.range 4).map (· + r.toNat))
    ++ [u.a, u.b, u.c].flatMap (fun s => match s with | some (.s r, n) => (List.range n).map (· + r.toNat) | _ => [])

/-- Some register, latch or condition register that the instruction reads or writes awaits a result (R142 item 4), also one of the
thread's own chain, whose lane idles then (R164). -/
def Thread.pending (th : Thread) (u : Use) (now : Nat) : Bool :=
  let regs := (u.reads ++ u.writes).map (fun r => (th.fbase + r.1, r.2))
  th.pend.any (fun p => decide (now < p.at_)
      && ((match p.latch with | some k => u.latches.any (fun l => l.toNat == k) | none => false)
        || regs.any (fun r => rangesMeet r.1 r.2 p.first p.count) || (match p.cc with | some k => u.condRegs.contains k | none => false)))
    || th.loads.any (fun l => l.acq
      || (match l.reg with | some (i, w) => regs.any (fun r => rangesMeet r.1 r.2 i (wid w)) | none => false)
      || (match l.cas with | some (k, _) => u.condRegs.contains k | none => false))

/-- Some uniform register that the instruction reads or writes awaits an `SLD` of a thread of the block, or one at which another
thread is held (R369). -/
def Block.uniPending (b : Block) (tid : Nat) (u : Use) : Bool :=
  let rs := u.unis ++ (match u.udst with | some r => [r.toNat] | none => [])
  b.threads.any (fun th => th.loads.any (fun l => match l.uni with | some (r, _) => rs.contains r.toNat | none => false)
    || (th.tid != tid && th.heldUni.any (fun r => rs.contains r.toNat)))

/-- Another thread's chain locks the lane (R142 item 2). -/
def State.laneLocked (s : State) (id : ThreadId) : Bool :=
  (s.laneThreads id).any (fun x => x.2.chain.isSome && !(x.1.ent == id.ent && x.2.tid == id.tid))

/-- A block is parked: none of its non-exited threads is ready-capable (R173). -/
def Block.parked (b : Block) : Bool := b.threads.all (fun th => th.exited || th.status != .run)

/-- The entry of the block that holds control of a core (R173; assumption 17). -/
def State.control (s : State) (core : Nat) : Option Nat :=
  (s.core core).control.find? (fun e => match s.block? core e with | some b => !b.parked | none => false)

/-- Commands of a thread that wait beyond the limit of their queue (R424, R428, R437). -/
def State.queueFull (s : State) (b : Block) (tid : Nat) : Bool :=
  (b.copies.drop Config.copyMax).any (fun k => k.tid == tid)
    || (((s.fabric.cmds.filter (fun k => k.core == b.core)).drop Config.fabricMax).any
      (fun k => k.owner.tid == b.idOf tid))
    || (((s.engine (quadOf b.core)).table.drop (Config.mxTableMax - b2n (s.engine (quadOf b.core)).running.isSome)).any
      (fun x => x.core == b.core && x.ent == b.ent && x.tid == tid))

/-- The block's side-log entries have replayed (R204, R227). -/
def State.sideLogClear (s : State) (b : Block) : Bool :=
  !(s.core b.core).sideLog.any (fun e => e.slote == b.ent)

/-- The entries of the block that a fence waits for have replayed: its stores, or all (R226, R249; assumption 90). -/
def State.fenceClear (s : State) (b : Block) (stores : Bool) : Bool :=
  !(s.core b.core).sideLog.any (fun e => e.slote == b.ent && (!stores || e.op == 1))

/-- Loads of a thread whose answer has not come. -/
def Thread.awaits (th : Thread) : Bool :=
  th.loads.any (fun l => match l.await with | some (.answer _ _ _) => true | _ => false)

/-- Every acknowledgement that a `.SYS` release of the core waits for has come (R50, R207). -/
def State.fabricClear (s : State) (core : Nat) : Bool :=
  !s.fabric.markers.any (fun m => m.core == core)
    && !s.fabric.cmds.any (fun k => k.core == core && k.final.isSome)
    && !s.fabric.unacked.any (fun u => u.core == core && !u.acked && (match u.origin with
      | .store _ => true
      | .command _ => true
      | .copy _ _ => true
      | .load _ _ => u.packet.kind == 0x05 && u.packet.signode.getLsbD 8
      | _ => false))

/-- The core's `PUT` and `PUTS` commands have sent their packets (R50). -/
def State.fabricSent (s : State) (core : Nat) : Bool := s.fabric.cmds.all (fun k => k.core != core || k.form == 2 || k.started)

/-- The effect's result has come. -/
def Effect.settled (e : Effect) : Bool :=
  match e.owed with
  | some (.answer _ _ _) => false
  | some (.command _) => false
  | _ => true

/-- What a thread waits for has happened (R227, R228). A verified thread is released by the comparison itself (R307). -/
def State.waitOver (s : State) (b : Block) (th : Thread) : Bool :=
  match th.wait with
  | none => true
  | some (.release false) => s.sideLogClear b
  | some (.release true) => s.fabricClear b.core && !th.awaits
  | some .commands => s.fabricSent b.core
  | some .chains => decide (s.coll.chains.length < Config.chainMax)
  | some .loads => th.loads.isEmpty
  | some (.fence stores) => s.fenceClear b stores
  | some .lines => th.remote.all (fun l => l.data.isSome || l.fail.isSome)
  | some (.verify _) => false
  | some .result => s.blocks.any (fun x => x.verify == .primary && x.rec_.node == b.rec_.node && x.rec_.gen == b.rec_.gen
      && x.rec_.block == b.rec_.block && x.results.any (fun e => e.thread == th.tid && e.tseq == th.shared && e.settled))

/-- Issue of a block's threads is stopped: not started, being saved, at a snapshot point or in a rollback. -/
def Block.stopped (b : Block) : Bool :=
  !b.started || b.killed || (match b.snap with | some x => x.point || x.rolling | none => false)

/-- `Ready(th)` (R142). -/
def State.ready (s : State) (b : Block) (th : Thread) : Bool :=
  th.status == .run && !b.stopped && (!b.saving || th.chain.isSome) && decide (th.notBefore ≤ s.cycle) && th.yieldLeft == 0
    && s.waitOver b th && !s.queueFull b th.tid && !s.laneLocked (b.idOf th.tid)
    && (!b.flag 0 || s.control b.core == some b.ent)
    && (match s.nextInstr b th with
      | none => false
      | some i => match nextUse i with
        | none => true
        | some u => !th.pending u s.cycle && !b.uniPending th.tid u && (th.absent u).isEmpty)

/-! ## The heddle (R146) -/

/-- A candidate of a partition. -/
structure Cand where
  blk : Block
  th : Thread
  deriving DecidableEq, Repr

/-- `Key(th)`, compared left to right. -/
def Cand.key (c : Cand) : List Int :=
  [(b2n c.th.chain.isSome : Int), (b2n c.th.stale : Int), (c.th.depth : Int), -(c.th.pc.toNat : Int),
   -(c.blk.slotOf c.th.tid : Int)]

/-- Lexicographic order of keys. -/
def keyLess : List Int → List Int → Bool
  | [], _ => false
  | _ :: _, [] => false
  | x :: xs, y :: ys => decide (x < y) || (x == y && keyLess xs ys)

/-- The ready threads of a partition. -/
def State.candidates (s : State) (core part : Nat) : List Cand :=
  (s.blocksOn core).flatMap (fun b =>
    (b.threads.filter (fun th => partOf th.tid == part && s.ready b th)).map (fun th => ⟨b, th⟩))

/-- A lane's member of the shed: the matching thread of the lowest slot. -/
def shedMember (w : Cand) (cs : List Cand) (lane : Nat) : Option Cand :=
  bestBy (fun a b => decide (a.blk.slotOf a.th.tid < b.blk.slotOf b.th.tid))
    (cs.filter (fun c => laneOf c.th.tid == lane && c.th.pc == w.th.pc && c.th.depth == w.th.depth
      && c.blk.tenant == w.blk.tenant))

/-- The shed of a partition: the winner's PC and depth, one thread a lane. -/
def heddle (cs : List Cand) : List Cand :=
  match bestBy (fun a b => keyLess b.key a.key) cs with
  | none => []
  | some w => (List.range Config.lanes).filterMap (shedMember w cs)

/-- Aging of the candidates (R146). -/
def ageThread (inShed frozen : Bool) (agemax : Nat) (th : Thread) : Thread :=
  if inShed then { th with passed := 0, stale := false }
  else if th.stale || frozen then th
  else { th with passed := th.passed + 1, stale := decide (agemax ≤ th.passed + 1) }

/-- Every candidate of an opportunity ages, or is fresh again (R146). -/
def State.age (s : State) (cs shed : List Cand) : State :=
  let frozen := cs.any (fun c => c.th.stale)
  runAll (fun (s : State) c =>
    s.modThread (c.blk.idOf c.th.tid) (ageThread (shed.contains c) frozen (s.tenant c.blk.tenant).agemax)) cs s

/-! ## Before the instruction: environment, control and first instructions -/

/-- A parked block with threads at a `YIELD` passes control and moves to the end of the list (R174). -/
def State.passControl (s : State) (core : Nat) : State :=
  let c := s.core core
  match c.control.find? (fun e => match s.block? core e with
      | some b => b.parked && b.threads.any (fun th => th.status == .yield)
      | none => false) with
  | none => s
  | some e =>
    (s.setCore { c with control := dropNat c.control e ++ [e] }).modBlock core e (fun b =>
      { b with threads := b.threads.map (fun th => if th.status == .yield then { th with status := .run } else th) })

/-- Control passes in the step in which a block parks (R174). -/
def State.settleControl (s : State) : State := runAll (fun (s : State) (c : Core) => s.passControl c.num) s.cores s

/-- A pending trap is taken: at the next PC, or, when it was held (R329), as it first arose. -/
def State.takePending (s : State) (id : ThreadId) (t : PendTrap) : State :=
  let s1 := s.modThread id (fun x => { x with trapNext := x.traps.head?, traps := x.traps.tail })
  let info : TrapInfo := { kind := t.kind, addr := t.addr, info := t.info, word := t.word }
  match t.cause with
  | some pc => s1.takeTrap id info t.inChain pc.toNat
  | none => s1.trapAt id info false ((s.thread? id).map (·.pc.toNat) |>.getD 0)

/-- A thread's pending trap, or a first instruction whose entry block lacks ENTRY or whose frame exceeds launch FRAME,
traps in place of the instruction (R119, R152, R205, R330). An instruction that has issued and waited, as a release does
(R227), goes on before the trap. -/
def State.mayJoin (s : State) (id : ThreadId) : State × Bool :=
  match s.block? id.core id.ent, s.thread? id with
  | some b, some th =>
    match th.trapNext, th.wait with
    | some t, none => (s.takePending id t, false)
    | _, _ =>
      if !th.fresh then (s, true)
      else match s.ibufFind id b.tenant (blockOfPc th.pc.toNat) with
        | none => (s, true)
        | some k =>
          if !k.entry then (s.takeTrap id { kind := 0x02, addr := k.addr } false th.pc.toNat, false)
          else
            let s1 := s.modThread id (fun x => { x with fresh := false, frame := k.frame })
            if b.rec_.frame < k.frame then (s1.takeTrap id { kind := 0x05 } false th.pc.toNat, false) else (s1, true)
  | _, _ => (s, false)

/-- Members that may issue; the others have trapped. -/
def State.admitAll (s : State) : List ThreadId → State × List ThreadId
  | [] => (s, [])
  | id :: ids =>
    let r := s.mayJoin id
    let q := r.1.admitAll ids
    (q.1, if r.2 then id :: q.2 else q.2)

/-- Lines evicted and TLB entries replaced in a cycle (R198, R233). -/
def State.environment (s : State) (core : Nat) (e : CycleEnv) : State :=
  let s1 := runAll (fun (s : State) l => s.flushLine core l) e.evict s
  runAll (fun (s : State) i => s.modCore core (fun c => { c with tlb := c.tlb.eraseIdx i })) e.dropTlb s1

/-! ## The instruction of a formed shed -/

/-- The word at a shed's PC, in its first member's block. -/
def State.shedWord (s : State) (sh : Shed) : Nat :=
  match s.ctxs sh.members with
  | c :: _ => s.wordAt { c with th := { c.th with pc := sh.pc } }
  | [] => 0

/-- The instruction that a formed shed runs (R325). -/
def State.fetched (s : State) (sh : Shed) : Except Reject Instr := decode (BitVec.ofNat 96 (s.shedWord sh))

/-! ## The placing of a word for the next step (assumption 2) -/

/-- A bind record of one thread with the largest frame, Saffron and no flags. -/
def fetchRec : BindRec where
  gen := 0
  node := 0
  prio := 0
  rank := 0
  gsize := 1
  tenant := 0
  resume := false
  img := 0
  block := 0
  entry := 0x1000
  nunif := 0
  threads := 1
  flags := 0
  contract := 0x0301
  frame := 4096
  slotCnt := 1
  slotBase := 0
  scrLen := 0
  scrBase := 0
  seed := 0
  trapTab := 0x10000
  backing := 0x20000

/-- The block of that record, its thread at the first slot of its entry block. -/
def fetchBlock : Block where
  core := 0
  ent := 0
  rec_ := fetchRec
  res := 0
  order := 0
  unif := []
  threads := [{ Thread.start 0 0x1000 with fresh := false, frame := 256 }]
  token := some 0
  started := true
  killed := false
  copies := []
  cmdSeq := 0
  snap := none
  verify := .single
  results := []
  origin := 0
  saving := false
  closing := false

/-- A checked fetch block with one slot. -/
def fetchIBlock (w : BitVec 96) : IBlock := ⟨0, 0x1000, 1, true, 256, [w], none⟩

/-! ## The events -/

/-- The cycles of a GAP hint have passed: the clock stands no earlier than the thread's first ready cycle (R144). -/
def execGapElapsed (core ent tid : Nat) (s : State) : Host.Outcome State Fault Refusal :=
  if Config.cores ≤ core then .fault .noSuchAgent
  else match s.thread? ⟨core, ent, tid⟩ with
    | none => .next s
    | some th => .next ((s.pass (th.notBefore - s.cycle)).modThread ⟨core, ent, tid⟩ (fun t => { t with notBefore := 0 }))

/-- Free issue cycles until a yielded thread wakes: those after the partition's present shed (R174). -/
def State.yieldCycles (s : State) (core : Nat) (th : Thread) : Nat :=
  let x := lookupNat (0, 0) (s.core core).busy (partOf th.tid)
  if th.yieldLeft = 0 then 0
  else (x.2 - s.cycle) + th.yieldLeft - (if s.cycle < x.2 && x.1 == s.cycle then 1 else 0)

/-- A yielded thread is ready again: 32 free cycles of its partition have passed, or in a `DET` grid its block has
parked and passed control (R174). -/
def execYieldWake (core ent tid : Nat) (s : State) : Host.Outcome State Fault Refusal :=
  if Config.cores ≤ core then .fault .noSuchAgent
  else match s.thread? ⟨core, ent, tid⟩ with
    | none => .next s
    | some th =>
      if th.status == .yield then .next (s.passControl core)
      else .next ((s.pass (s.yieldCycles core th)).modThread ⟨core, ent, tid⟩ (fun t => { t with yieldLeft := 0 }))

/-- The flags of a `CAS` (R408). -/
def casFlags (w old cmp : Nat) : Flags := ⟨bitOf old (w - 1), old == cmp, false, false⟩

/-- A load's data is written to its destination (R143), and the thread's acquire follows (R230). -/
def State.returnLoad (s : State) (id : ThreadId) (l : LoadRec) : State :=
  let s1 := match l.reg with
    | some (i, w) => s.modThread id (fun th =>
        let a := th.setOwn i ⟨BitVec.ofNat 32 l.val.nat, l.val.poison⟩
        if w then a.setOwn (i + 1) ⟨BitVec.ofNat 32 (l.val.nat / 2 ^ 32), l.val.poison⟩ else a)
    | none => s
  let s2 := match l.uni with
    | some (r, w) => s1.modBlock id.core id.ent (fun b =>
        b.setUni r.toNat ⟨if w then l.val.val else BitVec.ofNat 64 l.val.low, l.val.poison⟩)
    | none => s1
  let s3 := match l.cas with
    | some (k, x) => s2.modThread id (fun th =>
        let v : CondReg := ⟨casFlags (tyBits l.ty) l.val.nat x, l.val.poison⟩
        { th with ccs := th.ccs.set k v, chain := th.chain.map (fun c => { c with ccs := c.ccs.set k v }) })
    | none => s2
  if l.acq then s3.acquire id.core else s3

/-- What a load in flight waits for has come. -/
def State.mayReturn (s : State) (id : ThreadId) (l : LoadRec) : Bool :=
  match l.await with
  | none => true
  | some .replay => (s.block? id.core id.ent).all s.sideLogClear
  | some (.answer _ _ _) => false
  | some (.command _) => false

/-- The oldest load in flight of a thread returns; one whose answer another module owes waits for it. -/
def execLoadDataReturn (core ent tid : Nat) (s : State) : Host.Outcome State Fault Refusal :=
  if Config.cores ≤ core then .fault .noSuchAgent
  else
    let id : ThreadId := ⟨core, ent, tid⟩
    match s.thread? id with
    | none => .next s
    | some th => match th.loads with
      | [] => .next s
      | l :: ls =>
        if !s.mayReturn id l then .next s
        else .next ((s.modThread id (fun t => { t with loads := ls })).returnLoad id l)

/-- The block that holds a thread's PC is read, checked and placed in the buffer; a failure traps the thread, an
invalid page holds it (R323, R324). -/
def State.fetchFor (s : State) (id : ThreadId) : State :=
  match s.block? id.core id.ent, s.thread? id with
  | some b, some th =>
    let a := blockOfPc th.pc.toNat
    if th.status != .run || (s.ibufFind id b.tenant a).isSome then s
    else match th.trapNext with
    | some t => s.takePending id t
    | none => match s.reach id b.tenant a th.pc.toNat false false with
      | (s1, .ok _) => s1
      | (s1, .hold) => s1.holdAt id a false
      | (s1, .lines) => s1
      | (s1, .trap k info) => s1.trapAt id { kind := k, addr := a, info := info } false th.pc.toNat
  | _, _ => s

def execFetchBlockFill (core ent tid : Nat) (s : State) : Host.Outcome State Fault Refusal :=
  if Config.cores ≤ core then .fault .noSuchAgent else .next (s.fetchFor ⟨core, ent, tid⟩)

/-- A spilled granule of a thread returns; a page that is not valid holds the thread (R156, R157). -/
def execGranuleFill (core ent tid g : Nat) (s : State) : Host.Outcome State Fault Refusal :=
  if Config.cores ≤ core then .fault .noSuchAgent
  else
    let id : ThreadId := ⟨core, ent, tid⟩
    match s.fillGranule id g with
    | (s1, .hold va) => .next (if (s1.thread? id).any (fun th => th.status == .run) then s1.holdAt id va false else s1)
    | (s1, .ready) => .next (s1.tryMeet id)
    | (s1, .killed) => .next s1

end Sys2Proof.Machine
end

