-- ==== Sys2Proof/Machine/Records.lean ====
section
/-! DEFINITION. Buffer records, the address of each lane, ordered accesses, and effects under `SNAP` and `VERIFY` (R177 to R183, R201, R226 to R230, R299 to R301, R306, R307). -/

namespace Sys2Proof.Machine

/-! ## Records (R178, R179) -/

/-- A buffer record. -/
structure Rec where
  base : Nat
  stride : Nat
  extent : Nat
  swzp : Nat
  cache : Nat
  member : Nat
  space : Nat
  oob : Nat
  access : Nat
  esize : Nat
  swz : Nat
  /-- a field marked zero is not zero -/
  stray : Bool
  deriving DecidableEq, Repr

def Rec.of (w : RecWords) : Rec where
  base := field w.w0.toNat 0 54
  stride := field w.w1.toNat 40 24
  extent := field w.w1.toNat 0 40
  swzp := field w.w2.toNat 20 16
  cache := field w.w2.toNat 16 4
  member := field w.w2.toNat 14 2
  space := field w.w2.toNat 12 2
  oob := field w.w2.toNat 10 2
  access := field w.w2.toNat 8 2
  esize := field w.w2.toNat 4 4
  swz := field w.w2.toNat 0 4
  stray := field w.w0.toNat 54 10 != 0 || field w.w2.toNat 36 28 != 0 || w.w3 != 0

/-- L, TR and TC of SWZP (R182). -/
def Rec.l (r : Rec) : Nat := field r.swzp 0 5
def Rec.tr (r : Rec) : Nat := field r.swzp 5 5
def Rec.tc (r : Rec) : Nat := field r.swzp 10 5

/-- The limits of SWZP and EXTENT (R179, R182). -/
def Rec.swizzleOk (r : Rec) : Bool :=
  if r.swz = 0 then r.swzp == 0
  else if r.swz = 1 then r.swzp == 0 && r.extent % 1024 == 0
  else if r.swz = 2 then decide (r.l ≤ 15) && field r.swzp 5 11 == 0 && r.extent % 2 ^ (2 * r.l + r.esize) == 0
  else r.swz == 3 && !bitOf r.swzp 15 && decide (r.tc ≤ r.l) && decide (r.l + r.tr ≤ 24)
    && r.extent % 2 ^ (r.l + r.tr + r.esize) == 0

/-- A record is valid for a gang of `gsize` blocks (R179), the limits on SPACE apart. -/
def Rec.ok (r : Rec) (gsize : Nat) : Bool :=
  !r.stray && r.access != 0 && r.oob != 3 && decide (r.esize ≤ 4) && decide (r.cache ≤ 3) && r.swizzleOk
    && !(r.space == 0 && decide (2 ^ 54 < r.base + r.extent))
    && (if r.space == 2 then decide (r.member < gsize) else r.member == 0)

/-- The record allows what an access needs: 1 reads, 2 writes, 3 both. -/
def Rec.allows (r : Rec) (need : Nat) : Bool := r.access &&& need == need

/-! ## Addresses (R181, R182) -/

/-- Bits of two numbers interleaved, `n` of each. -/
def interleave (col row : Nat) : Nat → Nat
  | 0 => 0
  | n + 1 => interleave col row n + b2n (bitOf col n) * 2 ^ (2 * n) + b2n (bitOf row n) * 2 ^ (2 * n + 1)

/-- The XOR bank swizzle. -/
def bankSwizzle (o : Nat) : Nat := o - field o 4 3 * 16 + (field o 4 3 ^^^ field o 7 3) * 16

/-- The swizzled offset. -/
def Rec.swizzle (r : Rec) (o : Nat) : Nat :=
  let e := o / 2 ^ r.esize
  let b := o % 2 ^ r.esize
  let row := e / 2 ^ r.l
  let col := e % 2 ^ r.l
  if r.swz = 1 then bankSwizzle o
  else if r.swz = 2 then (interleave col row r.l + row / 2 ^ r.l * 2 ^ (2 * r.l)) * 2 ^ r.esize + b
  else if r.swz = 3 then
    let t := row / 2 ^ r.tr * 2 ^ (r.l - r.tc) + col / 2 ^ r.tc
    (t * 2 ^ (r.tr + r.tc) + row % 2 ^ r.tr * 2 ^ r.tc + col % 2 ^ r.tc) * 2 ^ r.esize + b
  else o

/-- The limit of a record in an allocation of `alloc` bytes. -/
def Rec.lim (r : Rec) (alloc : Nat) : Int :=
  let cut (n : Nat) : Int := if (r.extent : Int) < (n : Int) - r.base then (r.extent : Int) else (n : Int) - r.base
  if r.space = 1 || r.space = 2 then cut alloc else if r.space = 3 then cut Config.tileBytes else (r.extent : Int)

/-- Where an access of `z` bytes lies. -/
inductive Place where
  | at_ (a : Nat)
  /-- OOB 1: reads zero, writes nothing -/
  | outside
  | bounds (a : Int)
  | misaligned (a : Nat)
  deriving DecidableEq, Repr

/-- The offset of an index and a byte offset. -/
def Rec.offset (r : Rec) (idx : Nat) (imm : Int) : Int :=
  if r.stride = 0 then (idx : Int) + imm else (idx * r.stride : Nat) + imm

/-- An offset inside the record, swizzled and checked for alignment. -/
def Rec.inside (r : Rec) (o z : Nat) : Place :=
  if (r.swz == 2 || r.swz == 3) && (z != 2 ^ r.esize || o % z != 0) then .misaligned (r.base + o)
  else
    let a := r.base + r.swizzle o
    if a % z = 0 then .at_ a else .misaligned a

/-- The access of a lane. -/
def Rec.place (r : Rec) (alloc idx : Nat) (imm : Int) (z : Nat) : Place :=
  let o := r.offset idx imm
  let lim := r.lim alloc
  if 0 ≤ o && o + z ≤ lim then r.inside o.toNat z
  else if r.oob = 0 then .bounds (r.base + o)
  else if r.oob = 1 || decide (lim < z) then .outside
  else
    let c := (clampInt o 0 (lim - z)).toNat
    r.inside (c - c % z) z

/-! ## What an instruction asks of each lane -/

/-- Bytes of a type in memory. -/
def tySize : Ty → Nat
  | .i8 => 1
  | .n8 => 1
  | .i16 => 2
  | .n16 => 2
  | .f16 => 2
  | .bf16 => 2
  | .i64 => 8
  | .n64 => 8
  | .f64 => 8
  | _ => 4

/-- The access of a memory instruction: its record, index, offset and size, its permission kind, and the ACCESS that
its record must give (R201). -/
structure Want where
  rcd : BitVec 8
  x : Src
  imm : Int
  z : Nat
  acc : Acc
  need : Nat

/-- A memory operand as an access. -/
def wantOf (m : MemOp) (z : Nat) (acc : Acc) (need : Nat) : Want := ⟨m.rcd, m.x, m.off.toInt, z, acc, need⟩

/-- The steps 1 to 4 of R201 in a lane. -/
inductive Formed where
  /-- OOB 1 -/
  | outside
  | poison
  | trap (t : TrapInfo)
  /-- a scratchpad, own or of the gang member of this rank, at this offset -/
  | scr (member : Option Nat) (off : Nat)
  | va (a : Nat)
  deriving DecidableEq, Repr

/-- The record that a lane uses, and whether its words or its index are poisoned (R288). -/
def Ctx.record (c : Ctx) (r : BitVec 8) : Rec := Rec.of (c.blk.record4 r).1

/-- A lane's access before translation. -/
def Ctx.form (c : Ctx) (s : State) (w : Want) : Formed :=
  let r := c.record w.rcd
  let idx := c.src s 0 false w.x
  if (c.blk.record4 w.rcd).2 || idx.poison then .poison
  else if !r.ok c.blk.rec_.gsize || r.space == 3 then .trap { kind := 0x14 }
  else if !r.allows w.need then .trap { kind := 0x0B }
  else match r.place c.blk.alloc idx.low w.imm w.z with
    | .outside => .outside
    | .bounds a => .trap { kind := 0x09, addr := lowBits 64 a }
    | .misaligned a => .trap { kind := 0x0A, addr := a }
    | .at_ a => if r.space = 0 then .va a else if r.space = 1 then .scr none a else .scr (some r.member) a

/-- The block whose scratchpad a formed access names; none when the gang member has ended. -/
def Ctx.scrBlock (c : Ctx) (s : State) : Option Nat → Option Block
  | none => s.block? c.id.core c.id.ent
  | some m => s.member? c.blk m

/-! ## The side log (R203, R204) -/

/-- The log holds an entry for a page, or for a line, of a tenant. -/
def State.pageLogged (s : State) (core t va : Nat) : Bool :=
  (s.core core).sideLog.any (fun e => e.tenant == t && e.line / 512 == va / 65536)
def State.lineLogged (s : State) (core t va : Nat) : Bool :=
  (s.core core).sideLog.any (fun e => e.tenant == t && e.line == va / 128)

/-! ## Releases and acquires (R226 to R230, R50) -/

/-- A thread that a lane executes, as it stands now. -/
def Ctx.now (c : Ctx) (s : State) : Thread := (s.thread? c.id).getD c.th

/-- A step of the CRC-64 of verify mode over one bit, a 64-bit value and an effect's units (R306). -/
def crc64Bit (crc : DWord) (b : Bool) : DWord :=
  if crc.getLsbD 63 != b then (crc <<< 1) ^^^ 0x42F0E1EBA9EA3693#64 else crc <<< 1
def crc64Word (crc : DWord) (x : DWord) : Nat → DWord
  | 0 => crc
  | n + 1 => crc64Word (crc64Bit crc (x.getLsbD n)) x n
def crc64Units (crc : DWord) : List (Nat × Nat) → DWord
  | [] => crc
  | (a, d) :: us => crc64Units (crc64Word (crc64Word crc (BitVec.ofNat 64 a) 64) (BitVec.ofNat 64 d) 64) us

/-- The counterpart of a verified block (R122): the other copy of the same block of the same node. -/
def State.partner (s : State) (b : Block) : Option Block :=
  s.blocks.find? (fun x => x.rec_.node == b.rec_.node && x.rec_.gen == b.rec_.gen && x.rec_.block == b.rec_.block
    && x.verify != .single && x.verify != b.verify)

/-- A verify mismatch of a thread: a KIND 0x11 record, and both copies roll back or their gang is killed (R307). -/
def State.verifyFail (s : State) (id : ThreadId) : State :=
  match s.block? id.core id.ent with
  | none => s
  | some b =>
    let s1 := s.threadRec id { kind := 0x11, sev := 1, src := 8, pc := ((s.thread? id).map (·.pc.toNat)).getD 0, synd := id.tid }
    let s2 := s1.startRollback id.core id.ent
    match s2.partner b with
    | some x => s2.startRollback x.core x.ent
    | none => s2

/-- A comparison point of verify mode (R307): the first copy to come waits, the primary for 10 ms; the second compares. -/
def Ctx.compare (c : Ctx) (s : State) (k : State → LaneOut) : LaneOut :=
  if c.blk.verify == .single || (c.now s).verified then k s
  else match s.partner c.blk with
    | none => k s
    | some x => match x.threads[c.id.tid]? with
      | none => k s
      | some y =>
        match y.wait with
        | some (.verify _) =>
          if y.pc != c.th.pc then .wait (.verify (s.halfNs + 20000000)) s
          else if y.crc == (c.now s).crc then
            k ((s.modThread (x.idOf c.id.tid) (fun th => { th with wait := none, verified := true })).modThread c.id
              (fun th => { th with verified := true }))
          else .gone (s.verifyFail (if c.blk.verify == .primary then c.id else x.idOf c.id.tid))
        | _ => .wait (.verify (s.halfNs + 20000000)) s

/-- Code points of effects in the CRC of verify mode: the operation of an 8-byte unit (R306; assumption 28). -/
def crcUnit (op a : Nat) (x : Nat) : Nat × Nat := (op * 2 ^ 56 + a % 2 ^ 54, x)

/-- The release of a thread at a scope, then what follows its release point (R227, R50). -/
def Ctx.release (c : Ctx) (s : State) (sc : Scope) (k : State → LaneOut) : LaneOut :=
  if c.th.dem || sc == .blk then k s
  else c.compare s (fun s =>
    if (c.now s).released then k s
    else if !s.sideLogClear c.blk then .wait (.release false) s
    else if sc == .sys && !s.fabricSent c.id.core then .wait .commands s
    else
      let s1 := s.writeBackAll c.id.core
      if sc != .sys then k s1
      else
        let s2 := s1.sendMarkers c.id.core
        if s2.fabricClear c.id.core && !(c.now s2).awaits then k s2 else .wait (.release true) s2)

/-- The acquire of a thread at a scope, after its loads (R228). -/
def Ctx.acquire (c : Ctx) (s : State) (sc : Scope) : State := if c.th.dem || sc == .blk then s else s.acquireAfter c.id

/-- The order of an access: `.REL` before it, `.ACQ` after it (R230). -/
def releases (o : Ord) : Bool := o == .rel || o == .ar
def acquires (o : Ord) : Bool := o == .acq || o == .ar

/-! ## Effects under `SNAP` and `VERIFY` (R299 to R301, R306) -/

/-- How an effect went: done with its result; under way, with what it awaits; or ended otherwise. -/
inductive Eff where
  | done (r : DWord) (s : State)
  | await (a : Await) (s : State)
  | out (o : LaneOut)

/-- An entry of the effect log for a thread. -/
def SnapSt.entry (sn : SnapSt) (tid k : Nat) : Option Effect :=
  sn.log.find? (fun e => e.type != 8 && e.thread == tid && e.tseq == k)

/-- An effect that has performed is logged (R299, R300). -/
def Block.logEffect (b : Block) (e : Effect) : Block :=
  match b.snap with
  | none => b
  | some sn => { b with snap := some (if sn.log.length < 1024 then { sn with log := sn.log ++ [e] } else { sn with unprot := true }) }

/-- A word of the control area of a block under `SNAP` (R297): word 0 CUR, VALIDA and VALIDB; word 1 LOGCOUNT, UNPROT and
ROLLS. -/
def SnapSt.control (sn : SnapSt) : List Byte :=
  toBytes 8 (b2n sn.cur + 2 * b2n sn.a.isSome + 4 * b2n sn.b.isSome)
    ++ toBytes 8 (sn.log.length + b2n sn.unprot * 2 ^ 16 + sn.rolls * 2 ^ 17)

/-- An entry of the effect log (R300). -/
def Effect.bytes (e : Effect) : List Byte :=
  toBytes 8 (e.pc.toNat + e.type * 2 ^ 56) ++ toBytes 8 (e.thread + e.tseq * 2 ^ 16) ++ toBytes 8 e.result.toNat
    ++ toBytes 8 (if e.type = 8 then e.baroff + b2n e.barv * 2 ^ 19 + e.count.toNat * 2 ^ 20 else 0)

/-- The address of an offset in a block's rollback area (R297). -/
def State.rbAddr (s : State) (b : Block) (off : Nat) : Nat := s.sliceOf b + b.exec + off

/-- Bytes of the rollback area: written through the core's L1 where the page allows it; the model's record of the area
stands in any case (assumption 30). -/
def State.rbWrite (s : State) (b : Block) (off : Nat) (bs : List Byte) : State :=
  match s.backing b (s.rbAddr b off) .store with
  | (s1, .ok e) => s1.storeMem b.core e (s1.rbAddr b off) 0 false bs false []
  | _ => s

/-- The control words and the latest entry of the log are written to the rollback area. -/
def State.syncLog (s : State) (core ent : Nat) : State :=
  match s.block? core ent with
  | none => s
  | some b => match b.snap with
    | none => s
    | some sn =>
      let s1 := s.rbWrite b 0 sn.control
      match sn.log.reverse with
      | [] => s1
      | e :: _ => s1.rbWrite b (0x1000 + 32 * (sn.log.length - 1)) e.bytes

/-- The effect that a thread performs now. -/
def Ctx.newEffect (c : Ctx) (s : State) (type : Nat) (r : DWord) (owed : Option Await) : Effect :=
  ⟨c.th.pc, type, c.id.tid, (c.now s).effects, r, 0, false, 0, owed, none⟩

/-- An effect of a thread counts: it is logged, its result is kept for the secondary copy, and the CRC takes it in. -/
def Ctx.logged (c : Ctx) (s : State) (shared : Bool) (units : List (Nat × Nat)) (e : Effect) : State :=
  let th := c.now s
  State.syncLog (core := c.id.core) (ent := c.id.ent) <| s.modBlock c.id.core c.id.ent (fun b =>
    let b1 := if (b.snap.bind (·.entry c.id.tid th.effects)).isSome then b else b.logEffect e
    let b2 := if b1.verify == .primary && shared then
        { b1 with results := { e with tseq := th.shared } :: b1.results.filter (fun x => !(x.thread == c.id.tid && x.tseq == th.shared)) }
      else b1
    b2.modThread c.id.tid (fun t =>
      { t with
        effects := if b.snap.isSome then t.effects + 1 else t.effects
        shared := if b.verify != .single && shared then t.shared + 1 else t.shared
        crc := if b.verify == .single then t.crc else crc64Units t.crc units }))

/-- An effect of a TYPE: its result comes from the log on a replay, from the primary in a secondary copy, else from
performing it. `shared` is false for what the secondary copy receives no result of. `k` takes the effect, with its result or what it
still waits for. -/
def Ctx.effect (c : Ctx) (s : State) (type : Nat) (shared : Bool) (units : List (Nat × Nat)) (perform : State → Eff)
    (k : State → Effect → LaneOut) : LaneOut :=
  let th := c.now s
  let sn := (s.block? c.id.core c.id.ent).bind (·.snap)
  match sn.bind (·.entry c.id.tid th.effects) with
  | some e =>
    if e.pc == c.th.pc && e.type == type then k (c.logged s shared units e) e
    else .gone (s.rollbackFail c.id.core c.id.ent 3)
  | none =>
    if c.blk.verify == .secondary && shared then
      match (s.partner c.blk).bind (fun b => b.results.find? (fun e => e.thread == c.id.tid && e.tseq == th.shared && e.settled)) with
      | some e => k (c.logged s shared units { e with tseq := th.effects }) e
      | none => .wait .result s
    else match perform s with
      | .done r s1 => let e := c.newEffect s1 type r none; k (c.logged s1 shared units e) e
      | .await a s1 => let e := c.newEffect s1 type 0 (some a); k (c.logged s1 shared units e) e
      | .out o => o

/-- An effect outside the types of R299 counts in the CRC alone (R306). -/
def Ctx.untyped (c : Ctx) (s : State) (units : List (Nat × Nat)) : State :=
  if c.blk.verify == .single then s else s.modThread c.id (fun t => { t with crc := crc64Units t.crc units })

/-- The log's entries are written to the rollback area. -/
def State.syncAll (s : State) (core ent : Nat) : State :=
  match s.block? core ent with
  | none => s
  | some b => match b.snap with
    | none => s
    | some sn => runAll (fun (s : State) (x : Nat × Effect) => s.rbWrite b (0x1000 + 32 * x.1) x.2.bytes)
        ((List.range sn.log.length).zip sn.log) (s.rbWrite b 0 sn.control)

/-- An effect takes the result of what it waits for, if that is what has come. -/
def Effect.settle (e : Effect) (f : Await → Option DWord) (fail : Option EngFail) : Effect :=
  match e.owed.bind f with
  | some r => { e with result := r, owed := none, fail := fail }
  | none => e

/-- What effects wait for has come: the logs and results of resident and saved blocks take it (R299, R306). An entry that a snapshot
point has cleared, or that a rollback replays meanwhile, is told by what it waits for. -/
def State.settle (s : State) (f : Await → Option DWord) (fail : Option EngFail) : State :=
  let log (sn : SnapSt) : SnapSt := { sn with log := sn.log.map (fun e => e.settle f fail) }
  let touched := s.blocks.filter (fun b => b.snap.any (fun sn => sn.log.any (fun e => (e.owed.bind f).isSome)))
  runAll (fun (s : State) (b : Block) => s.syncAll b.core b.ent) touched
    { s with
      blocks := s.blocks.map (fun b => { b with snap := b.snap.map log, results := b.results.map (fun e => e.settle f fail) })
      images := s.images.map (fun i => { i with snap := i.snap.map log, results := i.results.map (fun e => e.settle f fail) }) }

/-- The units that the CRC takes of an engine command: the words that it captured, since its bytes move later and in no program
order (R246, R306; assumption 28). -/
def crcWords (op : Nat) (ws : List DWord) : List (Nat × Nat) :=
  ((List.range ws.length).zip ws).map (fun x => (op * 2 ^ 56 + x.1, x.2.toNat))

/-- `MXOP`, `MXLDB` and `MXACC` leave the interval unprotected (R299). -/
def Ctx.unprotect (c : Ctx) (s : State) : State :=
  (s.modBlock c.id.core c.id.ent (fun b => { b with snap := b.snap.map (fun sn => { sn with unprot := true }) })).syncLog
    c.id.core c.id.ent

end Sys2Proof.Machine
end

