-- ==== Sys2Proof/Machine/Fabric.lean ====
section
/-! DEFINITION. Accesses of threads to other modules: the packets of TIER 2 pages, and the traps of failures (R195, R207, R418). -/

namespace Sys2Proof.Machine

/-- The owner that a thread's requests carry. -/
def Ctx.owner (c : Ctx) : Owner := c.blk.ownerOf c.id.tid

/-- `n` bytes of a record in a page of another module, as its thread reads them: they are here, on their way (asked for now if
need be), or refused with a status. -/
inductive RemoteRead where
  | here (bs : List Byte) (poison : Bool)
  | owed (s : State)
  | failed (status : Nat)

def Ctx.remoteRead (c : Ctx) (s : State) (e : TlbEntry) (va n : Nat) : RemoteRead :=
  match lineRead (c.now s).remote va n with
  | .here bs p => .here bs p
  | .failed st => .failed st
  | .owed => .owed s
  | .unasked => .owed (s.askLine c.blk c.id.tid e va)

/-- A trap that a thread takes at its next issue, or after those that it takes before (R418). -/
def Thread.addTrap (th : Thread) (t : PendTrap) : Thread :=
  if th.trapNext.isSome then { th with traps := th.traps ++ [t] } else { th with trapNext := some t }

/-- A thread traps at its next issue, or its gang is killed if it has exited (R205, R207, R418). -/
def State.trapLater (s : State) (id : ThreadId) (t : PendTrap) : State :=
  match s.thread? id with
  | some th =>
    if th.exited then s.killGang id.core id.ent
    else s.modThread id (fun x => x.addTrap t)
  | none => s

/-- The remote-access trap (R207). -/
def remoteTrap (status va : Nat) : PendTrap := ⟨0x11, va, status, 0, false, none⟩

end Sys2Proof.Machine
end

