-- ==== Sys2Proof/Machine/Integer.lean ====
section
/-! DEFINITION. Integer, logic and bit operations (R355 to R365). -/

namespace Sys2Proof.Machine

/-! ## One lane of each operand form -/

/-- A result with the OR of its sources' poison. -/
def Ctx.result (c : Ctx) (s : State) (d : Dst) (wide poison : Bool) (r : Nat × Flags) : LaneOut :=
  .done (s.writeDst c d wide ⟨BitVec.ofNat 64 r.1, poison⟩ (some r.2))

/-- Two sources, the second of 32 bits where `b32`. -/
def alu2 (p : Alu2) (b32 : Bool) (f : Nat → Nat → Nat × Flags) (s : State) (c : Ctx) : LaneOut :=
  let a := c.src s p.imm p.ty.wide p.a
  let b := c.src s p.imm (p.ty.wide && !b32) p.b
  c.result s p.d p.ty.wide (a.poison || b.poison) (f a.nat b.nat)

/-- Two sources and flag C of a condition register. -/
def aluC (p : AluC) (f : Bool → Nat → Nat → Nat × Flags) (s : State) (c : Ctx) : LaneOut :=
  let a := c.src s p.imm p.ty.wide p.a
  let b := c.src s p.imm p.ty.wide p.b
  let k := c.th.ccs.get p.k
  c.result s p.d p.ty.wide (a.poison || b.poison || k.poison) (f k.flags.c a.nat b.nat)

/-- Three sources and a destination, each wide or not. -/
def alu3 (p : Alu3) (dw aw bw qw : Bool) (f : Nat → Nat → Nat → Nat × Flags) (s : State) (c : Ctx) : LaneOut :=
  let a := c.src s 0 aw p.a
  let b := c.src s 0 bw p.b
  let q := c.src s 0 qw p.c
  c.result s p.d dw (a.poison || b.poison || q.poison) (f a.nat b.nat q.nat)

/-- One source; a destination of 32 bits where `d32`. -/
def alu1 (p : Alu1) (d32 : Bool) (f : Nat → Nat × Flags) (s : State) (c : Ctx) : LaneOut :=
  let a := c.src s p.imm p.ty.wide p.a
  c.result s p.d (p.ty.wide && !d32) a.poison (f a.nat)

/-! ## Integer arithmetic (R355 to R359) -/

def execIadd (p : Alu2) (s : State) : Host.Outcome State Fault Refusal :=
  instr (.iadd p) (alu2 p false (iaddR p.ty p.sat 0)) s
def execIsub (p : Alu2) (s : State) : Host.Outcome State Fault Refusal :=
  instr (.isub p) (alu2 p false (isubR p.ty p.sat 0)) s
def execIadc (p : AluC) (s : State) : Host.Outcome State Fault Refusal :=
  instr (.iadc p) (aluC p (fun k => iaddR p.ty false (b2n k))) s
def execIsbc (p : AluC) (s : State) : Host.Outcome State Fault Refusal :=
  instr (.isbc p) (aluC p (fun k => isubR p.ty false (b2n (!k)))) s
def execImul (p : Alu2) (s : State) : Host.Outcome State Fault Refusal :=
  instr (.imul p) (alu2 p false (fun a b => mulR p.ty p.sat (ext p.ty a * ext p.ty b))) s
def execImulh (p : Alu2) (s : State) : Host.Outcome State Fault Refusal := instr (.imulh p) (alu2 p false (imulhR p.ty)) s
def execImad (p : Alu3) (s : State) : Host.Outcome State Fault Refusal :=
  instr (.imad p) (alu3 p p.ty.wide p.ty.wide p.ty.wide p.ty.wide
    (fun a b q => mulR p.ty p.sat (ext p.ty a * ext p.ty b + ext p.ty q))) s
def execImadw (p : Alu3) (s : State) : Host.Outcome State Fault Refusal :=
  instr (.imadw p) (alu3 p true false false true (imadwR p.ty p.sat)) s
def execImin (p : Alu2) (s : State) : Host.Outcome State Fault Refusal := instr (.imin p) (alu2 p false (iminR p.ty)) s
def execImax (p : Alu2) (s : State) : Host.Outcome State Fault Refusal := instr (.imax p) (alu2 p false (imaxR p.ty)) s
def execIabs (p : Alu1) (s : State) : Host.Outcome State Fault Refusal := instr (.iabs p) (alu1 p false (iabsR p.ty p.sat)) s
def execIsad (p : Alu3) (s : State) : Host.Outcome State Fault Refusal :=
  instr (.isad p) (alu3 p false false false false (isadR p.ty p.sat)) s

def icmpLane (p : Cmp2) (s : State) (c : Ctx) : LaneOut :=
  let a := c.src s p.imm p.ty.wide p.a
  let b := c.src s p.imm p.ty.wide p.b
  c.result s p.d p.ty.wide (a.poison || b.poison) (icmpR p.ty p.cmp a.nat b.nat)
def execIcmp (p : Cmp2) (s : State) : Host.Outcome State Fault Refusal := instr (.icmp p) (icmpLane p) s

/-- `SEL` (R358): a poisoned condition register poisons the result without a trap. -/
def selLane (p : Sel) (s : State) (c : Ctx) : LaneOut :=
  let a := c.src s 0 p.ty.wide p.a
  let b := c.src s 0 p.ty.wide p.b
  let k := c.th.ccs.get p.k
  let r := if condHolds k.flags p.cond then a else b
  .done (s.writeDst c p.d p.ty.wide ⟨r.val, a.poison || b.poison || k.poison⟩ none)
def execSel (p : Sel) (s : State) : Host.Outcome State Fault Refusal := instr (.sel p) (selLane p) s

def execIadd3 (p : Alu3) (s : State) : Host.Outcome State Fault Refusal :=
  instr (.iadd3 p) (alu3 p p.ty.wide p.ty.wide p.ty.wide p.ty.wide (iadd3R p.ty p.sat)) s
def execIdivQ (p : Alu2) (s : State) : Host.Outcome State Fault Refusal := instr (.idivQ p) (alu2 p false (idivQR p.ty p.sat)) s
def execIdivR (p : Alu2) (s : State) : Host.Outcome State Fault Refusal := instr (.idivR p) (alu2 p false (idivRR p.ty)) s

/-! ## Logic and bits (R360 to R365) -/

def execAnd (p : Alu2) (s : State) : Host.Outcome State Fault Refusal :=
  instr (.and p) (alu2 p false (fun a b => plainR (tyBits p.ty) (a &&& b))) s
def execOr (p : Alu2) (s : State) : Host.Outcome State Fault Refusal :=
  instr (.or p) (alu2 p false (fun a b => plainR (tyBits p.ty) (a ||| b))) s
def execXor (p : Alu2) (s : State) : Host.Outcome State Fault Refusal :=
  instr (.xor p) (alu2 p false (fun a b => plainR (tyBits p.ty) (a ^^^ b))) s
def execAndn (p : Alu2) (s : State) : Host.Outcome State Fault Refusal :=
  instr (.andn p) (alu2 p false (fun a b => plainR (tyBits p.ty) (a &&& (2 ^ tyBits p.ty - 1 - b)))) s

def bool3Lane (p : Bool3) (s : State) (c : Ctx) : LaneOut :=
  let a := c.src s 0 p.ty.wide p.a
  let b := c.src s 0 p.ty.wide p.b
  let q := c.src s 0 p.ty.wide p.c
  c.result s p.d p.ty.wide (a.poison || b.poison || q.poison) (bool3R (tyBits p.ty) p.tt.toNat a.nat b.nat q.nat)
def execBool3 (p : Bool3) (s : State) : Host.Outcome State Fault Refusal := instr (.bool3 p) (bool3Lane p) s

def execShl (p : Alu2) (s : State) : Host.Outcome State Fault Refusal := instr (.shl p) (alu2 p true (shlR (tyBits p.ty))) s
def execShr (p : Alu2) (s : State) : Host.Outcome State Fault Refusal := instr (.shr p) (alu2 p true (shrR (tyBits p.ty))) s
def execSar (p : Alu2) (s : State) : Host.Outcome State Fault Refusal := instr (.sar p) (alu2 p true (sarR (tyBits p.ty))) s
def execRotL (p : Alu2) (s : State) : Host.Outcome State Fault Refusal := instr (.rotL p) (alu2 p true (rotlR (tyBits p.ty))) s
def execRotR (p : Alu2) (s : State) : Host.Outcome State Fault Refusal := instr (.rotR p) (alu2 p true (rotrR (tyBits p.ty))) s
def execFshfL (p : Alu3) (s : State) : Host.Outcome State Fault Refusal :=
  instr (.fshfL p) (alu3 p p.ty.wide p.ty.wide p.ty.wide false
    (fun a b q => plainR (tyBits p.ty) (funnelL (tyBits p.ty) a b q))) s
def execFshfR (p : Alu3) (s : State) : Host.Outcome State Fault Refusal :=
  instr (.fshfR p) (alu3 p p.ty.wide p.ty.wide p.ty.wide false
    (fun a b q => plainR (tyBits p.ty) (funnelR (tyBits p.ty) a b q))) s
def execBfx (p : Alu2) (s : State) : Host.Outcome State Fault Refusal := instr (.bfx p) (alu2 p true (bfxR p.ty)) s
def execBfi (p : Alu3) (s : State) : Host.Outcome State Fault Refusal :=
  instr (.bfi p) (alu3 p p.ty.wide p.ty.wide false p.ty.wide (bfiR (tyBits p.ty))) s
def execPopc (p : Alu1) (s : State) : Host.Outcome State Fault Refusal := instr (.popc p) (alu1 p true (popcR (tyBits p.ty))) s
def execClz (p : Alu1) (s : State) : Host.Outcome State Fault Refusal := instr (.clz p) (alu1 p true (clzR (tyBits p.ty))) s
def execBrev (p : Alu1) (s : State) : Host.Outcome State Fault Refusal := instr (.brev p) (alu1 p false (brevR (tyBits p.ty))) s

/-- The four table registers of `PERMB` at 32 bits (R365). -/
def Ctx.table (c : Ctx) (x : Src) : List UVal :=
  match x with
  | .v r => c.group r.toNat 4
  | .s r => (List.range 4).map (fun i =>
      let u := c.blk.uni (r.toNat + i)
      ⟨BitVec.ofNat 64 u.low, u.poison⟩)
  | _ => []

def permbLane (p : Permb) (s : State) (c : Ctx) : LaneOut :=
  let x := c.src s p.imm false p.a
  let t := c.table p.tbl
  .done (s.writeDst c p.d false ⟨BitVec.ofNat 64 (permb x.nat (t.map UVal.nat)), x.poison || t.any (·.poison)⟩ none)
def execPermb (p : Permb) (s : State) : Host.Outcome State Fault Refusal := instr (.permb p) (permbLane p) s

end Sys2Proof.Machine
end

