-- ==== Sys2Proof/Machine/System.lean ====
section
/-! DEFINITION. Moves, uniform writes, status registers, random draws and election (R169, R331, R366 to R374). -/

namespace Sys2Proof.Machine

/-! ## Moves (R367) -/

def movLane (p : Alu1) (s : State) (c : Ctx) : LaneOut :=
  .done (s.writeDst c p.d p.ty.wide (c.src s p.imm p.ty.wide p.a) none)
def execMov (p : Alu1) (s : State) : Host.Outcome State Fault Refusal := instr (.mov p) (movLane p) s

/-- `MOVI`: the high word of a pair comes from IMM and the low word from the source. -/
def moviLane (p : Movi) (s : State) (c : Ctx) : LaneOut :=
  let a := c.src s p.imm false p.a
  .done (s.writeDst c p.d p.wide
    (if p.wide then ⟨BitVec.ofNat 64 (p.imm.toNat * 2 ^ 32 + a.low), a.poison⟩ else ⟨p.imm.zeroExtend 64, false⟩) none)
def execMovi (p : Movi) (s : State) : Host.Outcome State Fault Refusal := instr (.movi p) (moviLane p) s

/-! ## Uniform writes (R169, R368) -/

/-- A uniform write by the token's holder; any other thread takes the token trap. -/
def uniformWrite (s : State) (c : Ctx) (r : BitVec 8) (v : UVal) (next : State → State) : LaneOut :=
  if c.holdsToken s then .done (next (s.modBlock c.id.core c.id.ent (fun b => b.setUni r.toNat v)))
  else .trap { kind := 0x07 } s

/-- A uniform register as it stands. -/
def State.uniNow (s : State) (c : Ctx) (r : BitVec 8) : UVal :=
  match s.block? c.id.core c.id.ent with
  | some b => b.uni r.toNat
  | none => ⟨0, false⟩

def ssetLane (p : Sset) (s : State) (c : Ctx) : LaneOut :=
  uniformWrite s c p.reg (c.src s p.imm true p.a) id

/-- A half of a uniform register; the kept half's poison stays with it. -/
def ssetHalf (high : Bool) (p : Sset) (s : State) (c : Ctx) : LaneOut :=
  let a := c.src s p.imm false p.a
  let old := s.uniNow c p.reg
  let v := if high then a.low * 2 ^ 32 + old.low else old.nat / 2 ^ 32 * 2 ^ 32 + a.low
  uniformWrite s c p.reg ⟨BitVec.ofNat 64 v, old.poison || a.poison⟩ id

def execSset (p : Sset) (s : State) : Host.Outcome State Fault Refusal := instr (.sset p) (ssetLane p) s
def execSsetLo (p : Sset) (s : State) : Host.Outcome State Fault Refusal := instr (.ssetLo p) (ssetHalf false p) s
def execSsetHi (p : Sset) (s : State) : Host.Outcome State Fault Refusal := instr (.ssetHi p) (ssetHalf true p) s

/-- `SADD`: with CCE, the flags of a 64-bit `IADD`. -/
def saddLane (p : Sadd) (s : State) (c : Ctx) : LaneOut :=
  let a := c.src s p.imm true p.a
  let b := c.src s p.imm true p.b
  let r := iaddR .n64 false 0 a.nat b.nat
  let poison := a.poison || b.poison
  uniformWrite s c p.d.reg ⟨BitVec.ofNat 64 r.1, poison⟩ (fun s =>
    if p.d.cce then s.modThread c.id (fun th => { th with ccs := th.ccs.set p.d.cct ⟨r.2, poison⟩ }) else s)
def execSadd (p : Sadd) (s : State) : Host.Outcome State Fault Refusal := instr (.sadd p) (saddLane p) s

/-! ## Status registers (R331, R371) -/

/-- `CORESTAT` (R331). -/
def State.corestat (s : State) (core : Nat) : Nat :=
  b2n (s.engine (quadOf core)).narrow + 2 * b2n s.power.alarm + 4 * b2n s.power.trip

/-- The value of a status register. -/
def State.statusReg (s : State) (c : Ctx) (n : Nat) : Nat :=
  match n with
  | 0x000 => c.th.fpstat.toNat
  | 0x001 => c.blk.contract.descriptor
  | 0x002 => b2n (s.tenant c.blk.tenant).fxovf
  | 0x003 => (s.tenant c.blk.tenant).agemax
  | 0x004 => (s.tile (quadOf c.id.core)).2.toNat
  | 0x005 => s.time
  | 0x006 => c.th.rngctr.toNat
  | 0x007 => c.blk.rec_.seed.toNat
  | 0x008 => s.corestat c.id.core
  | n => ctrcap (n - 0x10)

def rdsrLane (p : Rdsr) (s : State) (c : Ctx) : LaneOut :=
  let v := s.statusReg c p.num.toNat
  .done (s.writeDst c p.d p.wide (if p.wide then word64 v false else word32 v false) none)
def execRdsr (p : Rdsr) (s : State) : Host.Outcome State Fault Refusal := instr (.rdsr p) (rdsrLane p) s

/-- `WRSR`: `FPSTAT` takes the low five bits, OVF is cleared by a one, every other register ignores the write. -/
def wrsrLane (p : Wrsr) (s : State) (c : Ctx) : LaneOut :=
  let a := c.src s 0 p.wide p.a
  if a.poison && !c.th.dem then c.poisoned s 0x02 0 0
  else .done (
    if p.num = 0 then s.modThread c.id (fun th => { th with fpstat := BitVec.ofNat 5 a.nat })
    else if p.num = 2 && bitOf a.nat 0 && !c.th.dem then s.modTenant c.blk.tenant (fun t => { t with fxovf := false })
    else s)
def execWrsr (p : Wrsr) (s : State) : Host.Outcome State Fault Refusal := instr (.wrsr p) (wrsrLane p) s

/-! ## RAND (R372) and ELECT (R373) -/

def randLane (p : Rand) (s : State) (c : Ctx) : LaneOut :=
  if c.th.dem then .done (s.writeDst c p.d p.wide ⟨0, false⟩ none)
  else
    let z := randomOf c.blk.rec_.seed.toNat (c.blk.rec_.block * 4096 + c.id.tid) c.th.rngctr.toNat
    let s1 := s.modThread c.id (fun th => { th with rngctr := th.rngctr + 1 })
    .done (s1.writeDst c p.d p.wide (if p.wide then word64 z false else word32 z false) none)
def execRand (p : Rand) (s : State) : Host.Outcome State Fault Refusal := instr (.rand p) (randLane p) s

def execElectWv (p : DstOnly) (s : State) : Host.Outcome State Fault Refusal := meet (.electWv p) s

/-- A demoted thread completes at once, without a result (R373). -/
def execElectBlk (p : DstOnly) (s : State) : Host.Outcome State Fault Refusal := meet (.electBlk p) s

end Sys2Proof.Machine
end

