-- ==== Sys2Proof/Machine/LoadStore.lean ====
section
/-! DEFINITION. Loads, stores, atomics, cell operations, prefetch and SLD, with the side log (R190, R201 to R207, R219, R237, R238, R282, R283, R368, R369, R405 to R410). -/

namespace Sys2Proof.Machine

/-! ## Types (R406) -/

/-- A loaded value widened to its register. -/
def loadValue (t : Ty) (x : Nat) : Nat :=
  match t with
  | .i8 => lowBits 32 (signedOf 8 x)
  | .i16 => lowBits 32 (signedOf 16 x)
  | _ => x

/-- The new value of an atomic (R407). -/
def atomApply (op : AtomOp) (t : Ty) (old x : Nat) : Nat :=
  match op with
  | .add => (old + x) % 2 ^ tyBits t
  | .min => if ext t old ≤ ext t x then old else x
  | .max => if ext t x ≤ ext t old then old else x
  | .and => old &&& x
  | .or => old ||| x
  | .xor => old ^^^ x
  | .exch => x

/-! ## Pages (R201 steps 5 to 9) -/

/-- What becomes of an access once its page is looked up. -/
inductive Fate where
  | go (e : TlbEntry)
  /-- side-logged -/
  | log
  | hold
  | trap (t : TrapInfo)
  deriving DecidableEq, Repr

/-- The stamp of an entry; during a PERM command that sets one, the old or the new (R213; assumption 9). -/
def State.stampOf (s : State) (e : TlbEntry) : Nat :=
  match e.px, (s.tenant e.tenant).service with
  | .perm _ _ _, some (_, ws) =>
    if bitOf (dword ws 3) 63 && !Config.permStampOld s.cycle then field (dword ws 3) 14 4 else e.stamp
  | _, _ => e.stamp

/-- A page's stamp names another contract than the block's (R282). -/
def State.mismatched (s : State) (b : Block) (e : TlbEntry) : Bool :=
  let i := s.stampOf e
  i != 0 && field ((s.tenant b.tenant).stamps[i]?.getD 0) 0 16 != b.rec_.contract

/-- MISMATCH counts (R283). -/
def State.countMismatch (s : State) (t : Nat) : State := s.modTenant t (fun x => { x with mismatch := satInc x.mismatch })

/-- The page of an access: kinds that it admits (R197), and whether stamps are checked (R282); the store that a secondary copy does not
perform does not count (R283, R306). A quiet access is neither held nor reported. -/
def State.fate (s : State) (b : Block) (acc : Acc) (kinds : List Nat) (stamp quiet : Bool) (va : Nat) : State × Fate :=
  if acc.logs && s.pageLogged b.core b.tenant va then (s, .log)
  else if !acc.logs && s.lineLogged b.core b.tenant va then (s, .hold)
  else match (if quiet then s.translate b.core b.tenant va acc else s.xlat b.core b.tenant va acc) with
    | (s1, .notValid) => (s1, if acc.logs then .log else .hold)
    | (s1, .blocked) => (s1, if acc.logs then .log else .hold)
    | (s1, .perm) => (s1, .trap { kind := 0x0C, addr := va })
    | (s1, .format) => (s1, .trap { kind := 0x0D, addr := va })
    | (s1, .ok e) =>
      if !kinds.contains e.kind then (s1, .trap { kind := 0x0E, addr := va })
      else if stamp && s1.mismatched b e then
        if b.flag 4 then (s1, .trap { kind := 0x0F, addr := va })
        else (if acc.logs && b.verify == .secondary then s1 else s1.countMismatch b.tenant, .go e)
      else (s1, .go e)

/-! ## Appending to the side log (R203) -/

/-- What one lane's access puts into an entry. -/
structure LogWant where
  op : Nat
  sub : BitVec 8
  ord : Ord
  scope : Scope
  va : Nat
  bytes : List Byte
  poison : Bool
  /-- the cells that several lanes of the shed add to -/
  shared : List Nat := []

/-- Operands combined where lanes meet on one location: `f` takes the bytes logged before and the lane's own. -/
def SideEntry.add (e : SideEntry) (w : LogWant) (f : List Byte → List Byte → List Byte) : SideEntry :=
  let o := w.va % 128
  let n := w.bytes.length
  let m := spanMask o n
  let old := (e.data.drop o).take n
  { e with
    data := overwrite e.data o (if e.mask &&& m == m then f old w.bytes else w.bytes)
    mask := e.mask ||| m
    poison := if w.poison then e.poison ||| m else e.poison &&& ~~~m }

def SideEntry.fresh (b : Block) (tid : Nat) (w : LogWant) : SideEntry :=
  ⟨w.va / 128, w.op, w.sub, w.ord.code, w.scope, tid, b.ent, 0, zeroBytes 128, 0, b.tenant,
    (b.threads[tid]?.map (·.pc)).getD 0⟩

/-- The entry of the same shed and block that an access joins: `first` is the length of the log when the shed issued. Additions of
several lanes to one cell have an entry each (R203; assumption 91). -/
def joins (first : Nat) (b : Block) (w : LogWant) (i : Nat) (e : SideEntry) : Bool :=
  decide (first ≤ i) && e.line == w.va / 128 && e.op == w.op && e.slote == b.ent
    && !w.shared.any (fun x => x == w.va || (x / 128 == e.line && e.mask.getLsbD (x % 128)))

/-- The first position of a list that meets a test. -/
def findAt {α : Type} (p : Nat → α → Bool) : Nat → List α → Option Nat
  | _, [] => none
  | i, x :: xs => if p i x then some i else findAt p (i + 1) xs

/-- A lane's access is side-logged; none when all entries are in use (R205). -/
def State.append (s : State) (first : Nat) (b : Block) (tid : Nat) (w : LogWant) (f : List Byte → List Byte → List Byte) :
    Option State :=
  let log := (s.core b.core).sideLog
  match findAt (joins first b w) 0 log with
  | some i => some (s.modCore b.core (fun c => { c with sideLog := modifyAt (fun e => e.add w f) c.sideLog i }))
  | none =>
    if log.length < Config.sideLogMax then
      some (s.modCore b.core (fun c => { c with sideLog := c.sideLog ++ [(SideEntry.fresh b tid w).add w f] }))
    else none

/-! ## Stores of a shed together (R287, R289) -/

/-- The bytes that one lane of a shed stores: where, and whether poisoned. -/
structure Span where
  /-- block entry and member of a scratchpad; none for global memory -/
  key : Option (Nat × Option Nat)
  a : Nat
  z : Nat
  poison : Bool
  deriving DecidableEq, Repr

def Formed.span (f : Formed) (ent z : Nat) (p : Bool) : Option Span :=
  match f with
  | .va a => some ⟨none, a, z, p⟩
  | .scr m o => some ⟨some (ent, m), o, z, p⟩
  | _ => none

/-- A granule that the unpoisoned stores of a shed cover whole. -/
def covered (ss : List Span) (x : Span) : Bool :=
  let g := x.a / 32
  let mine := ss.filter (fun p => p.key == x.key && decide (p.a < 32 * g + 32) && decide (32 * g < p.a + p.z))
  mine.all (fun p => !p.poison)
    && (List.range 32).all (fun i => mine.any (fun p => decide (p.a ≤ 32 * g + i) && decide (32 * g + i < p.a + p.z)))

/-- The accesses that a shed's lanes form. -/
def Peers.spans (ps : Peers) (w : Want) (data : Ctx → UVal) : List Span :=
  ps.lanes.filterMap (fun c => (c.form ps.before w).span c.id.ent w.z (data c).poison)

/-- The lowest lane whose poisoned data is stored (R289). -/
def Peers.poisonedStore (ps : Peers) (w : Want) (data : Ctx → UVal) : Option ThreadId :=
  (ps.lanes.find? (fun c => (data c).poison && (match c.form ps.before w with
    | .scr _ _ => true
    | .va a => (match (ps.before.fate c.blk .store [0, 1, 2] true true a).2 with
      | .go _ => true
      | .log => true
      | _ => false)
    | _ => false))).map (·.id)

/-- The KIND 0x04 record of a poisoned store. -/
def Ctx.poisonStore (c : Ctx) (s : State) (src va pa : Nat) : State :=
  s.tenantRecord c.blk.tenant (c.blk.threadRecord c.id.tid
    { kind := 0x04, sev := 1, src := src, pc := c.th.pc.toNat, vaddr := va, paddr := pa,
      origin := ((s.block? c.id.core c.id.ent).map (·.origin)).getD 0 })

/-! ## The requests of a shed (R190) -/

def Fate.goes : Fate → Bool
  | .go _ => true
  | _ => false

/-- A lane is the lowest of its shed whose access to the line goes on: the line's one request is counted there (R190, R217). -/
def Peers.leads (ps : Peers) (w : Want) (kinds : List Nat) (stamp quiet : Bool) (c : Ctx) (a : Nat) : Bool :=
  ps.lanes.all (fun d => decide (laneOf c.id.tid ≤ laneOf d.id.tid) || (match d.form ps.before w with
    | .va x => x / 128 != a / 128 || !(ps.before.fate d.blk w.acc kinds stamp quiet x).2.goes
    | _ => true))

/-- A page's request is counted by the lowest lane of its line. -/
def Peers.counts (ps : Peers) (s : State) (w : Want) (kinds : List Nat) (stamp quiet : Bool) (c : Ctx) (e : TlbEntry) (a : Nat) : State :=
  if ps.leads w kinds stamp quiet c a then s.countAt c.blk.grid e a else s

/-- A packet that the shed has sent in this step to the module and tenant of another one, of the same kind. -/
def State.sentBy (s : State) (ps : Peers) (q : Packet) (f : Packet → Bool) : List Unacked :=
  (s.fabric.unacked.drop ps.before.fabric.unacked.length).filter (fun u =>
    u.packet.kind == q.kind && u.packet.dmod == q.dmod && u.packet.sten == q.sten && u.packet.dten == q.dten && f u.packet
      && (match u.origin with | .store _ => true | .load _ _ => true | _ => false))

/-- A packet of the step in progress takes more in before it leaves. -/
def State.amend (s : State) (u : Unacked) (p : Packet) (o : Origin) : State :=
  { s with fabric := { s.fabric with
    unacked := s.fabric.unacked.map (fun x => if x == u then { u with packet := p, origin := o } else x)
    out := s.fabric.out.map (fun x => if x == u.packet then p else x) } }

/-- The next number of a request, and a request sent under it. -/
def State.ask (s : State) (core : Nat) (o : Owner) (path : Option (BitVec 4)) (p : Packet) : State × Nat :=
  let req := s.fabric.nextId
  let s1 : State := { s with fabric := { s.fabric with nextId := req + 1 } }
  (match path with
    | some x => (s1.sendOn (some core) (.load o req) x p).1
    | none => s1.send (some core) (.load o req) p, req)

/-- The shed's request for a line of another module, sent by its first lane; none without a route (R190, R207). -/
def Ctx.askLine? (c : Ctx) (ps : Peers) (s : State) (e : TlbEntry) (a : Nat) : State × Option Nat :=
  let q := lineRequest e (a / 128)
  match (s.sentBy ps q (fun p => p.addr == q.addr)).findSome? (fun u => match u.origin with | .load _ req => some req | _ => none) with
  | some req => (s, some req)
  | none =>
    if !s.reachable c.blk.tenant q.dmod then (s, none)
    else let r := (s.countAt c.blk.grid e a).ask c.id.core c.owner none q; (r.1, some r.2)

/-! ## LD, LDFX, SLD -/

/-- A load's result goes to its destination when its data returns; the latches take it now (R143, R158). -/
def Ctx.deliver (c : Ctx) (s : State) (d : Dst) (t : Ty) (v : UVal) (l : LoadRec → LoadRec) : LaneOut :=
  .done ((s.writeVec c.id { d with nwb := true } t.wide v true).modThread c.id (fun th =>
    { th with loads := th.loads ++ [l ⟨if d.nwb then none else some (c.th.fbase + d.reg.toNat, t.wide), none, t, v, none, none,
        false, c.th.dem⟩] }))

/-- The `.ACQ` part of an access, at the return of its data (R230). -/
def Ctx.acqAt (c : Ctx) (o : Ord) (sc : Scope) (l : LoadRec) : LoadRec :=
  { l with acq := acquires o && sc != .blk && !c.th.dem }

/-- Bytes of a scratchpad; the value after the end of the member's block is open (assumption 25). -/
def Ctx.scrRead (c : Ctx) (s : State) (m : Option Nat) (off n : Nat) : List Byte × Bool :=
  match c.scrBlock s m with
  | some b => s.scrLoad b off n
  | none => ((List.range n).map (fun i => Config.absentMember s.cycle (off + i)), false)

/-- Who reads for a lane. -/
def Ctx.reader (c : Ctx) (va : Nat) : Reader := .thread_ c.blk.tenant c.id c.th.pc.toNat va

/-- The global accesses of a shed's lanes. -/
def Peers.accesses (ps : Peers) (w : Want) : List (ThreadId × Nat × Nat) :=
  ps.lanes.filterMap (fun c => match c.form ps.before w with
    | .va a => some (c.id, a, w.z)
    | _ => none)

/-- `LD` and `SLD` in a lane whose access is formed; `give` takes the value, or what the load waits for. -/
def Ctx.load (c : Ctx) (ps : Peers) (s : State) (w : Want) (sc : Scope) (stamp : Bool)
    (give : State → UVal → Option Await → LaneOut) : LaneOut :=
  let zero (s : State) : LaneOut := give s ⟨0, false⟩ none
  match c.form s w with
  | .outside => zero s
  | .poison => if c.th.dem then zero s else c.poisoned s 0x02 0 0
  | .trap t => if c.th.dem then zero s else .trap t s
  | .scr m o =>
    let r := c.scrRead s m o w.z
    give s ⟨BitVec.ofNat 64 (ofBytes r.1), r.2⟩ none
  | .va a =>
    match s.fate c.blk .load [0, 1, 2] (stamp && !c.th.dem) c.th.dem a with
    | (s1, .trap t) => if c.th.dem then zero s1 else .trap t s1
    | (s1, .go e) =>
      if e.tier = 2 then match c.askLine? ps s1 e a with
        | (s2, some req) => give s2 ⟨0, false⟩ (some (.answer req (a % 128) none))
        | (s2, none) => if c.th.dem then zero s2 else .trap { kind := 0x11, addr := a, info := 2 } s2
      else
        let cache := (c.record w.rcd).cache
        let s2 := if s1.leavesL1 c.id.core e a cache (sc != .blk) then ps.counts s1 w [0, 1, 2] stamp false c e a else s1
        let r := s2.loadMem { c.reader a with shed := ps.accesses w } c.id.core e a w.z cache (sc != .blk)
        give r.1 ⟨BitVec.ofNat 64 (ofBytes r.2.1), r.2.2⟩ none
    | (s1, _) => if c.th.dem then zero s1 else .hold a false s1

def ldLane (p : Ld) (ps : Peers) (s : State) (c : Ctx) : LaneOut :=
  c.load ps s (wantOf p.m (tySize p.ty) .load 1) p.sc true
    (fun s v a => c.deliver s p.d p.ty ⟨BitVec.ofNat 64 (loadValue p.ty v.nat), v.poison⟩
      (fun l => { c.acqAt p.ord p.sc l with await := a }))
def execLd (p : Ld) (s : State) : Host.Outcome State Fault Refusal := instrWith (.ld p) (ldLane p) s

/-- A lane held at an `SLD`: its register is pending until the data returns. -/
def LaneOut.holdUni (id : ThreadId) (r : BitVec 8) : LaneOut → LaneOut
  | .hold va w s => .hold va w (s.modThread id (fun th => { th with heldUni := some r }))
  | o => o

/-- `SLD` (R368, R369): by the token holder alone, or by a thread held at it since it was; unstamped, at `.BLK`. -/
def sldLane (p : Sld) (ps : Peers) (s : State) (c : Ctx) : LaneOut :=
  if !c.holdsToken s && !(c.now s).heldUni.isSome then .trap { kind := 0x07 } s
  else
    let t : Ty := if p.wide then .n64 else .n32
    (c.load ps s ⟨p.rcd, p.x, p.off.toInt, tySize t, .load, 1⟩ .blk false (fun s v a =>
      .done (s.modThread c.id (fun th =>
        { th with
          loads := th.loads ++ [⟨none, some (p.reg, p.wide), t, v, none, a, false, false⟩]
          heldUni := none })))).holdUni c.id p.reg
def execSld (p : Sld) (s : State) : Host.Outcome State Fault Refusal := instrWith (.sld p) (sldLane p) s

/-- `LDFX` (R273, R409): the whole cell at its home slice. -/
def ldfxLane (p : Ld) (ps : Peers) (s : State) (c : Ctx) : LaneOut :=
  let w := wantOf p.m 16 .load 1
  let give (s : State) (v : UVal) (f : BitVec 5) : LaneOut :=
    c.deliver (s.raiseFP c f) p.d p.ty v (c.acqAt p.ord p.sc)
  let zero (s : State) : LaneOut := give s ⟨0, false⟩ 0
  match c.form s w with
  | .outside => zero s
  | .poison => if c.th.dem then zero s else c.poisoned s 0x02 0 0
  | .trap t => if c.th.dem then zero s else .trap t s
  | .scr _ o => if c.th.dem then zero s else .trap { kind := 0x0E, addr := o } s
  | .va a =>
    match s.fate c.blk .load [1] false c.th.dem a with
    | (s1, .trap t) => if c.th.dem then zero s1 else .trap t s1
    | (s1, .go e) =>
      let s2 := (ps.counts s1 w [1] false false c e a).flushRange c.id.core (e.pa a) 16
      let r := s2.homeRead (c.reader a) (e.pa a) 16
      let v := cellRead (tyFmt p.ty) (ofBytes r.2.1)
      give r.1 ⟨BitVec.ofNat 64 v.1, r.2.2⟩ v.2
    | (s1, _) => if c.th.dem then zero s1 else .hold a false s1
def execLdfx (p : Ld) (s : State) : Host.Outcome State Fault Refusal := instrWith (.ldfx p) (ldfxLane p) s

/-! ## ST -/

/-- The type and operation of an access as a packet and a log entry carry them (assumption 24). -/
def subOf (t : Ty) (op : Nat) : BitVec 8 := BitVec.ofNat 8 (t.code.toNat + op * 16)

/-- Bytes put into a packet whose run they touch: the run grows, the later bytes stand, and its granules take their poison. -/
def takeBytes (q : Packet) (a : Nat) (bs : List Byte) (poison : List Nat) : Packet :=
  let o := q.addr.toNat
  let lo := minOf a [o]
  let hi := if o + q.payload.length < a + bs.length then a + bs.length else o + q.payload.length
  let byte (x : Nat) : Byte := if a ≤ x && decide (x < a + bs.length) then bs[x - a]?.getD 0 else q.payload[x - o]?.getD 0
  { q with
    addr := BitVec.ofNat 54 lo
    payload := (List.range (hi - lo)).map (fun i => byte (lo + i))
    marks := (runAll addNat (q.marks.map (· + o / 32) ++ poison) []).map (· - lo / 32) }

/-- A packet's bytes meet, or are next to, `n` bytes at an address of the same line; they overlap. -/
def meetsRun (q : Packet) (a n : Nat) : Bool :=
  q.addr.toNat / 128 == a / 128 && decide (a ≤ q.addr.toNat + q.payload.length) && decide (q.addr.toNat ≤ a + n)
def overlaps (q : Packet) (a n : Nat) : Bool :=
  decide (a < q.addr.toNat + q.payload.length) && decide (q.addr.toNat < a + n)

/-- The bytes that lanes of a shed store to a line of another module go out together: bytes that follow one another in one packet,
since a packet's payload has no gaps (R39, R190; assumption 92). -/
def Ctx.storeThere (c : Ctx) (ps : Peers) (s : State) (q : Packet) (a : Nat) (bs : List Byte) (p : Bool) : State :=
  let bad := if p then granules a bs.length else []
  match s.sentBy ps q (fun x => meetsRun x a bs.length) with
  | [] => s.send (some c.id.core) (.store [c.owner]) { q with payload := bs, marks := if p then [0] else [] }
  | u :: us =>
    let whole := us.foldl (fun x v => takeBytes x v.packet.addr.toNat v.packet.payload (v.packet.marks.map (· + v.packet.addr.toNat / 32)))
      u.packet
    let os := match u.origin with | .store os => os | _ => []
    let s1 := runAll (fun (s : State) v =>
      if overlaps v.packet a bs.length then s.amend v (takeBytes v.packet a bs bad) v.origin else s) us s
    s1.amend u (takeBytes whole a bs bad) (.store (os ++ [c.owner]))

/-- A store of the shed's lane to the global page that `e` maps. -/
def Ctx.storeTo (c : Ctx) (ps : Peers) (s : State) (e : TlbEntry) (w : Want) (a : Nat) (sc : Scope) (bs : List Byte) (p full : Bool) :
    State :=
  let cache := (c.record w.rcd).cache
  if e.tier = 2 then
    let q := tierPacket e 0x01 a
    if s.reachable c.blk.tenant q.dmod then c.storeThere ps (ps.counts s w [0, 1, 2] true false c e a) q a bs p
    else s.trapLater c.id (remoteTrap 2 a)
  else
    let s1 := if s.leavesL1 c.id.core e a cache (sc != .blk) then ps.counts s w [0, 1, 2] true false c e a else s
    s1.storeMem c.id.core e a cache (sc != .blk) bs p (if full then [e.pa a / 32] else [])

def stLane (p : St) (ps : Peers) (s : State) (c : Ctx) : LaneOut :=
  let w := wantOf p.m (tySize p.ty) .store 2
  let data (c : Ctx) : UVal := c.src s 0 p.ty.wide p.c
  let v := data c
  let bs := toBytes w.z v.nat
  if c.th.dem then .done s
  else match c.form s w with
  | .outside => .done s
  | .poison => c.poisoned s 0x02 0 0
  | .trap t => .trap t s
  | .scr m o =>
    (if releases p.ord then c.release s p.sc else fun k => k s) (fun s =>
      let full := covered (ps.spans w data) ⟨some (c.id.ent, m), o, w.z, v.poison⟩
      match c.scrBlock s m with
      | none => .done s
      | some b =>
        let s1 := s.scrStore b o bs v.poison (if full then [b.scrAddr o / 32] else [])
        .done (if ps.poisonedStore w data == some c.id then c.poisonStore s1 1 o 0 else s1))
  | .va a =>
    (if releases p.ord then c.release s p.sc else fun k => k s) (fun s =>
      let full := covered (ps.spans w data) ⟨none, a, w.z, v.poison⟩
      let mark (s : State) (pa : Nat) : State :=
        if ps.poisonedStore w data == some c.id then c.poisonStore s (if p.sc == .blk then 1 else 2) a pa else s
      let units := [crcUnit 1 a v.nat]
      match s.fate c.blk .store [0, 1, 2] true false a with
      | (s1, .trap t) => .trap t s1
      | (s1, .go e) =>
        if c.blk.verify == .secondary then .done (c.untyped s1 units)
        else .done (c.untyped (mark (c.storeTo ps s1 e w a p.sc bs v.poison full) (if e.tier = 2 then 0 else e.pa a)) units)
      | (s1, _) =>
        if c.blk.verify == .secondary then .done (c.untyped s1 units)
        else match s1.append (ps.before.core c.id.core).sideLog.length c.blk c.id.tid
            ⟨1, subOf p.ty 0, p.ord, p.sc, a, bs, v.poison, []⟩ (fun _ new => new) with
          | some s2 => .done (c.untyped (mark s2 0) units)
          | none => .hold a true s1)
def execSt (p : St) (s : State) : Host.Outcome State Fault Refusal := instrWith (.st p) (stLane p) s

/-! ## Atomics (R237, R238, R407, R408) -/

/-- A read-modify-write: its operation (none for `CAS`) and code for logs and packets, the new value if one is written, and the
operand words. -/
structure Rmw where
  op : Option AtomOp
  code : Nat
  ty : Ty
  f : Nat → Option Nat
  x : Nat
  cmp : Nat
  ret : Bool
  /-- OP of a side-log entry (R203) -/
  log : Nat

/-- How an atomic packet names its operation, for which R39 has no field: SIGNODE[7:0] the operation and type of R203's SUB,
SIGNODE[8] that nothing is returned (assumption 24). -/
def atomicNode (sub : BitVec 8) (ret : Bool) : BitVec 16 := BitVec.ofNat 16 (sub.toNat + 2 ^ 8 * b2n (!ret))

/-- A poisoned target is consumed (R288): SRC is that of the scratchpad or of L2. -/
def Ctx.badTarget (c : Ctx) (s : State) (a src : Nat) : Eff := .out (c.poisoned s 0x03 a src)

/-- An atomic on a scratchpad word. -/
def Ctx.rmwScr (c : Ctx) (s : State) (m : Option Nat) (o : Nat) (q : Rmw) : Eff :=
  let n := tySize q.ty
  let r := c.scrRead s m o n
  if r.2 then c.badTarget s o 1
  else
    let old := ofBytes r.1
    .done (BitVec.ofNat 64 old) (match q.f old, c.scrBlock s m with
      | some v, some b => s.scrStore b o (toBytes n v) false []
      | _, _ => s)

/-- An atomic at another module: lanes of a shed on one place are combined into one request, in which each takes the operands of the
lanes below it with it; `CAS` lanes follow one another on one path (R190, R207, R237, R238). `waits` says that the thread waits for
an atomic that returns nothing, to acquire after it (R230). -/
def Ctx.rmwThere (c : Ctx) (ps : Peers) (s : State) (w : Want) (e : TlbEntry) (a : Nat) (q : Rmw) (waits : Bool) : Eff :=
  let pk := { tierPacket e 0x05 a with
    opnd := BitVec.ofNat 64 q.x, opnd2 := BitVec.ofNat 64 q.cmp, signode := atomicNode (subOf q.ty q.code) q.ret }
  let mates := s.sentBy ps pk (fun p => p.addr == pk.addr)
  let send : Eff :=
    let s1 := ps.counts s w [0, 2] false false c e a
    if q.ret || waits then
      let r := s1.ask c.id.core c.owner (mates.head?.map (·.packet.path)) pk
      .await (.answer r.2 0 none) r.1
    else .done 0 (s1.send (some c.id.core) (.store [c.owner]) pk)
  if !s.reachable c.blk.tenant pk.dmod then
    (if q.ret then .out (.trap { kind := 0x11, addr := a, info := 2 } s) else .done 0 (s.trapLater c.id (remoteTrap 2 a)))
  else match q.op, mates with
    | some op, u :: _ =>
      let pk' := { u.packet with opnd := BitVec.ofNat 64 (atomApply op q.ty u.packet.opnd.toNat q.x) }
      match u.origin with
      | .load _ req =>
        .await (.answer req 0 (if q.ret then some (op, q.ty, u.packet.opnd.toNat) else none)) (s.amend u pk' u.origin)
      | .store os => .done 0 (s.amend u pk' (.store (os ++ [c.owner])))
      | _ => send
    | _, _ => send

/-- An atomic on global memory, at the home slice, in host memory or at another module. -/
def Ctx.rmwAt (c : Ctx) (ps : Peers) (s : State) (w : Want) (e : TlbEntry) (a : Nat) (q : Rmw) (waits : Bool) : Eff :=
  let n := tySize q.ty
  if e.tier = 2 then c.rmwThere ps s w e a q waits
  else if e.tier = 3 then
    let s1 := ps.counts s w [0, 2] false false c e a
    if s1.host.anyPoison (e.pa a) n then c.badTarget s1 a 4
    else
      let old := s1.host.nat (e.pa a) n
      .done (BitVec.ofNat 64 old) (match q.f old with
        | some v => s1.hostStore (e.pa a) (toBytes n v) false []
        | none => s1)
  else
    let s1 := (ps.counts s w [0, 2] false false c e a).flushRange c.id.core (e.pa a) n
    let r := s1.homeRead (c.reader a) (e.pa a) n
    if r.2.2 then c.badTarget r.1 a 2
    else
      let old := ofBytes r.2.1
      .done (BitVec.ofNat 64 old) (match q.f old with
        | some v => r.1.homeStore (e.pa a) (toBytes n v) false []
        | none => r.1)

/-- The lane of an atomic whose access is formed and whose operand is not poisoned. `join` combines operands of lanes
that meet in one side-log entry; `give` delivers the old value, or what the access still waits for. -/
def Ctx.atomic (c : Ctx) (ps : Peers) (s : State) (w : Want) (q : Rmw) (o : Ord) (sc : Scope) (poisoned : Bool)
    (join : Nat → Nat → Nat) (zero : State → LaneOut) (give : State → Nat → Option Await → LaneOut) : LaneOut :=
  let type := if q.ret then 1 else 2
  let waits := !q.ret && acquires o && sc != .blk
  -- an access that ended in a failure before a rollback fails again
  let after (s : State) (e : Effect) : LaneOut := match e.fail with
    | some f => .done (s.trapLater c.id (remoteTrap f.status f.addr))
    | none => give s e.result.toNat e.owed
  let before (s : State) (k : State → LaneOut) : LaneOut := if releases o then c.release s sc k else k s
  match c.form s w with
  | .outside => zero s
  | .poison => c.poisoned s 0x02 0 0
  | .trap t => .trap t s
  | .scr m a =>
    if poisoned then c.poisoned s 0x03 0 0
    else before s (fun s => c.effect s type false [] (fun s => c.rmwScr s m a q) after)
  | .va a =>
    if poisoned then c.poisoned s 0x03 0 0
    else before s (fun s => c.effect s type true [crcUnit (16 + q.code) a q.x] (fun s =>
      match s.fate c.blk w.acc [0, 2] false false a with
      | (s1, .trap t) => .out (.trap t s1)
      | (s1, .go e) => c.rmwAt ps s1 w e a q waits
      | (s1, .log) =>
        let n := tySize q.ty
        match s1.append (ps.before.core c.id.core).sideLog.length c.blk c.id.tid
            ⟨q.log, subOf q.ty q.code, o, sc, a, toBytes n q.x, false, []⟩
            (fun old new => toBytes n (join (ofBytes old) (ofBytes new))) with
        | some s2 => if waits then .await .replay s2 else .done 0 s2
        | none => .out (.hold a true s1)
      | (s1, .hold) => .out (.hold a true s1)) after)

/-- The acquire of an atomic that returns nothing: after the access has performed, and after the thread's loads (R228, R230). -/
def Ctx.acqNow (c : Ctx) (s : State) (o : Ord) (sc : Scope) (a : Option Await) : State :=
  match a with
  | some _ => s.modThread c.id (fun th => { th with loads := th.loads ++ [acquireRec a] })
  | none => if acquires o then c.acquire s sc else s


def AtomOp.num : AtomOp → Nat
  | .add => 0
  | .min => 1
  | .max => 2
  | .and => 3
  | .or => 4
  | .xor => 5
  | .exch => 6

/-- `ATOM` (R407): without a destination it needs only write access and returns nothing. -/
def atomLane (p : Atom) (ps : Peers) (s : State) (c : Ctx) : LaneOut :=
  let ret := !p.d.nwb
  let x := c.src s 0 p.ty.wide p.c
  let give (s : State) (v : Nat) (l : LoadRec → LoadRec) : LaneOut :=
    if ret then c.deliver s p.d p.ty ⟨BitVec.ofNat 64 v, false⟩ l else .done s
  if c.th.dem then give s 0 id
  else
    c.atomic ps s (wantOf p.m (tySize p.ty) (if ret then .atom else .red) (if ret then 3 else 2))
      ⟨some p.op, AtomOp.num p.op, p.ty, fun old => some (atomApply p.op p.ty old x.nat), x.nat, 0, ret, 4⟩ p.ord p.sc x.poison
      (atomApply p.op p.ty) (fun s => give s 0 id)
      (fun s v a =>
        if ret then give s v (fun l => { c.acqAt p.ord p.sc l with await := a }) else .done (c.acqNow s p.ord p.sc a))
def execAtom (p : Atom) (s : State) : Host.Outcome State Fault Refusal := instrWith (.atom p) (atomLane p) s

def redLane (p : Red) (ps : Peers) (s : State) (c : Ctx) : LaneOut :=
  let x := c.src s 0 p.ty.wide p.c
  if c.th.dem then .done s
  else
    c.atomic ps s (wantOf p.m (tySize p.ty) .red 2)
      ⟨some p.op, AtomOp.num p.op, p.ty, fun old => some (atomApply p.op p.ty old x.nat), x.nat, 0, false, 2⟩ p.ord p.sc x.poison
      (atomApply p.op p.ty) .done (fun s _ _ => .done s)
def execRed (p : Red) (s : State) : Host.Outcome State Fault Refusal := instrWith (.red p) (redLane p) s

/-- The compare value and the new value of `CAS` (R408). -/
def casGroup (p : Cas) (c : Ctx) (s : State) : UVal × UVal :=
  (c.src s 0 p.ty.wide (.v p.g), c.src s 0 p.ty.wide (.v (p.g + (if p.ty.wide then 2 else 1))))

def casLane (p : Cas) (ps : Peers) (s : State) (c : Ctx) : LaneOut :=
  let g := casGroup p c s
  let give (s : State) (v : Nat) (l : LoadRec → LoadRec) : LaneOut := c.deliver s p.d p.ty ⟨BitVec.ofNat 64 v, false⟩ l
  if c.th.dem then give s 0 id
  else
    c.atomic ps s (wantOf p.m (tySize p.ty) .atom 3)
      ⟨none, 15, p.ty, fun old => if old == g.1.nat then some g.2.nat else none, g.2.nat, g.1.nat, true, 4⟩ p.ord p.sc
      (g.1.poison || g.2.poison) (fun _ x => x) (fun s => give s 0 id)
      (fun s v a => give s v (fun l =>
        { c.acqAt p.ord p.sc l with await := a, cas := if p.d.cce then some (p.d.cct, g.1.nat) else none }))
def execCas (p : Cas) (s : State) : Host.Outcome State Fault Refusal := instrWith (.cas p) (casLane p) s

/-! ## ATFX (R271, R409) -/

/-- The addend of a cell addition: its value, unflushed. -/
def addendOf (t : Ty) (x : Nat) : Num := (tyFmt t).read false x

/-- A cell addition at the home slice; a saturation sets OVF (R271, R272). -/
def State.addCell (s : State) (t : Nat) (pa : Nat) (x : Num) : State :=
  let r := cellAdd (s.mem.nat pa 16) x
  let s1 := s.homeStore pa (toBytes 16 r.1) false []
  if r.2 then s1.modTenant t (fun y => { y with fxovf := true }) else s1

/-- The cells that several lanes of a shed add to. -/
def Peers.sharedCells (ps : Peers) (w : Want) : List Nat :=
  let at_ := ps.lanes.filterMap (fun c => match c.form ps.before w with | .va a => some a | _ => none)
  at_.filter (fun a => decide (1 < (at_.filter (fun x => x == a)).length))

def atfxLane (p : St) (ps : Peers) (s : State) (c : Ctx) : LaneOut :=
  let w := wantOf p.m 16 .red 2
  let x := c.src s 0 p.ty.wide p.c
  if c.th.dem then .done s
  else match c.form s w with
  | .outside => .done s
  | .poison => c.poisoned s 0x02 0 0
  | .trap t => .trap t s
  | .scr _ o => .trap { kind := 0x0E, addr := o } s
  | .va a =>
    if x.poison then c.poisoned s 0x03 0 0
    else (if releases p.ord then c.release s p.sc else fun k => k s) (fun s =>
      c.effect s 2 true [crcUnit 32 a x.nat] (fun s =>
        match s.fate c.blk .red [1] false false a with
        | (s1, .trap t) => .out (.trap t s1)
        | (s1, .go e) =>
          let s2 := (ps.counts s1 w [1] false false c e a).flushRange c.id.core (e.pa a) 16
          let s3 := s2.discover (c.reader a) (e.pa a) 16
          if s3.mem.anyPoison (e.pa a) 16 then c.badTarget s3 a 2
          else .done 0 (s3.addCell e.tenant (e.pa a) (addendOf p.ty x.nat))
        | (s1, _) =>
          match s1.append (ps.before.core c.id.core).sideLog.length c.blk c.id.tid
              ⟨3, subOf p.ty 0, p.ord, p.sc, a, toBytes 16 x.nat, false, ps.sharedCells w⟩ (fun _ new => new) with
          | some s2 => .done 0 s2
          | none => .out (.hold a true s1)) (fun s _ => .done s))
def execAtfx (p : St) (s : State) : Host.Outcome State Fault Refusal := instrWith (.atfx p) (atfxLane p) s

/-! ## PREF (R410) -/

/-- A prefetch into L1, or into L2, which holds no state of its own here; every failure drops the lane. -/
def prefLane (p : Pref) (ps : Peers) (s : State) (c : Ctx) : LaneOut :=
  let w := wantOf p.m 1 .load 1
  if c.th.dem then .done s
  else match c.form s w with
  | .va a => match s.fate c.blk .load [0] false true a with
    | (s1, .go e) =>
      if 2 ≤ e.tier then .done s1
      else if p.dev then .done (ps.counts s1 w [0] false true c e a)
      else .done (s1.fillLine (c.reader a) c.id.core e a 0).1
    | (s1, _) => .done s1
  | _ => .done s
def execPref (p : Pref) (s : State) : Host.Outcome State Fault Refusal := instrWith (.pref p) (prefLane p) s

/-! ## Replay of the side log (R204, R205) -/

/-- The operation of a logged atomic. -/
def opOfSub (sub : BitVec 8) : AtomOp := (AtomOp.ofCode (sub.extractLsb' 4 4)).getD .exch
def tyOfSub (sub : BitVec 8) : Ty := (Ty.ofCode (sub.extractLsb' 0 4)).getD .n32

/-- The aligned pieces of a line's mask, of `z` bytes: offsets whose first byte is set. -/
def maskedUnits (m : BitVec 128) (z : Nat) : List Nat :=
  ((List.range (128 / z)).map (· * z)).filter (fun o => m.getLsbD o)

/-- The runs of set bits of a mask: their offsets and lengths. -/
def maskedRuns (m : BitVec 128) (i : Nat) : Nat → List (Nat × Nat)
  | 0 => []
  | n + 1 =>
    let rest := maskedRuns m (i + 1) n
    if !m.getLsbD i then rest
    else match rest with
      | (o, k) :: more => if o = i + 1 then (i, k + 1) :: more else (i, 1) :: rest
      | [] => [(i, 1)]

/-- The pieces in which an entry performs: its units, or for stores to another module its runs of bytes. -/
def SideEntry.pieces (e : SideEntry) (tier z : Nat) : List (Nat × Nat) :=
  if e.op = 1 && tier == 2 then maskedRuns e.mask 0 128 else (maskedUnits e.mask z).map (fun o => (o, z))

/-- The bytes of an entry from an offset on. -/
def SideEntry.bytesAt (e : SideEntry) (o n : Nat) : List Byte := (e.data.drop o).take n

/-- The access class of an entry. -/
def SideEntry.acc (e : SideEntry) : Acc := if e.op = 1 then .store else .red

/-- One unit of an entry performs as its access would have; false for a poisoned target. -/
def State.replayUnit (s : State) (b : Block) (id : ThreadId) (en : SideEntry) (e : TlbEntry) (o n : Nat) : State × Bool :=
  let a := en.line * 128 + o
  let pa := e.pa a
  let bs := en.bytesAt o n
  let x := ofBytes bs
  let own : Owner := b.ownerOf id.tid
  if en.op = 1 then
    let p := en.poison.getLsbD o
    let full := (List.range 32).all (fun i => en.mask.getLsbD (o / 32 * 32 + i)) && (en.poison.extractLsb' (o / 32 * 32) 32) == 0
    if e.tier = 2 then
      let bad := (granules o n).filter (fun g => (List.range 32).any (fun i => decide (o ≤ 32 * g + i) && decide (32 * g + i < o + n)
        && en.poison.getLsbD (32 * g + i)))
      let q := { tierPacket e 0x01 a with payload := bs, marks := bad.map (· - o / 32) }
      if s.reachable b.tenant q.dmod then (s.send (some b.core) (.store [own]) q, true)
      else (s.trapLater id (remoteTrap 2 a), true)
    else (s.storeMem b.core e a 0 (en.scope != .blk) bs p (if full then [pa / 32] else []), true)
  else if e.tier = 2 then
    let q := { tierPacket e 0x05 a with opnd := BitVec.ofNat 64 x, signode := atomicNode en.sub false }
    if s.reachable b.tenant q.dmod then (s.send (some b.core) (.store [own]) q, true)
    else (s.trapLater id (remoteTrap 2 a), true)
  else if e.tier = 3 then
    let t := tyOfSub en.sub
    (s.hostStore pa (toBytes n (atomApply (opOfSub en.sub) t (s.host.nat pa n) x)) false [], true)
  else
    let s1 := (s.flushRange b.core pa n).discover (.thread_ b.tenant id en.pc.toNat a) pa n
    if s1.mem.anyPoison pa n then (s1, false)
    else if en.op = 3 then
      let t := tyOfSub en.sub
      (s1.addCell b.tenant pa (addendOf t x), true)
    else
      let t := tyOfSub en.sub
      (s1.homeStore pa (toBytes n (atomApply (opOfSub en.sub) t (s1.mem.nat pa n) x)) false [], true)

/-- The pieces of an entry in order; a poisoned target ends it (R288). -/
def State.replayUnits (s : State) (b : Block) (id : ThreadId) (en : SideEntry) (e : TlbEntry) : List (Nat × Nat) → State
  | [] => s
  | (o, n) :: os =>
    match s.replayUnit b id en e o n with
    | (s1, true) => s1.replayUnits b id en e os
    | (s1, false) =>
      (s1.consumed id 0x03 en.pc.toNat (en.line * 128 + o) 2).trapLater id ⟨0x10, en.line * 128, 0, 0, false, none⟩

/-- The oldest entry of a core's log is tried: it performs, is discarded with its thread's trap, or waits (R204, R205). -/
def State.replayFirst (s : State) (core : Nat) : State :=
  match (s.core core).sideLog with
  | [] => s
  | en :: rest =>
    let popped (s : State) : State := s.modCore core (fun c => { c with sideLog := rest })
    match s.block? core en.slote with
    | none => popped s
    | some b =>
      let id := b.idOf en.thread
      let a := en.line * 128
      let later (s : State) (k : Nat) : State := (popped s).trapLater id ⟨k, a, 0, 0, false, none⟩
      let kinds := if en.op = 1 then [0, 1, 2] else if en.op = 3 then [1] else [0, 2]
      match s.xlat core en.tenant a en.acc with
      | (s1, .notValid) => s1
      | (s1, .blocked) => s1
      | (s1, .perm) => later s1 0x0C
      | (s1, .format) => later s1 0x0D
      | (s1, .ok e) =>
        if !kinds.contains e.kind then later s1 0x0E
        else if en.op == 1 && s1.mismatched b e && b.flag 4 then later s1 0x0F
        else
          let s2 := if en.op == 1 && s1.mismatched b e then s1.countMismatch b.tenant else s1
          let z := if en.op = 3 then 16 else tySize (tyOfSub en.sub)
          let s3 := if en.op != 1 || e.tier == 2 || s2.leavesL1 core e a 0 (en.scope != .blk) then s2.countAt b.grid e a else s2
          (popped s3).replayUnits b id en e (en.pieces e.tier z)

/-- Waiting entries retry (R204, R206). -/
def execSideLogReplay (core : Nat) (s : State) : Host.Outcome State Fault Refusal :=
  if Config.cores ≤ core then .fault .noSuchAgent else .next (s.replayFirst core)

end Sys2Proof.Machine
end

