-- ==== Sys2Proof/Machine/CopyEngine.lean ====
section
/-! DEFINITION. The copy engine: CPY, CPYT, MXLDB and COPY_COMPLETE (R417 to R424, R246 to R248, R283, R435, R455, R456). -/

namespace Sys2Proof.Machine

/-! ## Places -/

/-- Where a byte lies for an engine of a block: a virtual address, a scratchpad (own, or of a gang member), the tile. -/
inductive Loc where
  | va (a : Nat)
  | scr (member : Option Nat) (off : Nat)
  | tile (a : Nat)
  deriving DecidableEq, Repr

def Loc.addr : Loc → Nat
  | .va a => a
  | .scr _ o => o
  | .tile a => a

/-- The byte at an in-record offset of an engine record (R422). -/
def Rec.locate (r : Rec) (o : Nat) : Loc :=
  let a := r.base + (if r.swz = 1 then bankSwizzle o else o)
  if r.space = 0 then .va a else if r.space = 1 then .scr none a else if r.space = 2 then .scr (some r.member) a else .tile a

/-- The tile offset of a slice and slice offset (R435). -/
def tileOffset (slice u : Nat) : Nat := u / 64 * 16384 + slice * 64 + u % 64

/-- The place in `State.bstore` of an offset of a quad's tile. -/
def tileAddr (quad t : Nat) : Nat := quad * Config.tileBytes + t

/-! ## What a command moves (R422, R456) -/

/-- Bytes that move together: at most 16, inside one granule at either end; no source writes zeros. -/
structure Piece where
  src : Option Loc
  dst : Loc
  n : Nat
  deriving DecidableEq, Repr

/-- A piece, or the failure that ends a gather before its row. -/
inductive Item where
  | piece (p : Piece)
  | poison (off : Nat)
  | bounds (a : Nat)
  deriving DecidableEq, Repr

/-- The bytes from one offset on to another place, cut where a granule or a swizzled unit ends; `at_` gives the
destination of an offset. -/
def pieces (src : Option Rec) (o : Nat) (at_ : Nat → Loc) (o2 : Nat) : Nat → Nat → List Item
  | 0, _ => []
  | fuel + 1, len =>
    if len = 0 then []
    else
      let sl := src.map (fun r => r.locate o)
      let dl := at_ o2
      let n := minOf len ([16 - o2 % 16, 32 - dl.addr % 32] ++ (match sl with
        | some l => [16 - o % 16, 32 - l.addr % 32]
        | none => []))
      .piece ⟨sl, dl, n⟩ :: pieces src (o + n) at_ (o2 + n) fuel (len - n)

/-- Bytes of a copy command: LIN, GATH, G2S, S2G and MXLDB in turn. -/
def CopyCmd.arg (k : CopyCmd) (i : Nat) : Nat := dword k.args i

/-- The in-record offset of an index (R181). -/
def Rec.start (r : Rec) (idx : Nat) : Nat := if r.stride = 0 then idx else idx * r.stride

/-- ROWLEN, ROWS, PLANES and PROWS of a CPYT group (R420). -/
def rowLen (q3 : Nat) : Nat := field q3 0 16
def rowCount (q3 : Nat) : Nat := field q3 16 12
def planeCount (q4 : Nat) : Nat := field q4 0 8
def planeRows (q4 : Nat) : Nat := field q4 8 13

/-- KBYTES and the columns of an MXLDB group (R455). -/
def kBytes (q2 : Nat) : Nat := field q2 0 24
def loadColumns (q2 : Nat) : Nat := if bitOf q2 24 then 128 else 256

/-- The byte count of a command (R422, R456). -/
def CopyCmd.count (k : CopyCmd) : Nat :=
  match k.form with
  | 0 => k.arg 2
  | 1 => k.arg 2 * (Rec.of k.src).stride
  | 4 => loadColumns (k.arg 2) * kBytes (k.arg 2)
  | _ => planeCount (k.arg 4) * rowCount (k.arg 3) * rowLen (k.arg 3)

/-- The rows of a gather from row `i` on, up to a poisoned index word or one out of range under OOB 0. -/
def State.gatherRows (s : State) (b : Block) (k : CopyCmd) : Nat → Nat → List Item
  | 0, _ => []
  | n + 1, i =>
    let r := Rec.of k.src
    let d := Rec.of k.dst
    let off := k.arg 0 + 4 * i
    let x := s.scrLoad b off 4
    let o := ofBytes x.1 * r.stride
    let o2 := d.start (k.arg 1) + i * r.stride
    if x.2 then [.poison off]
    else if (r.lim b.alloc) < o + r.stride then
      (if r.oob = 0 then [.bounds (r.base + o)]
       else pieces none 0 d.locate o2 r.stride r.stride ++ s.gatherRows b k n (i + 1))
    else pieces (some r) o d.locate o2 r.stride r.stride ++ s.gatherRows b k n (i + 1)

/-- Every row of a tile copy: global offset and scratchpad offset of row `i` of plane `p`. -/
def CopyCmd.tileRow (k : CopyCmd) (stride p i : Nat) : Nat × Nat :=
  ((k.arg 0 + p * planeRows (k.arg 4) + i) * stride + k.arg 1, k.arg 2 + (p * rowCount (k.arg 3) + i) * rowLen (k.arg 3))

def CopyCmd.tileItems (k : CopyCmd) : List Item :=
  let src := Rec.of k.src
  let dst := Rec.of k.dst
  let n := rowLen (k.arg 3)
  (List.range (planeCount (k.arg 4))).flatMap (fun p => (List.range (rowCount (k.arg 3))).flatMap (fun i =>
    if k.form = 2 then
      let x := k.tileRow src.stride p i
      pieces (some src) x.1 dst.locate x.2 n n
    else
      let x := k.tileRow dst.stride p i
      pieces (some src) x.2 dst.locate x.1 n n))

/-- The columns of an MXLDB. -/
def CopyCmd.columnItems (k : CopyCmd) : List Item :=
  let r := Rec.of k.src
  let n := kBytes (k.arg 2)
  (List.range (loadColumns (k.arg 2))).flatMap (fun c =>
    pieces (some r) (r.start (k.arg 0) + c * n) (fun u => .tile (tileOffset c u)) (k.arg 1) n n)

/-- Everything that a command moves, in order. -/
def State.copyItems (s : State) (b : Block) (k : CopyCmd) : List Item :=
  match k.form with
  | 0 =>
    let r := Rec.of k.src
    let d := Rec.of k.dst
    pieces (some r) (r.start (k.arg 0)) d.locate (d.start (k.arg 1)) (k.arg 2) (k.arg 2)
  | 1 => s.gatherRows b k (k.arg 2) 0
  | 4 => k.columnItems
  | _ => k.tileItems

/-! ## The form in which a queued command is kept (R424, R456) -/

/-- Word 2 of a form. `lim` is the limit of a gather's source record. -/
def CopyCmd.word2 (k : CopyCmd) (lim : Nat) : Nat :=
  let g := Rec.of (if k.form = 3 then k.dst else k.src)
  match k.form with
  | 0 => k.arg 2
  | 1 => k.arg 0 / 16 + k.arg 2 * 2 ^ 15 + g.stride / 16 * 2 ^ 27 + minOf (lim / g.stride) [2 ^ 38 - 1] % 2 ^ 21 * 2 ^ 43
  | 4 => field (k.arg 2) 0 25
  | _ => g.stride + rowLen (k.arg 3) * 2 ^ 24 + rowCount (k.arg 3) * 2 ^ 40 + planeCount (k.arg 4) * 2 ^ 52

/-- AUX of a form. -/
def CopyCmd.aux (k : CopyCmd) (lim : Nat) : Nat :=
  match k.form with
  | 1 => minOf (lim / (Rec.of k.src).stride) [2 ^ 38 - 1] / 2 ^ 21
  | 2 => planeRows (k.arg 4)
  | 3 => planeRows (k.arg 4)
  | _ => 0

/-- First bytes of the two sides, as offsets of their records before swizzle. -/
def CopyCmd.starts (k : CopyCmd) : Nat × Nat :=
  let s := Rec.of k.src
  let d := Rec.of k.dst
  match k.form with
  | 0 => (s.start (k.arg 0), d.start (k.arg 1))
  | 1 => (0, d.start (k.arg 1))
  | 2 => (k.tileRow s.stride 0 0)
  | 3 => ((k.tileRow d.stride 0 0).2, (k.tileRow d.stride 0 0).1)
  | _ => (s.start (k.arg 0), k.arg 1)

/-- FLAGVAL: the last register of the group. -/
def CopyCmd.flagVal (k : CopyCmd) : Nat := k.arg (k.args.length - 1)

/-- The four words of a queued command of a block with an allocation of `alloc` bytes. -/
def CopyCmd.words (k : CopyCmd) (alloc : Nat) : List DWord :=
  let s := Rec.of k.src
  let d := Rec.of k.dst
  let lim := (s.lim alloc).toNat
  [k.form * 2 ^ 59 + s.swz * 2 ^ 58 + s.member * 2 ^ 56 + s.space * 2 ^ 54 + (s.base + k.starts.1),
   b2n k.done.flag.isSome * 2 ^ 60 + b2n k.done.bar.isSome * 2 ^ 59
     + (if k.form = 4 then 3 * 2 ^ 54 + k.starts.2
        else d.swz * 2 ^ 58 + d.member * 2 ^ 56 + d.space * 2 ^ 54 + (d.base + k.starts.2)),
   k.word2 lim,
   k.aux lim * 2 ^ 47 + k.flagVal * 2 ^ 15 + k.comp / 16].map (BitVec.ofNat 64)

/-! ## An engine's accesses (R246, R247, R202, R283) -/

/-- The page of an engine's access. -/
inductive EngPage where
  | ok (e : TlbEntry)
  | wait
  | fail (f : EngFail)
  deriving DecidableEq, Repr

/-- Translation for a transfer of a block; the flag says that the page's stamp names another contract. -/
def State.engPage (s : State) (b : Block) (acc : Acc) (stamp : Bool) (va : Nat) : State × EngPage × Bool :=
  if acc == .load && s.lineLogged b.core b.tenant va then (s, .wait, false)
  else match s.xlat b.core b.tenant va acc with
    | (s1, .notValid) => (s1, .wait, false)
    | (s1, .blocked) => (s1, .wait, false)
    | (s1, .perm) => (s1, .fail ⟨0x0C, va, 0x03⟩, false)
    | (s1, .format) => (s1, .fail ⟨0x0D, va, 0x08⟩, false)
    | (s1, .ok e) =>
      if stamp && s1.mismatched b e then
        (if b.flag 4 then (s1, .fail ⟨0x0F, va, 0x09⟩, false) else (s1, .ok e, true))
      else (s1, .ok e, false)

/-- The tally of a command's bytes: the state, pieces read with their destinations (latest first), lines to ask of other
modules, a stamp mismatch, and the line counted last. -/
structure Tally where
  s : State
  got : List (Loc × List Byte × Bool)
  asks : List Nat
  mism : Bool
  last : Option Nat

/-- How reading ended. -/
inductive TallyEnd where
  | whole
  | wait
  | fail (f : EngFail)
  deriving DecidableEq, Repr

/-- A 128-byte request beyond the core's L1 counts once per line (R217). -/
def Tally.counted (t : Tally) (b : Block) (e : TlbEntry) (va : Nat) : Tally :=
  if t.last == some (va / 128) then t else { t with s := t.s.countAt b.grid e va, last := some (va / 128) }

/-- Global bytes through the issuing core's L1 (R246); none where another module owes them. -/
def Tally.readVa (t : Tally) (b : Block) (cache : Nat) (lines : List RemoteLine) (e : TlbEntry) (va n : Nat) :
    Tally × Option (List Byte × Bool) :=
  let t1 := if e.tier == 2 || t.s.leavesL1 b.core e va cache false then t.counted b e va else t
  if e.tier = 2 then
    match lines.find? (fun l => l.line == va / 128) with
    | some ⟨_, some (bs, ps), _⟩ => (t1, some ((bs.drop (va % 128)).take n, ps.contains (va % 128 / 32)))
    | _ => ({ t1 with asks := addNat t1.asks (va / 128) }, none)
  else if e.tier = 3 then (t1, some (t1.s.host.read (e.pa va) n, t1.s.host.anyPoison (e.pa va) n))
  else
    let r := if e.kind != 0 then t1.s.homeLoad (.engine_ b va) b.core (e.pa va) n
      else t1.s.l1Load (.engine_ b va) b.core e va n cache
    ({ t1 with s := r.1 }, some r.2)

/-- Scratchpad bytes of a block or of a member of its gang. -/
def State.scrBytes (s : State) (b : Block) (m : Option Nat) (off n : Nat) : List Byte × Bool :=
  match (match m with | none => some b | some r => s.member? b r) with
  | some x => s.scrLoad x off n
  | none => ((List.range n).map (fun i => Config.absentMember s.cycle (off + i)), false)

/-- One piece read; its destination page is looked up too, so that nothing moves before every page is known. A secondary copy's write,
which it does not perform, counts in no MISMATCH (R283, R306). -/
def Tally.piece (t : Tally) (b : Block) (k : CopyCmd) (p : Piece) : Tally × TallyEnd :=
  let dst (t : Tally) (bs : List Byte) (q : Bool) : Tally × TallyEnd :=
    match p.dst with
    | .va a => match t.s.engPage b .store true a with
      | (s1, .ok _, m) => ({ t with s := s1, got := (p.dst, bs, q) :: t.got, mism := t.mism || (m && b.verify != .secondary) }, .whole)
      | (s1, .wait, _) => ({ t with s := s1 }, .wait)
      | (s1, .fail f, _) => ({ t with s := s1 }, .fail f)
    | _ => ({ t with got := (p.dst, bs, q) :: t.got }, .whole)
  match p.src with
  | none => dst t (zeroBytes p.n) false
  | some (.scr m o) => let r := t.s.scrBytes b m o p.n; dst t r.1 r.2
  | some (.tile a) =>
    let x := tileAddr (quadOf b.core) a
    dst t (t.s.bstore.read x p.n) (t.s.bstore.anyPoison x p.n)
  | some (.va a) => match t.s.engPage b .load true a with
    | (s1, .wait, _) => ({ t with s := s1 }, .wait)
    | (s1, .fail f, _) => ({ t with s := s1 }, .fail f)
    | (s1, .ok e, m) =>
      match ({ t with s := s1, mism := t.mism || m } : Tally).readVa b (Rec.of k.src).cache k.remote e a p.n with
      | (t1, some r) => dst t1 r.1 r.2
      | (t1, none) => dst t1 (zeroBytes p.n) false

/-- Pieces read in order, until one waits or fails. -/
def Tally.all (t : Tally) (b : Block) (k : CopyCmd) : List Item → Tally × TallyEnd
  | [] => (t, .whole)
  | .poison off :: _ => (t, .fail ⟨0x10, off, 0x08⟩)
  | .bounds a :: _ => (t, .fail ⟨0x09, a, 0x08⟩)
  | .piece p :: is =>
    match t.piece b k p with
    | (t1, .whole) => t1.all b k is
    | r => r

/-- Two places lie in one granule. -/
def Loc.sameGranule : Loc → Loc → Bool
  | .va a, .va b => a / 32 == b / 32
  | .scr m a, .scr n b => m == n && a / 32 == b / 32
  | .tile a, .tile b => a / 32 == b / 32
  | _, _ => false

/-- Consecutive pieces that fall into one granule: the pieces and whether one is poisoned. -/
structure Granule where
  parts : List (Loc × List Byte)
  poison : Bool

/-- A place some bytes further on. -/
def Loc.plus : Loc → Nat → Loc
  | .va a, n => .va (a + n)
  | .scr m o, n => .scr m (o + n)
  | .tile a, n => .tile (a + n)

/-- Bytes put before others: in one part where those follow on. -/
def joinPart (l : Loc) (bs : List Byte) : List (Loc × List Byte) → List (Loc × List Byte)
  | (l2, b2) :: more => if l.plus bs.length = l2 then (l, bs ++ b2) :: more else (l, bs) :: (l2, b2) :: more
  | [] => [(l, bs)]

def groupGranules : List (Loc × List Byte × Bool) → List Granule
  | [] => []
  | (l, bs, p) :: xs =>
    match groupGranules xs with
    | ⟨(l2, b2) :: more, q⟩ :: gs =>
      if l.sameGranule l2 then ⟨joinPart l bs ((l2, b2) :: more), p || q⟩ :: gs
      else ⟨[(l, bs)], p⟩ :: ⟨(l2, b2) :: more, q⟩ :: gs
    | gs => ⟨[(l, bs)], p⟩ :: gs

/-- All 32 bytes of the granule are written. -/
def Granule.whole (g : Granule) : Bool := (g.parts.foldl (fun n p => n + p.2.length) 0) == 32

/-- The granule's poison after it is written: copied from its sources (R287). -/
def Granule.full (g : Granule) (a : Nat) : List Nat := if g.whole && !g.poison then [a / 32] else []

/-- The line of global memory in which a granule begins. -/
def Granule.line (g : Granule) : Option Nat :=
  match g.parts with
  | (.va a, _) :: _ => some (a / 128)
  | _ => none

/-- What a write of an engine to global memory needs beside the bytes: its core, tenant, grid and fabric origin. -/
structure Writer where
  core : Nat
  tenant : Nat
  grid : Option (Nat × BitVec 16)
  origin : Origin

/-- Bytes written by an engine to a global page (R247): at the home slice after the issuing core has written back and
dropped the line, in host memory, or at another module; the count says how many acknowledgements are owed. -/
def State.engWrite (s : State) (w : Writer) (e : TlbEntry) (va : Nat) (bs : List Byte) (p : Bool) (full : Bool) : State × Nat :=
  let pa := e.pa va
  if e.tier = 2 then
    (s.send (some w.core) w.origin { tierPacket e 0x01 va with payload := bs, marks := if p then [0] else [] }, 1)
  else if e.tier = 3 then (s.hostStore pa bs p (if full then [pa / 32] else []), 0)
  else ((s.flushRange w.core pa bs.length).homeStore pa bs p (if full then [pa / 32] else []), 0)

/-- One granule written, the first of its line as a request (R217); a remote one without a route is the failure of R418. -/
def State.putGranule (s : State) (b : Block) (w : Writer) (g : Granule) (first : Bool) : State × Nat × Bool :=
  let one (r : State × Nat × Bool) (x : Loc × List Byte) : State × Nat × Bool :=
    match x.1 with
    | .va a => match r.1.engPage b .store false a with
      | (s1, .ok e, _) =>
        if b.verify == .secondary then (s1, r.2)
        else if e.tier = 2 && !s1.reachable b.tenant (BitVec.ofNat 11 (e.frameOf a)) then (s1, r.2.1, true)
        else
          let y := (if first then s1.countAt w.grid e a else s1).engWrite w e a x.2 g.poison (g.whole && !g.poison)
          (y.1, r.2.1 + y.2, r.2.2)
      | (s1, _, _) => (s1, r.2)
    | .scr m o => match (match m with | none => s.block? b.core b.ent | some k => r.1.member? b k) with
      | some y =>
        -- a secondary copy writes its own scratchpad alone (R306)
        if b.verify == .secondary && (m.any (fun k => k != b.rec_.rank)) then r
        else (r.1.scrStore y o x.2 g.poison (g.full (y.scrAddr o)), r.2)
      | none => r
    | .tile a =>
      let q := quadOf b.core
      let t := tileAddr q a
      (({ r.1 with bstore := r.1.bstore.store t x.2 g.poison (g.full t) } : State).touchTile q b.tenant, r.2)
  g.parts.foldl one (s, 0, false)

/-- Granules written in order, after those of the line `last`; the answer counts the acknowledgements owed and says whether a
route was missing. -/
def State.putAll (s : State) (b : Block) (w : Writer) (last : Option Nat) : List Granule → State × Nat × Bool
  | [] => (s, 0, false)
  | g :: gs =>
    let x := s.putGranule b w g (g.line != last)
    let y := x.1.putAll b w g.line gs
    (y.1, x.2.1 + y.2.1, x.2.2 || y.2.2)

/-! ## Completion and failure (R418, R423) -/

/-- Addition and flag of a completion in the block's own scratchpad; an addition made while a rollback waits is logged as TYPE 8
(R302). -/
def State.complete (s : State) (b : Block) (d : Done) (count : Nat) : State :=
  let logs (s : State) (off : Nat) : State :=
    if b.snap.any (·.rolling) then (s.modBlock b.core b.ent (fun x => x.logAddition off (BitVec.ofNat 32 count))).syncLog b.core b.ent
    else s
  let s1 := match d.bar with
    | some off => (logs s off).barAdd b off (BitVec.ofNat 32 count)
    | none => s
  match d.flag with
  | some (off, v) => s1.scrStore b off (toBytes 4 v.toNat) false []
  | none => s1

/-- A command leaves its block's queue. -/
def State.dropCopy (s : State) (core ent seq : Nat) : State :=
  s.modBlock core ent (fun b => { b with copies := b.copies.filter (fun k => k.seq != seq) })

def State.modCopy (s : State) (core ent seq : Nat) (f : CopyCmd → CopyCmd) : State :=
  s.modBlock core ent (fun b => { b with copies := b.copies.map (fun k => if k.seq == seq then f k else k) })

/-- A failed command: its thread traps at its next issue, or its gang is killed (R418). -/
def State.failCopy (s : State) (b : Block) (k : CopyCmd) (f : EngFail) : State :=
  let id := b.idOf k.tid
  let s1 := s.dropCopy b.core b.ent k.seq
  let s2 := if f.kind = 0x10 then s1.consumedBy id 0x03 k.pc.toNat f.addr 1 f.status else s1
  s2.trapLater id ⟨f.kind, f.addr, f.status, 0, false, none⟩

/-- A command has moved every byte and nothing is owed: it completes. -/
def State.finishCopy (s : State) (b : Block) (k : CopyCmd) : State :=
  (s.dropCopy b.core b.ent k.seq).complete b k.done k.count

/-- Read requests for lines of other modules. -/
def State.askLines (s : State) (b : Block) (k : CopyCmd) : List Nat → State × Bool
  | [] => (s, true)
  | l :: ls =>
    match s.translate b.core b.tenant (128 * l) .load with
    | (s1, .ok e) =>
      let q := lineRequest e l
      if !s1.reachable b.tenant q.dmod then (s1, false)
      else
        let own : Owner := b.ownerOf k.tid
        let s2 := s1.send (some b.core) (.copy own k.seq) q
        (s2.modCopy b.core b.ent k.seq (fun c => { c with remote := c.remote ++ [⟨l, none, none⟩] })).askLines b k ls
    | (s1, _) => (s1, true)

/-- The engine moves a command's bytes: it waits whole while a page is not valid, asks other modules for the lines it
needs, and writes; a failure leaves the bytes before it written. -/
def State.moveCopy (s : State) (b : Block) (k : CopyCmd) : State :=
  let r := (⟨s, [], [], false, none⟩ : Tally).all b k (s.copyItems b k)
  let t := r.1
  let own : Owner := b.ownerOf k.tid
  match r.2 with
  | .wait => t.s
  | e =>
    if !t.asks.isEmpty then
      match t.s.askLines b k t.asks with
      | (s1, true) => s1
      | (s1, false) => s1.failCopy b k ⟨0x11, 0, 2⟩
    else
      let x := t.s.putAll b ⟨b.core, b.tenant, b.grid, .copy own k.seq⟩ none (groupGranules t.got.reverse)
      let s1 := if t.mism then x.1.countMismatch b.tenant else x.1
      match e with
      | .fail f => s1.failCopy b k f
      | _ =>
        if x.2.2 then s1.failCopy b k ⟨0x11, 0, 2⟩
        else if x.2.1 = 0 then s1.finishCopy b k
        else s1.modCopy b.core b.ent k.seq (fun c => { c with moved := true, owed := x.2.1 })

/-- COPY_COMPLETE: the command at a position of a block's queue, if it is among the 64 that are queued. -/
def execCopyComplete (core ent i : Nat) (s : State) : Host.Outcome State Fault Refusal :=
  if Config.cores ≤ core then .fault .noSuchAgent
  else match s.block? core ent with
    | none => .next s
    | some b =>
      match b.copies[i]? with
      | none => .next s
      | some k =>
        if Config.copyMax ≤ i || b.killed || k.remote.any (fun l => l.data.isNone) then .next s
        else if k.moved then .next (if k.owed = 0 then s.finishCopy b k else s)
        else .next (s.moveCopy b k)

/-! ## Issue (R417, R420, R421, R456) -/

/-- Every byte from an offset on lies inside a record's limit. -/
def Rec.holds (r : Rec) (alloc o n : Nat) : Bool := n == 0 || decide ((o + n : Nat) ≤ r.lim alloc)

/-- The bytes COMP names lie within the allocation. -/
def compOk (alloc : Nat) (bar flg : Bool) (comp : Nat) : Bool :=
  (!bar || decide (comp + 16 ≤ alloc)) && (!flg || decide (comp + (if bar then 20 else 4) ≤ alloc))

def doneOf (bar flg : Bool) (comp : Nat) (v : Word) : Done :=
  ⟨if bar then some comp else none, if flg then some (if bar then comp + 16 else comp, v) else none⟩

/-- A record that an engine uses. -/
def Rec.engineOk (r : Rec) (gsize : Nat) (spaces : List Nat) : Bool := r.ok gsize && decide (r.swz ≤ 1) && spaces.contains r.space

/-- The values of a group are in range (R420). -/
def copyRanges (form : Nat) (q : List Nat) : Bool :=
  let a (i : Nat) : Nat := q[i]?.getD 0
  match form with
  | 0 => decide (a 2 < 2 ^ 31)
  | 1 => a 0 % 16 == 0 && decide (1 ≤ a 2) && decide (a 2 ≤ 4095)
  | _ => decide (1 ≤ rowLen (a 3)) && decide (1 ≤ rowCount (a 3)) && zeroField (a 3) 28 4 && decide (1 ≤ planeCount (a 4))
      && zeroField (a 4) 21 11

/-- The sides of a command: where each begins, and whether it lies inside its limit (R421). -/
def copySides (form : Nat) (alloc : Nat) (src dst : Rec) (q : List Nat) : List (Nat × Bool) :=
  let a (i : Nat) : Nat := q[i]?.getD 0
  let side (r : Rec) (o n : Nat) : Nat × Bool := (r.base + o, r.holds alloc o n)
  match form with
  | 0 => [side src (src.start (a 0)) (a 2), side dst (dst.start (a 1)) (a 2)]
  | 1 => [(a 0, decide (a 0 + 4 * a 2 ≤ alloc)), side dst (dst.start (a 1)) (a 2 * src.stride)]
  | _ =>
    let g := if form = 2 then src else dst
    let sp := if form = 2 then dst else src
    let n := rowLen (a 3)
    let last := (a 0 + (planeCount (a 4) - 1) * planeRows (a 4) + rowCount (a 3) - 1) * g.stride + a 1
    [(g.base + a 0 * g.stride + a 1, g.holds alloc last n), side sp (a 2) (planeCount (a 4) * rowCount (a 3) * n)]

/-- The first of some sides that lies outside its limit: the bounds trap gives where it begins (R330). -/
def outsideAt (xs : List (Nat × Bool)) : Option Nat := (xs.find? (fun x => !x.2)).map (·.1)

/-- The records of a form are valid for it (R421 step 1). -/
def copyRecordsOk (form gsize : Nat) (src dst : Rec) : Bool :=
  match form with
  | 0 => src.engineOk gsize [0, 1, 2, 3] && dst.engineOk gsize [0, 1, 2, 3]
  | 1 => src.engineOk gsize [0, 1, 2, 3] && dst.engineOk gsize [0, 1, 2, 3]
      && src.stride != 0 && src.stride % 16 == 0 && decide (src.stride < 2 ^ 20)
  | 2 => src.engineOk gsize [0] && dst.engineOk gsize [1, 2] && src.stride != 0
  | _ => src.engineOk gsize [1, 2] && dst.engineOk gsize [0] && dst.stride != 0

/-- A formed command enters its block's queue; one of no bytes completes at once (R423). -/
def Ctx.enqueue (c : Ctx) (s : State) (form : Nat) (src dst : RecWords) (args : List Nat) (d : Done) (comp : Nat) : State :=
  let b := (s.block? c.id.core c.id.ent).getD c.blk
  let k : CopyCmd := ⟨form, c.id.tid, c.th.pc, src, dst, args.map (BitVec.ofNat 64), d, comp, b.cmdSeq, false, [], 0, false⟩
  if k.count = 0 then s.complete b d 0
  else (c.untyped s (crcWords 96 (k.words c.blk.alloc))).modBlock c.id.core c.id.ent (fun b =>
    { b with copies := b.copies ++ [k], cmdSeq := b.cmdSeq + 1 })

/-- A copy instruction: poison of records and group, records, access, then ranges and limits (R288, R420, R421). -/
def copyLane (form n : Nat) (p : Cpy) (s : State) (c : Ctx) : LaneOut :=
  let q := c.group p.g.toNat n
  -- the source record is FA and the destination FB, but for `.S2G`, whose global record G is FA
  let srcW := if form = 3 then c.blk.record4 p.dst else c.blk.record4 p.src
  let dstW := if form = 3 then c.blk.record4 p.src else c.blk.record4 p.dst
  let src := Rec.of srcW.1
  let dst := Rec.of dstW.1
  let v := q.map UVal.nat
  let comp := 16 * p.comp.toNat
  if c.th.dem then .done s
  else if srcW.2 || dstW.2 then c.poisoned s 0x02 0 0
  else if q.any (·.poison) then c.poisoned s 0x03 0 0
  else if !copyRecordsOk form c.blk.rec_.gsize src dst then .trap { kind := 0x14 } s
  else if !(src.allows 1 && dst.allows 2) then .trap { kind := 0x0B } s
  else if !copyRanges form v then .trap { kind := 0x09 } s
  else match outsideAt (copySides form c.blk.alloc src dst v ++ [(comp, compOk c.blk.alloc p.bar p.flg comp)]) with
    | some a => .trap { kind := 0x09, addr := a } s
    | none =>
      let flag := BitVec.ofNat 32 (v[n - 1]?.getD 0)
      .done (c.enqueue s form srcW.1 dstW.1 v (doneOf p.bar p.flg comp flag) comp)

def cpyLinLane (p : Cpy) (s : State) (c : Ctx) : LaneOut := copyLane 0 4 p s c
def execCpyLin (p : Cpy) (s : State) : Host.Outcome State Fault Refusal := instr (.cpyLin p) (cpyLinLane p) s
def cpyGathLane (p : Cpy) (s : State) (c : Ctx) : LaneOut := copyLane 1 4 p s c
def execCpyGath (p : Cpy) (s : State) : Host.Outcome State Fault Refusal := instr (.cpyGath p) (cpyGathLane p) s
def cpytG2sLane (p : Cpy) (s : State) (c : Ctx) : LaneOut := copyLane 2 6 p s c
def execCpytG2s (p : Cpy) (s : State) : Host.Outcome State Fault Refusal := instr (.cpytG2s p) (cpytG2sLane p) s
def cpytS2gLane (p : Cpy) (s : State) (c : Ctx) : LaneOut := copyLane 3 6 p s c
def execCpytS2g (p : Cpy) (s : State) : Host.Outcome State Fault Refusal := instr (.cpytS2g p) (cpytS2gLane p) s

/-- `MXLDB` (R455, R456): a copy into the slices of the quad's tile, which leaves the interval unprotected (R299). -/
def mxldbLane (p : Mxldb) (s : State) (c : Ctx) : LaneOut :=
  let q := c.group p.g.toNat 4
  let w := c.blk.record4 p.src
  let r := Rec.of w.1
  let v := q.map UVal.nat
  let a (i : Nat) : Nat := v[i]?.getD 0
  let comp := 16 * p.comp.toNat
  let n := kBytes (a 2)
  if c.th.dem then .done s
  else if w.2 then c.poisoned s 0x02 0 0
  else if q.any (·.poison) then c.poisoned s 0x03 0 0
  else if !r.engineOk c.blk.rec_.gsize [0, 1, 3] then .trap { kind := 0x14 } s
  else if !r.allows 1 then .trap { kind := 0x0B } s
  else if !(a 1 % 64 == 0 && n % 64 == 0 && decide (64 ≤ n) && decide (n ≤ 32768) && zeroField (a 2) 25 7
      && decide (a 1 + n ≤ 32768)) then .trap { kind := 0x09 } s
  else match outsideAt [(r.base + r.start (a 0), r.holds c.blk.alloc (r.start (a 0)) (loadColumns (a 2) * n)),
      (comp, compOk c.blk.alloc p.bar p.flg comp)] with
    | some x => .trap { kind := 0x09, addr := x } s
    | none =>
      .done (c.enqueue (c.unprotect s) 4 w.1 ⟨0, 0, 0, 0⟩ v (doneOf p.bar p.flg comp (BitVec.ofNat 32 (a 3))) comp)
def execMxldb (p : Mxldb) (s : State) : Host.Outcome State Fault Refusal := instr (.mxldb p) (mxldbLane p) s

end Sys2Proof.Machine
end

