-- ==== Sys2Proof/Machine/FabricEngine.lean ====
section
/-! DEFINITION. Fabric commands: PUT, PUTS, GET and FABRIC_COMMAND_COMPLETE (R45 to R51, R418, R425 to R428). -/

namespace Sys2Proof.Machine

/-! ## The block that owns a command, resident or saved (R64, R124, R418) -/

/-- A resident block is the owner's. -/
def Owner.owns (o : Owner) (b : Block) : Bool :=
  b.rec_.node == o.node && b.rec_.gen == o.gen && b.rec_.block == o.block && b.verify == o.role

def Owner.saved (o : Owner) (i : Image) : Bool :=
  i.rec_.node == o.node && i.rec_.gen == o.gen && i.rec_.block == o.block && i.verify == o.role

def State.ownerBlock (s : State) (o : Owner) : Option Block := s.blocks.find? o.owns

/-- A saved block as its commands still see it: on the core and entry that they left (R124). -/
def Image.asBlock (i : Image) (core ent : Nat) : Block where
  core := core
  ent := ent
  rec_ := i.rec_
  res := i.res
  order := i.order
  unif := i.unif
  threads := i.threads
  token := i.token
  started := true
  killed := false
  copies := i.copies
  cmdSeq := i.cmdSeq
  snap := i.snap
  verify := i.verify
  results := i.results
  origin := i.origin
  saving := false
  closing := false

/-- The block that owns a command, resident or saved. -/
def State.ownerView (s : State) (o : Owner) : Option Block :=
  match s.ownerBlock o with
  | some b => some b
  | none => (s.images.find? o.saved).map (fun i => i.asBlock o.tid.core o.tid.ent)

def State.modImage (s : State) (o : Owner) (f : Image → Image) : State :=
  { s with images := s.images.map (fun i => if o.saved i then f i else i) }

/-- A thread's command has failed: it traps at its next issue, or its gang is killed if it has exited (R418); the
thread may lie in a saved image. -/
def State.failOwner (s : State) (o : Owner) (t : PendTrap) : State :=
  match s.ownerBlock o with
  | some b => s.trapLater (b.idOf o.tid.tid) t
  | none => match s.images.find? o.saved with
    | some i =>
      match i.threads[o.tid.tid]? with
      | some th =>
        if th.exited then s.endNode o.node 2
        else s.modImage o (fun i => { i with threads := modifyAt (fun th => th.addTrap t) i.threads o.tid.tid })
      | none => s
    | none => s

/-- An addition by fabric or collective traffic to the owner's barrier object: logged as TYPE 8 (R299), and queued when
the block is saved (R64). -/
def State.addFor (s : State) (o : Owner) (off : Nat) (n : Word) : State :=
  match s.ownerBlock o with
  | some b => if b.killed then s else ((s.modBlock b.core b.ent (fun x => x.logAddition off n)).syncLog b.core b.ent).barAdd b off n
  | none => s.modImage o (fun i => { i with additions := i.additions ++ [⟨off, n⟩] })

/-- Bytes of the owner's scratchpad, in its image when the block is saved. -/
def State.ownBytes (s : State) (o : Owner) (off n : Nat) : List Byte × Bool :=
  match s.ownerBlock o with
  | some b => s.scrLoad b off n
  | none => match s.images.find? o.saved with
    | some i => ((i.scratch.drop off).take n, (granules off n).any i.scratchPoison.contains)
    | none => (zeroBytes n, false)

/-- The poisoned granules of a saved scratchpad after a write: bytes without poison clear those that they cover whole (R287). -/
def poisonAfter (ps : List Nat) (off n : Nat) (p : Bool) : List Nat :=
  if p then runAll addNat (granules off n) ps
  else ps.filter (fun g => !(decide (off ≤ 32 * g) && decide (32 * g + 32 ≤ off + n)))

/-- Bytes written to the owner's scratchpad, in its image when the block is saved. -/
def State.scrFor (s : State) (o : Owner) (off : Nat) (bs : List Byte) (p : Bool) : State :=
  match s.ownerBlock o with
  | some b => if b.killed then s else s.scrStore b off bs p []
  | none => s.modImage o (fun i =>
      { i with
        scratch := overwrite i.scratch off bs
        scratchPoison := poisonAfter i.scratchPoison off bs.length p })

/-! ## The command block (R426) -/

def FabCmd.len (k : FabCmd) : Nat := field (dword k.words 1) 0 31
def FabCmd.dmod (k : FabCmd) : BitVec 11 := BitVec.ofNat 11 (dword k.words 1 / 2 ^ 32)
def FabCmd.dten (k : FabCmd) : BitVec 4 := BitVec.ofNat 4 (dword k.words 1 / 2 ^ 48)
def FabCmd.daddr (k : FabCmd) : Nat := field (dword k.words 0) 0 54
def FabCmd.barOff (k : FabCmd) : Option Nat :=
  let w := dword k.words 5
  if bitOf w 19 then some (field w 0 19) else none
def FabCmd.statOff (k : FabCmd) : Option Nat :=
  let w := dword k.words 5
  if bitOf w 20 then some (field w 32 19) else none
def FabCmd.lOff (k : FabCmd) : Nat := field (dword k.words 6) 32 19

/-- A command block is well formed for a form and an allocation; `scr` says that FA and FB name the scratchpad. BAROFF and STATOFF are
checked whether or not their V bits are set. -/
def fabBlockOk (form alloc : Nat) (scr : Bool) (w : List DWord) : Bool :=
  let d := dword w
  let len := field (d 1) 0 32
  let sk := field (d 2) 0 2
  let boff := field (d 5) 0 19
  let soff := field (d 5) 32 19
  zeroField (d 0) 54 10 && zeroField (d 1) 52 12 && zeroField (d 1) 43 5 && decide (len < 2 ^ 31)
    && zeroField (d 2) 32 32 && zeroField (d 2) 2 14 && (if form = 1 then sk != 0 else sk == 0)
    && zeroField (d 3) 54 10 && d 3 % 8 == 0 && (sk != 3 || d 3 == 0)
    && zeroField (d 5) 51 13 && zeroField (d 5) 21 11
    && boff % 16 == 0 && decide (boff + 16 ≤ alloc) && soff % 4 == 0 && decide (soff + 4 ≤ alloc)
    && zeroField (d 6) 51 13 && zeroField (d 6) 1 31 && bitOf (d 6) 0 == scr
    && (!scr || decide (field (d 6) 32 19 + len ≤ alloc)) && d 7 == 0

/-! ## Sending (R427) -/

def State.modCmd (s : State) (id : Nat) (f : FabCmd → FabCmd) : State :=
  { s with fabric := { s.fabric with cmds := s.fabric.cmds.map (fun k => if k.id == id then f k else k) } }

def State.cmd? (s : State) (id : Nat) : Option FabCmd := s.fabric.cmds.find? (fun k => k.id == id)

/-- The block of a command as the local side of its transfer: the resident block. -/
def FabCmd.items (k : FabCmd) : List Item :=
  let n := k.len
  match k.local_ with
  | some (w, o) => pieces (some (Rec.of w)) o (fun u => .scr none u) 0 n n
  | none => pieces (some ⟨0, 0, 2 ^ 20, 0, 0, 0, 1, 0, 3, 0, 0, false⟩) k.lOff (fun u => .scr none u) 0 n n

/-- A copy command that stands for the local side of a fabric command. -/
def FabCmd.asCopy (k : FabCmd) : CopyCmd where
  form := 0
  tid := k.owner.tid.tid
  pc := k.pc
  src := match k.local_ with | some (w, _) => w | none => ⟨0, 0, 0, 0⟩
  dst := ⟨0, 0, 0, 0⟩
  args := []
  done := ⟨none, none⟩
  comp := 0
  seq := 0
  awaited := false
  remote := k.remote
  owed := 0
  moved := false

/-- A payload cut where 4 KiB of the destination end. -/
def chunks (a : Nat) : Nat → List Byte → List (Nat × List Byte)
  | 0, _ => []
  | fuel + 1, bs =>
    if bs.isEmpty then []
    else
      let n := 4096 - a % 4096
      (a, bs.take n) :: chunks (a + n) fuel (bs.drop n)

/-- A packet of a command. -/
def FabCmd.packet (k : FabCmd) (t : Nat) (kind : BitVec 8) (a : Nat) (bs : List Byte) : Packet :=
  { Packet.to kind 2 k.dmod (BitVec.ofNat 4 t) k.dten a with payload := bs, follows := k.follows }

/-- The signal fields of a `PUTS` (R49). -/
def FabCmd.signal (k : FabCmd) (p : Packet) : Packet :=
  let d := dword k.words
  { p with
    opnd := k.words[4]?.getD 0
    opnd2 := k.words[3]?.getD 0
    signode := BitVec.ofNat 16 (d 2 / 2 ^ 16)
    sigkind := BitVec.ofNat 4 (field (d 2) 0 2) }

/-- Packets sent in order as those of a command. -/
def State.sendAll (s : State) (core id : Nat) : List Packet → State
  | [] => s
  | p :: ps => (s.send (some core) (.command id) p).sendAll core id ps

/-- The packets of a `PUT` or `PUTS` with this payload: those sent at once, and the one that carries the signal. -/
def FabCmd.packets (k : FabCmd) (t : Nat) (bs : List Byte) : List Packet × Option Packet :=
  let ps := (chunks k.daddr (bs.length + 1) bs).map (fun x => k.packet t (if k.form = 0 then 0x01 else 0x02) x.1 x.2)
  if k.form = 0 then (ps, none)
  else match ps.getLast? with
    | some p => (ps.dropLast, some (k.signal p))
    | none => ([], some (k.signal (k.packet t 0x02 k.daddr [])))

/-- The read requests of a `GET`. R39 gives no field for the number of bytes that a read asks for: the model puts it in
OPND[12:0] (assumption 24). -/
def FabCmd.requests (k : FabCmd) (t : Nat) : List Packet :=
  (chunks k.daddr (k.len + 1) (zeroBytes k.len)).map (fun x =>
    { k.packet t 0x03 x.1 [] with opnd := BitVec.ofNat 64 x.2.length })

/-- Bytes that come before the first poisoned piece, and that piece's place (R288). -/
def cleanPrefix : List (Loc × List Byte × Bool) → List Byte × Option Loc
  | [] => ([], none)
  | (l, bs, p) :: xs => if p then ([], some l) else let r := cleanPrefix xs; (bs ++ r.1, r.2)

/-- Lines of other modules that the local side of a command needs. -/
def State.askLinesFor (s : State) (b : Block) (id : Nat) : List Nat → State × Bool
  | [] => (s, true)
  | l :: ls =>
    match s.translate b.core b.tenant (128 * l) .load with
    | (s1, .ok e) =>
      let q := lineRequest e l
      if !s1.reachable b.tenant q.dmod then (s1, false)
      else
        let s2 := s1.send (some b.core) (.command id) q
        (s2.modCmd id (fun c => { c with remote := c.remote ++ [⟨l, none, none⟩] })).askLinesFor b id ls
    | (s1, _) => (s1, true)

/-- The packets of a command with this payload leave; a failure of the local side stops the command after them. -/
def State.sendPayload (s : State) (k : FabCmd) (t : Nat) (bs : List Byte) (f : Option EngFail) : State :=
  let r := k.packets t bs
  let ps := match f, r.2 with
    | some _, some p => if bs.isEmpty then r.1 else r.1 ++ [{ p with sigkind := 0, signode := 0, opnd := 0, opnd2 := 0 }]
    | _, _ => r.1
  (s.sendAll k.core k.id ps).modCmd k.id (fun c =>
    { c with started := true, waiting := ps.length, final := if f.isSome then none else r.2, fail := f })

/-- The local side of a command that sends: its pieces with their bytes. A scratchpad is read as it lies, in the core or in an image. -/
def State.localSide (s : State) (k : FabCmd) (b : Block) : Tally × TallyEnd :=
  match k.local_ with
  | some _ => (⟨s, [], [], false, none⟩ : Tally).all b k.asCopy k.items
  | none =>
    let got := k.items.filterMap (fun i => match i with
      | .piece p => p.src.map (fun l => let r := s.ownBytes k.owner l.addr p.n; (p.dst, r.1, r.2))
      | _ => none)
    (⟨s, got.reverse, [], false, none⟩, .whole)

/-- The place of a byte of the local side. -/
def FabCmd.localAt (k : FabCmd) (u : Nat) : Loc :=
  match k.local_ with
  | some (w, o) => (Rec.of w).locate (o + u)
  | none => .scr none (k.lOff + u)

/-- A command leaves the fabric. -/
def State.dropCmd (s : State) (id : Nat) : State :=
  { s with fabric := { s.fabric with cmds := s.fabric.cmds.filter (fun k => k.id != id) } }

/-- A command starts: the local bytes of `PUT` and `PUTS` are read and sent, the requests of `GET` are sent. It waits
while a local page is not valid. A destination without a route fails it with status 0x02 (R46). Local pages meet R283: a mismatch
counts. A saved block's command goes on (R124); one whose block is no more ends with it. -/
def State.startCmd (s : State) (k : FabCmd) : State :=
  match s.ownerView k.owner with
  | none => s.dropCmd k.id
  | some b =>
    let stop (s : State) (f : EngFail) : State := s.modCmd k.id (fun c => { c with started := true, fail := some f })
    if !s.reachable b.tenant k.dmod then stop s ⟨0x11, k.daddr, 2⟩
    else if k.form = 2 then
      let ps := k.requests b.tenant
      (s.sendAll k.core k.id ps).modCmd k.id (fun c => { c with started := true, waiting := ps.length })
    else
      let r := s.localSide k b
      let t := r.1
      match r.2 with
      | .wait => t.s
      | e =>
        if k.remote.any (fun l => l.data.isNone) then s
        else if !t.asks.isEmpty then
          match t.s.askLinesFor b k.id t.asks with
          | (s1, true) => s1
          | (s1, false) => stop s1 ⟨0x11, 0, 2⟩
        else
          let c := cleanPrefix t.got.reverse
          let s1 := if t.mism then t.s.countMismatch b.tenant else t.s
          match e, c.2 with
          | .fail f, none => s1.sendPayload k b.tenant c.1 (some f)
          | _, some l => s1.sendPayload k b.tenant c.1 (some ⟨0x10, (k.localAt l.addr).addr, 8⟩)
          | _, none => s1.sendPayload k b.tenant c.1 none

/-! ## Completion (R427, R45) -/

/-- A releasing `PUTS` may leave: the core's markers to other modules have been acknowledged, and its earlier fabric writes
too; those to the destination are gathered there (R50). -/
def State.markersDone (s : State) (k : FabCmd) : Bool :=
  !s.fabric.markers.any (fun m => m.core == k.core && m.dmod != k.dmod)
    && s.fabric.cmds.all (fun c => c.core != k.core || c.form == 2 || decide (k.id ≤ c.id) || (c.started && c.final.isNone))
    && !s.fabric.unacked.any (fun u => u.core == k.core && !u.acked && (match u.origin with
      | .store _ => true
      | .command id => decide (id < k.id)
      | .copy _ _ => true
      | _ => false))

/-- The KIND 0x03 record of a poisoned payload, whose command's block is resident or saved (R288). -/
def State.consumedFor (s : State) (o : Owner) (pc va status : Nat) : State :=
  match s.ownerView o with
  | some b => s.tenantRecord b.tenant (b.threadRecord o.tid.tid
      { kind := 0x03, sev := 2, src := 10, pc := pc, vaddr := va, synd := status, origin := b.origin })
  | none => s

/-- A command has ended: its status goes to its status word, to the effect log and, on success, its length to its barrier
object; a failure without STATV traps (R418). -/
def State.endCmd (s : State) (k : FabCmd) : State :=
  let s1 := s.dropCmd k.id
  let status := match k.fail with | some f => f.status | none => 1
  let s2 := s1.settle (fun a => if a = .command k.id then some (BitVec.ofNat 64 status) else none)
    (if k.statOff.isNone then k.fail else none)
  match k.fail with
  | none =>
    let s3 := match k.barOff with | some off => s2.addFor k.owner off (BitVec.ofNat 32 k.len) | none => s2
    match k.statOff with | some off => s3.scrFor k.owner off (toBytes 4 1) false | none => s3
  | some f =>
    let s3 := if f.kind = 0x10 then s2.consumedFor k.owner k.pc.toNat f.addr f.status else s2
    match k.statOff with
    | some off => s3.scrFor k.owner off (toBytes 4 f.status) false
    | none => s3.failOwner k.owner ⟨f.kind, f.addr, f.status, 0, false, none⟩

/-- The bytes of an answer, one by one with their places: marks count granules from the one that holds the packet's ADDR. -/
def FabCmd.bytesOf (k : FabCmd) (x : Arrived) : List (Loc × List Byte × Bool) :=
  let a := k.daddr + x.off
  (List.range x.bytes.length).map (fun i => (k.localAt (x.off + i), [x.bytes[i]?.getD 0], x.marks.contains ((a + i) / 32 - a / 32)))

/-- The pages that the bytes of a `GET` go to, and whether the stamp of one names another contract (R283, R427). -/
def State.pagesFor (s : State) (b : Block) (mism : Bool) : List (Loc × List Byte × Bool) → State × TallyEnd × Bool
  | [] => (s, .whole, mism)
  | (.va a, _, _) :: xs => match s.engPage b .store true a with
    | (s1, .ok _, m) => s1.pagesFor b (mism || m) xs
    | (s1, .wait, _) => (s1, .wait, mism)
    | (s1, .fail f, _) => (s1, .fail f, mism)
  | _ :: xs => s.pagesFor b mism xs

/-- A granule of a `GET` in the owner's scratchpad. -/
def State.putOwn (s : State) (o : Owner) (g : Granule) : State :=
  g.parts.foldl (fun (s : State) x => s.scrFor o x.1.addr x.2 g.poison) s

/-- The answers of a `GET` are written to its local side, while the block is resident or saved. -/
def State.storeGet (s : State) (k : FabCmd) : State :=
  let all := k.arrived.flatMap k.bytesOf
  match k.local_, s.ownerView k.owner with
  | none, _ => (runAll (fun (s : State) g => s.putOwn k.owner g) (groupGranules all) s).modCmd k.id (fun c => { c with stored := true })
  | some _, none => s.dropCmd k.id
  | some _, some b =>
    match s.pagesFor b false all with
    | (s1, .fail f, _) => s1.modCmd k.id (fun c => { c with stored := true, fail := some f })
    | (s1, .wait, _) => s1
    | (s1, .whole, m) =>
      let s2 := if m && b.verify != .secondary then s1.countMismatch b.tenant else s1
      let x := s2.putAll b ⟨b.core, b.tenant, b.grid, .command k.id⟩ none (groupGranules all)
      x.1.modCmd k.id (fun c =>
        { c with stored := true, waiting := x.2.1, fail := if x.2.2 then some ⟨0x11, 0, 2⟩ else c.fail })

/-- FABRIC_COMMAND_COMPLETE: a command among the 256 of its core goes on: it starts, sends its signal, writes its
answers, or ends. -/
def State.advanceCmd (s : State) (k : FabCmd) : State :=
  let place := ((s.fabric.cmds.filter (fun c => c.core == k.core)).takeWhile (fun c => c.id != k.id)).length
  if Config.fabricMax ≤ place then s
  else if !k.started then
    (if k.fail.isSome then s.endCmd k else if k.awaitMarkers && !s.markersDone k then s else s.startCmd k)
  else if k.waiting != 0 then s
  else if k.fail.isSome then s.endCmd k
  else match k.final with
    | some p => ((s.sendAll k.core k.id [p]).modCmd k.id (fun c => { c with final := none, waiting := 1 }))
    | none => if k.form = 2 && !k.stored then s.storeGet k else s.endCmd k

def execFabricCommandComplete (id : Nat) (s : State) : Host.Outcome State Fault Refusal :=
  match s.cmd? id with
  | some k => .next (s.advanceCmd k)
  | none => .next s

/-! ## Issue (R425 to R428) -/

/-- A formed command is queued and starts if it can; its status word, if any, is 0 (R426). -/
def Ctx.postCmd (c : Ctx) (s : State) (form : Nat) (rel : Bool) (words : List DWord) (loc : Option (RecWords × Nat)) : State :=
  let id := s.fabric.nextId
  let dmod := BitVec.ofNat 11 (dword words 1 / 2 ^ 32)
  let follows := if rel then
      (s.fabric.markers.filter (fun m => m.core == c.id.core && m.dmod == dmod)).map (fun m => (m.sten, m.dten, m.seq))
    else []
  let k : FabCmd := ⟨id, form, c.id.core, c.owner, c.th.pc, words, loc, false, 0, none, none, rel, follows, [], [], false, false⟩
  let s1 : State := { s with fabric := { s.fabric with nextId := id + 1, cmds := s.fabric.cmds ++ [k] } }
  let s2 := match k.statOff with | some off => s1.scrFor k.owner off (toBytes 4 0) false | none => s1
  match s2.cmd? id with
  | some k => s2.advanceCmd k
  | none => s2

/-- A replayed or secondary `PUT` or `PUTS` with its logged status and the trap of its failure (R428, R306). -/
def Ctx.redoPut (c : Ctx) (s : State) (words : List DWord) (status : Nat) (fail : Option EngFail) : State :=
  let k : FabCmd := ⟨0, 0, c.id.core, c.owner, c.th.pc, words, none, true, 0, none, none, false, [], [], [], false, false⟩
  let s1 := match k.statOff with | some off => s.scrFor k.owner off (toBytes 4 status) false | none => s
  let s2 := if c.blk.verify == .secondary && status == 1 then
      (match k.barOff with | some off => s1.addFor k.owner off (BitVec.ofNat 32 k.len) | none => s1)
    else s1
  match fail with
  | some f => s2.trapLater c.id ⟨f.kind, f.addr, f.status, 0, false, none⟩
  | none => s2

/-- The release of a `PUTS`: the markers are sent, and the packets follow them (R50). -/
def Ctx.releasePuts (c : Ctx) (s : State) (k : State → LaneOut) : LaneOut :=
  c.compare s (fun s =>
    if !s.sideLogClear c.blk then .wait (.release false) s
    else if !s.fabricSent c.id.core then .wait .commands s
    else k ((s.writeBackAll c.id.core).sendMarkers c.id.core))

/-- `PUT` (0), `PUTS` (1) and `GET` (2). -/
def fabLane (form : Nat) (p : Fab) (s : State) (c : Ctx) : LaneOut :=
  let off := (c.src s 0 false p.c).low
  let idx := c.src s 0 false p.b
  let rcd := match p.a with | .s r => some (c.blk.record4 r) | _ => none
  let r := rcd.map (fun w => Rec.of w.1)
  if c.th.dem then .done s
  else if (match rcd with | some w => w.2 || idx.poison | none => false) then c.poisoned s 0x02 0 0
  else if (c.src s 0 false p.c).poison then c.poisoned s 0x03 0 0
  else if off % 64 != 0 then .trap { kind := 0x0A, addr := off } s
  else if c.blk.alloc < off + 64 then .trap { kind := 0x09, addr := off } s
  else
    let b := (s.block? c.id.core c.id.ent).getD c.blk
    let blk := s.scrLoad b off 64
    let words := toDwords 8 blk.1
    let len := field (dword words 1) 0 31
    let o := match r with | some x => x.start idx.low | none => 0
    let need := if form = 2 then 2 else 1
    if blk.2 then c.poisoned s 0x03 off 1
    else if !fabBlockOk form c.blk.alloc rcd.isNone words then .trap { kind := 0x14 } s
    else if (match r with | some x => !x.engineOk c.blk.rec_.gsize [0] | none => false) then .trap { kind := 0x14 } s
    else if (match r with | some x => !x.allows need | none => false) then .trap { kind := 0x0B } s
    else if (match r with | some x => !x.holds c.blk.alloc o len | none => false) then
      .trap { kind := 0x09, addr := (match r with | some x => x.base + o | none => 0) } s
    else
      let loc := rcd.map (fun w => (w.1, o))
      let go (s : State) (rel : Bool) : LaneOut :=
        if form = 2 then .done (c.postCmd (c.untyped s (crcWords 49 words)) 2 false words loc)
        else c.effect s 3 true (crcWords 48 words)
          (fun s => .await (.command s.fabric.nextId) (c.postCmd s form rel words loc))
          (fun s e => .done (if e.owed.isSome then s else c.redoPut s words e.result.toNat e.fail))
      if form = 1 && releases p.ord then c.releasePuts s (fun s => go s true) else go s false

def putCmdLane (p : Fab) (s : State) (c : Ctx) : LaneOut := fabLane 0 p s c
def execPut (p : Fab) (s : State) : Host.Outcome State Fault Refusal := instr (.put p) (putCmdLane p) s
def putsCmdLane (p : Fab) (s : State) (c : Ctx) : LaneOut := fabLane 1 p s c
def execPuts (p : Fab) (s : State) : Host.Outcome State Fault Refusal := instr (.puts p) (putsCmdLane p) s
def getCmdLane (p : Fab) (s : State) (c : Ctx) : LaneOut := fabLane 2 p s c
def execGet (p : Fab) (s : State) : Host.Outcome State Fault Refusal := instr (.get p) (getCmdLane p) s

end Sys2Proof.Machine
end

