-- ==== Sys2Proof/Machine/Graph.lean ====
section
/-! DEFINITION. LAUNCH and NSIG (R107 to R110, R113, R430, R431). -/

namespace Sys2Proof.Machine

/-! ## Reads of whole records by a thread (R429, R430) -/

/-- How the read of a record ends. -/
inductive RecordRead where
  | ok (bs : List Byte) (poison : Bool)
  | hold (va : Nat)
  | trap (t : TrapInfo)
  /-- lines of it are on their way from another module -/
  | lines
  deriving DecidableEq, Repr

/-- `n` units of 64 aligned bytes as an `LD` at device scope reads them, those of a TIER 2 page from their module (R195). -/
def Ctx.readUnits (c : Ctx) (s : State) (va : Nat) : Nat → State × RecordRead
  | 0 => (s, .ok [] false)
  | n + 1 =>
    match s.fate c.blk .load [0, 1, 2] false false va with
    | (s1, .trap t) => (s1, .trap t)
    | (s1, .go e) =>
      if e.tier = 2 then
        match c.remoteRead s1 e va 64 with
        | .failed st => (s1.modThread c.id (fun th => { th with remote := [] }), .trap { kind := 0x11, addr := va, info := st })
        | .owed s2 => (s2, .lines)
        | .here bs p => match c.readUnits s1 (va + 64) n with
          | (s2, .ok cs q) => (s2, .ok (bs ++ cs) (p || q))
          | x => x
      else
        let r := (s1.countAt c.blk.grid e va).loadMem (c.reader va) c.id.core e va 64 0 true
        match c.readUnits r.1 (va + 64) n with
        | (s2, .ok bs p) => (s2, .ok (r.2.1 ++ bs) (r.2.2 || p))
        | x => x
    | (s1, _) => (s1, .hold va)

/-- An address that a record cannot have: not a multiple of 64, or bits [63:54] set. -/
def badRecordAddr (a : Nat) : Bool := a % 64 != 0 || field a 54 10 != 0

/-! ## LAUNCH (R430) -/

/-- CODE and NODE of a launch as its result. -/
def codeNode (code node : Nat) : DWord := BitVec.ofNat 64 (code + node * 2 ^ 16)

/-- The launch record read, checked and made a node. -/
def Ctx.launchRecord (c : Ctx) (a n : Nat) (s : State) : Eff :=
  match c.readUnits s a 2 with
  | (s1, .hold va) => .out (.hold va false s1)
  | (s1, .trap t) => .out (.trap t s1)
  | (s1, .lines) => .out (.wait .lines s1)
  | (s1, .ok bs p) =>
    if p then .out (c.poisoned s1 0x03 a 2)
    else
      let w := toDwords 15 bs
      match s1.checkLaunch c.blk.tenant w with
      | (s2, .error code) => .done (codeNode code 0) s2
      | (s2, .ok l) =>
        let r := s2.createGrid c.blk.tenant n (dword w 8) l
        .done (codeNode 0x01 r.2) r.1

def launchLane (p : Launch) (s : State) (c : Ctx) : LaneOut :=
  let a := c.src s p.imm true p.a
  let n := c.src s p.imm false p.b
  let give (s : State) (r : DWord) : LaneOut := .done (s.writeDst c p.d false (word32 r.toNat false) none)
  if !c.holdsToken s then .trap { kind := 0x07 } s
  else if a.poison || n.poison then c.poisoned s 0x03 0 0
  else c.release s .dev (fun s =>
    c.effect s 5 true [crcUnit 64 a.nat n.nat]
      (fun s =>
        if badRecordAddr a.nat then .done (codeNode 0x15 0) s
        else if 65535 < n.nat then .done (codeNode 0x13 0) s
        else c.launchRecord a.nat n.nat s)
      (fun s e => give s e.result))
def execLaunch (p : Launch) (s : State) : Host.Outcome State Fault Refusal := instr (.launch p) (launchLane p) s

/-! ## NSIG (R431) -/

/-- Word `k` of a node entry (R107). -/
def Node.word (x : Node) (k : Nat) : Nat :=
  let st := match x.st with | .free => 0 | .armed => 1 | .ready => 2 | .running => 3 | .ending => 4
  match k with
  | 0 => st + b2n x.event * 2 ^ 8 + x.tenant * 2 ^ 12 + x.pred * 2 ^ 16 + x.vec * 2 ^ 32 + b2n x.paced * 2 ^ 38
      + b2n x.failin * 2 ^ 39 + x.outcome * 2 ^ 40 + x.gen.toNat * 2 ^ 48
  | 1 => x.cnode + b2n x.cnv * 2 ^ 16 + x.cseq.toNat * 2 ^ 32
  | 2 => if x.event then 0 else x.nextblk % 2 ^ 32 + x.live * 2 ^ 32
  | 3 => if x.event then 0 else x.energy + x.ecap * 2 ^ 32
  | _ => 0

/-- The arm form: an event node, or the code that refuses it. -/
def State.armNode (s : State) (t cnt lnk : Nat) : State × DWord :=
  let cnode := field lnk 0 16
  let cnv := bitOf lnk 16
  let vec := field lnk 24 6
  if !(zeroField lnk 17 7 && zeroField lnk 30 2) then (s, codeNode 0x11 0)
  else if cnt = 0 || decide (65535 < cnt) || (decide (1 ≤ vec) && decide (vec ≤ 7)) || (cnv && !s.ownsNode t cnode) then
    (s, codeNode 0x17 0)
  else match s.freeNode t with
    | none => (s, codeNode 0x18 0)
    | some n =>
      (s.createNode t n { Node.empty n with pred := cnt, vec := vec, event := true, st := .armed, cnode := cnode, cnv := cnv },
        codeNode 0x01 n)

/-- The decrement form: 0x01 accepted, 0x06 refused. A node number above 16 bits is not owned. -/
def State.decNode (s : State) (t n : Nat) : State × DWord :=
  if 65535 < n then (s, 6)
  else match s.decrement t n false nodeFuel with
    | (s1, true) => (s1, 1)
    | (s1, false) => (s1, 6)

/-- The cancel form: 0x01 acted, 0x06 not owned. -/
def State.canNode (s : State) (t n : Nat) : State × DWord :=
  if decide (65535 < n) || !s.ownsNode t n then (s, 6) else (s.cancelNode n, 1)

/-- The query form. -/
def State.queryNode (s : State) (t n k : Nat) : DWord :=
  if decide (65535 < n) || !s.ownsNode t n then 0 else BitVec.ofNat 64 ((s.node n).word k)

/-- The forms that change the node table: release, effect of TYPE 6, result; a thread whose gang is killed by its own
operation stops (R113). -/
def Ctx.nodeEffect (c : Ctx) (s : State) (d : Dst) (unit : Nat × Nat) (op : State → State × DWord) : LaneOut :=
  c.release s .dev (fun s =>
    c.effect s 6 true [unit]
      (fun s => let r := op s; .done r.2 r.1)
      (fun s e =>
        if (s.thread? c.id).all (fun th => th.exited) then .gone s
        else .done (s.writeDst c d false (word32 e.result.toNat false) none)))

def nsigArmLane (p : Launch) (s : State) (c : Ctx) : LaneOut :=
  let a := c.src s p.imm false p.a
  let b := c.src s p.imm false p.b
  if c.th.dem then .done (s.writeDst c p.d false ⟨1, false⟩ none)
  else if a.poison || b.poison then c.poisoned s 0x03 0 0
  else c.nodeEffect s p.d (crcUnit 65 a.nat b.nat) (fun s => s.armNode c.blk.tenant a.nat b.nat)
def execNsigArm (p : Launch) (s : State) : Host.Outcome State Fault Refusal := instr (.nsigArm p) (nsigArmLane p) s

def nsigDecLane (p : Coll) (s : State) (c : Ctx) : LaneOut :=
  let a := c.src s p.imm false p.a
  if c.th.dem then .done (s.writeDst c p.d false ⟨1, false⟩ none)
  else if a.poison then c.poisoned s 0x03 0 0
  else c.nodeEffect s p.d (crcUnit 66 a.nat 0) (fun s => s.decNode c.blk.tenant a.nat)
def execNsigDec (p : Coll) (s : State) : Host.Outcome State Fault Refusal := instr (.nsigDec p) (nsigDecLane p) s

def nsigCanLane (p : Coll) (s : State) (c : Ctx) : LaneOut :=
  let a := c.src s p.imm false p.a
  if !c.holdsToken s then .trap { kind := 0x07 } s
  else if a.poison then c.poisoned s 0x03 0 0
  else c.nodeEffect s p.d (crcUnit 67 a.nat 0) (fun s => s.canNode c.blk.tenant a.nat)
def execNsigCan (p : Coll) (s : State) : Host.Outcome State Fault Refusal := instr (.nsigCan p) (nsigCanLane p) s

def nsigQryLane (p : Launch) (s : State) (c : Ctx) : LaneOut :=
  let a := c.src s p.imm false p.a
  let b := c.src s p.imm false p.b
  let give (s : State) (r : DWord) : LaneOut := .done (s.writeDst c p.d true ⟨r, false⟩ none)
  if c.th.dem then give s 0
  else if a.poison || b.poison then c.poisoned s 0x03 0 0
  else c.effect s 1 true [crcUnit 68 a.nat b.nat] (fun s => .done (s.queryNode c.blk.tenant a.nat b.nat) s)
    (fun s e => give s e.result)
def execNsigQry (p : Launch) (s : State) : Host.Outcome State Fault Refusal := instr (.nsigQry p) (nsigQryLane p) s

end Sys2Proof.Machine
end

