-- ==== Sys2Proof/Machine/Collectives.lean ====
section
/-! DEFINITION. Collectives: communicators, chains of steps, reduction arithmetic and the pod barrier (R56 to R73, R429). -/

namespace Sys2Proof.Machine

/-! ## The communicator table (R56) -/

def State.comm? (s : State) (n : Nat) : Option Comm := s.coll.comms.find? (fun c => c.id == n)

def State.modComm (s : State) (n : Nat) (f : Comm → Comm) : State :=
  { s with coll := { s.coll with comms := s.coll.comms.map (fun c => if c.id == n then f c else c) } }

def State.chain? (s : State) (n : Nat) : Option Chain := s.coll.chains.find? (fun c => c.id == n)

def State.modChain (s : State) (n : Nat) (f : Chain → Chain) : State :=
  { s with coll := { s.coll with chains := s.coll.chains.map (fun c => if c.id == n then f c else c) } }

/-- A chain has ended: a saved gang that waited for it may be discarded (R114). -/
def State.dropChain (s : State) (n : Nat) : State :=
  let s1 : State := { s with coll := { s.coll with chains := s.coll.chains.filter (fun c => c.id != n) } }
  match s.coll.chains.find? (fun c => c.id == n) with
  | some c =>
    if s.images.any (fun i => i.rec_.node == c.owner.node && i.rec_.gen == c.owner.gen && i.rec_.block == c.owner.block) then
      (s1.discard c.owner.node).settleNode c.owner.node
    else s1
  | none => s1

/-- The module and tenant of a rank. -/
def Comm.place (c : Comm) (r : Nat) : Nat × Nat := c.ranks[r]?.getD (0, 0)

/-- The other ranks of a communicator. -/
def Comm.others (c : Comm) : List Nat := (List.range c.size).filter (· != c.rank)

/-- A millisecond in half nanoseconds, and the second for which a page may be awaited (R43). -/
def msec : Nat := 2000000
def second : Nat := 2000000000

/-! ## Step words (R61) -/

def Chain.w (h : Chain) (i : Nat) : Nat := dword h.words i
def Chain.kind (h : Chain) : Nat := field (h.w 0) 0 4
def Chain.opn (h : Chain) : Nat := field (h.w 0) 4 4
def Chain.dtype (h : Chain) : Nat := field (h.w 0) 8 4
def Chain.accCode (h : Chain) : Nat := field (h.w 0) 12 2
def Chain.peer (h : Chain) : Nat := field (h.w 0) 16 12
def Chain.comm (h : Chain) : Nat := field (h.w 0) 32 8
def Chain.tag (h : Chain) : BitVec 16 := BitVec.ofNat 16 (h.w 0 / 2 ^ 48)
def Chain.sendOff (h : Chain) : Nat := field (h.w 1) 0 40
def Chain.recvOff (h : Chain) : Nat := field (h.w 2) 0 40
def Chain.elems (h : Chain) : Nat := field (h.w 3) 0 32
def Chain.barOff (h : Chain) : Option Nat := if bitOf (h.w 4) 19 then some (field (h.w 4) 0 19) else none
def Chain.node (h : Chain) : Option Nat := if bitOf (h.w 5) 16 then some (field (h.w 5) 0 16) else none
def Chain.next (h : Chain) : Nat := field (h.w 6) 0 54

/-- A kind with one peer. -/
def Chain.paired (h : Chain) : Bool := decide (h.kind ≤ 3)

/-- The format of a DTYPE, none for integers and cells. -/
def stepFmt (dt : Nat) : Option Fmt :=
  if dt = 0 then some F32 else if dt = 1 then some BF16 else if dt = 2 then some F16 else if dt = 3 then some F64 else none

/-- Bytes of an element of a DTYPE. -/
def elemSize (dt : Nat) : Nat :=
  if dt = 1 || dt = 2 then 2 else if dt = 3 || dt = 6 || dt = 7 then 8 else if dt = 8 then 16 else 4

/-- The accumulator format of a step, and the bytes of an element in it. -/
def Chain.accFmt (h : Chain) : Option Fmt :=
  if h.accCode = 1 then some F32 else if h.accCode = 2 then some F64 else stepFmt h.dtype
def Chain.accSize (h : Chain) : Nat := if h.accCode = 1 then 4 else if h.accCode = 2 then 8 else elemSize h.dtype

/-- Elements of the send and the receive region (R66). -/
def Chain.sendElems (h : Chain) (size : Nat) : Nat :=
  if h.kind = 3 || h.kind = 7 then 0 else if h.kind = 4 then h.elems * size else h.elems
def Chain.recvElems (h : Chain) (size : Nat) : Nat :=
  if h.kind = 2 || h.kind = 7 then 0 else if h.kind = 6 then h.elems * size else h.elems

/-- The byte count that a completed step adds (R66). -/
def Chain.bytes (h : Chain) (size : Nat) : Nat :=
  if h.kind = 7 then h.elems else if h.kind = 6 then h.elems * size * elemSize h.dtype else h.elems * elemSize h.dtype

/-- Reserved fields and values of a step command (R61, R62). -/
def stepReservedOk (w : List DWord) : Bool :=
  let d := dword w
  decide (field (d 0) 0 4 ≤ 7) && decide (field (d 0) 4 4 ≤ 5) && decide (field (d 0) 8 4 ≤ 8) && field (d 0) 12 2 != 3
    && zeroField (d 0) 14 2 && zeroField (d 0) 28 4 && zeroField (d 0) 40 8 && zeroField (d 1) 40 24 && zeroField (d 2) 40 24
    && zeroField (d 3) 32 32 && zeroField (d 4) 20 44 && zeroField (d 5) 17 47 && zeroField (d 6) 54 10 && d 6 % 64 == 0
    && d 7 == 0 && (decide (field (d 0) 0 4 ≤ 3) || field (d 0) 16 12 == 0)

/-- The status with which a step ends at once; 0 for none (R60, R62, R66, R72). R62 gives no order among its cases but for a failed
communicator: a step that meets both a 0x08 and a 0x09 case ends with 0x08 here (assumption 83). -/
def State.stepCheck (s : State) (h : Chain) (alloc : Nat) : Nat :=
  match s.comm? h.comm with
  | none => 8
  | some c =>
    let z := elemSize h.dtype
    if c.tenant != h.tenant || c.st == .setup || (c.st == .failed && c.agreed == 0) then 8
    else if c.st == .failed then 7
    else if !stepReservedOk h.words then 8
    else if h.paired && (decide (c.size ≤ h.peer) || h.peer == c.rank || h.accCode != 0) then 8
    else if h.sendOff % z != 0 || h.recvOff % z != 0 then 8
    else if (h.sendElems c.size != 0 && decide (c.winSize < h.sendOff + h.sendElems c.size * z))
        || (h.recvElems c.size != 0 && decide (c.winSize < h.recvOff + h.recvElems c.size * z)) then 8
    else if (match h.barOff with | some o => o % 16 != 0 || decide (alloc < o + 16) | none => false) then 8
    else if h.kind = 7 && !c.btree then 8
    else if h.kind = 5 && c.mode == 0 && h.elems % c.size != 0 then 8
    else if decide (3 ≤ h.opn) && ((stepFmt h.dtype).isSome || h.dtype == 8) then 9
    else if h.dtype = 8 && (h.opn != 0 || h.accCode != 0) then 9
    else if (h.accCode = 1 && !(h.dtype == 1 || h.dtype == 2)) || (h.accCode = 2 && h.dtype != 0) then 9
    else 0

/-! ## Reduction arithmetic (R67, R68) -/

/-- The least or greatest of two floating values; a NaN gives the canonical NaN, and zeros order by sign. -/
def Fmt.pick (f : Fmt) (flush max : Bool) (x y : Nat) : Nat :=
  if (f.read false x).isNaN || (f.read false y).isNaN then f.nanBits else f.minmax flush max x y

/-- `Combine` of two cells, and whether it clamped. -/
def combineCell (x y : Nat) : Nat × Bool :=
  let v := signedOf 127 x + signedOf 127 y
  (lowBits 127 (clampInt v cellMin cellMax) + b2n (bitOf x 127 || bitOf y 127) * 2 ^ 127,
    decide (cellMax < v) || decide (v < cellMin))

/-- `Combine` of two integers of `w` bits. -/
def combineInt (w : Nat) (sg : Bool) (opn x y : Nat) : Nat :=
  let v (a : Nat) : Int := if sg then signedOf w a else a
  match opn with
  | 0 => (x + y) % 2 ^ w
  | 1 => if v x ≤ v y then x else y
  | 2 => if v y ≤ v x then x else y
  | 3 => x &&& y
  | 4 => x ||| y
  | _ => x ^^^ y

/-- `Combine` (R67) under the flush rule of the agreed contract: `x` from the lower rank. -/
def Chain.combine (h : Chain) (flush : Bool) (x y : BitVec 128 × Bool) : BitVec 128 × Bool :=
  let a := x.1.toNat
  let b := y.1.toNat
  let m := x.2 || y.2
  match h.accFmt with
  | some f =>
    (BitVec.ofNat 128 (if h.opn = 0 then (f.addR .rne false (f.read flush a) (f.read flush b)).1
      else f.pick flush (h.opn == 2) a b), m)
  | none =>
    if h.dtype = 8 then let r := combineCell a b; (BitVec.ofNat 128 r.1, m || r.2)
    else (BitVec.ofNat 128 (combineInt (8 * elemSize h.dtype) (h.dtype == 4 || h.dtype == 6) h.opn a b), m)

/-- `AddOrdered` of R67 over lists of elements. -/
def Chain.combineAll (h : Chain) (flush mineFirst : Bool) : List (BitVec 128 × Bool) → List (BitVec 128 × Bool) →
    List (BitVec 128 × Bool)
  | x :: xs, y :: ys => (if mineFirst then h.combine flush x y else h.combine flush y x) :: h.combineAll flush mineFirst xs ys
  | _, _ => []

/-- An input converted to the accumulator format, exactly (R68). -/
def Chain.widen (h : Chain) (x : Nat) : Nat :=
  match stepFmt h.dtype, h.accFmt with
  | some f, some g => if f == g then x else (g.round .rne false (f.read false x)).1
  | _, _ => x

/-- A result rounded to DTYPE (R68); EXCHC and RECV write the peer's element itself, as R66 has it (assumption 83). -/
def Chain.narrow (h : Chain) (flush : Bool) (x : Nat) : Nat :=
  match stepFmt h.dtype, h.accFmt with
  | some f, some g =>
    if h.paired || (f == g && !flush) then x else (f.round .rne flush (g.read false x)).1
  | _, _ => x

/-! ## Windows and records (R43, R57, R429) -/

/-- What the engine meets in a region. -/
inductive Region where
  | ok (bs : List Byte) (poison : Bool)
  | wait
  | fail (status : Nat)
  /-- lines of another module's page that are to be asked for, and lines on their way -/
  | ask (e : TlbEntry) (lines : List Nat)
  | owed
  deriving DecidableEq, Repr

/-- The page of an access of the engine. -/
def State.collPage (s : State) (t va : Nat) (a : Acc) : Except Region TlbEntry :=
  match s.walkFor t va a with
  | .ok e => .ok e
  | .notValid => .error .wait
  | .blocked => .error .wait
  | .perm => .error (.fail 3)
  | .format => .error (.fail 8)

/-- Parts of a region, cut where 4 KiB end: their addresses and lengths. -/
def spansOf (a : Nat) : Nat → Nat → List (Nat × Nat)
  | 0, _ => []
  | fuel + 1, n =>
    if n = 0 then []
    else
      let k := if n < 4096 - a % 4096 then n else 4096 - a % 4096
      (a, k) :: spansOf (a + k) fuel (n - k)

/-- Parts of a region, cut where lines end. -/
def lineSpans (a : Nat) : Nat → Nat → List (Nat × Nat)
  | 0, _ => []
  | fuel + 1, n =>
    if n = 0 then []
    else
      let k := if n < 128 - a % 128 then n else 128 - a % 128
      (a, k) :: lineSpans (a + k) fuel (n - k)

/-- Parts of lines of another module's page, from what has come of them. -/
def remoteSpans (e : TlbEntry) (ls : List RemoteLine) : List (Nat × Nat) → Region
  | [] => .ok [] false
  | (a, n) :: xs => match lineRead ls a n, remoteSpans e ls xs with
    | .failed st, _ => .fail st
    | _, .fail st => .fail st
    | .unasked, .ask _ ms => .ask e (a / 128 :: ms)
    | .unasked, _ => .ask e [a / 128]
    | _, .ask _ ms => .ask e ms
    | .owed, _ => .owed
    | _, .owed => .owed
    | .here bs p, .ok cs q => .ok (bs ++ cs) (p || q)
    | .here _ _, .wait => .wait

/-- The parts of a region read in order; those in another module's memory are asked for, line by line (R42, R195). -/
def State.readSpans (s : State) (t : Nat) (ls : List RemoteLine) : List (Nat × Nat) → State × Region
  | [] => (s, .ok [] false)
  | (a, n) :: xs =>
    let s := s.walked t a
    match s.collPage t a .load with
    | .error r => (s, r)
    | .ok e =>
      let r := if e.tier = 2 then (s, remoteSpans e ls (lineSpans a n n))
        else if e.tier = 3 then (s, .ok (s.host.read (e.pa a) n) (s.host.anyPoison (e.pa a) n))
        else
          let x := s.homeRead (.tenant_ t a) (e.pa a) n
          (x.1, .ok x.2.1 x.2.2)
      match r with
      | (s1, .ok bs p) => (match s1.readSpans t ls xs with
        | (s2, .ok cs q) => (s2, .ok (bs ++ cs) (p || q))
        | x => x)
      | x => x

def State.regionRead (s : State) (h : Chain) (a n : Nat) : State × Region := s.readSpans h.tenant h.remote (spansOf a (n + 1) n)

/-- A chain asks another module for lines; without a route they have failed (R46). -/
def State.askChain (s : State) (h : Chain) (e : TlbEntry) (lines : List Nat) : State :=
  runAll (fun (s : State) l =>
    let q := lineRequest e l
    let note (st : Option Nat) (s : State) : State := s.modChain h.id (fun x => { x with remote := x.remote ++ [⟨l, none, st⟩] })
    if s.reachable h.tenant q.dmod then note none (s.send none (.chainLine h.id) q) else note (some 2) s) lines s

/-- Bytes that a chain writes; those to another module are owed until they are acknowledged. -/
def State.chainStore (s : State) (h : Chain) (e : TlbEntry) (a : Nat) (bs : List Byte) : State :=
  let s1 := s.pageWrite (.chainWrite h.id) e a bs
  if e.tier = 2 then s1.modChain h.id (fun x => { x with owed := x.owed + 1 }) else s1

/-- Every page of some parts may be written, and its module reached. -/
def State.spansWritable (s : State) (t : Nat) : List (Nat × Nat) → Region
  | [] => .ok [] false
  | (a, _) :: xs => match s.collPage t a .store with
    | .error r => r
    | .ok e => if e.tier = 2 && !s.reachable t (tierPacket e 0x01 a).dmod then .fail 2 else s.spansWritable t xs

def State.writeSpans (s : State) (h : Chain) : List (Nat × List Byte) → State
  | [] => s
  | (a, bs) :: xs => match s.collPage h.tenant a .store with
    | .error _ => s.writeSpans h xs
    | .ok e => (s.chainStore h e a bs).writeSpans h xs

/-- A region written whole, or not at all. -/
def State.regionWrite (s : State) (h : Chain) (a : Nat) (bs : List Byte) : State × Region :=
  match s.spansWritable h.tenant (spansOf a (bs.length + 1) bs.length) with
  | .ok _ _ => (s.writeSpans h (chunks a (bs.length + 1) bs), .ok [] false)
  | r => (s, r)

/-- The elements of some bytes. -/
def elemsOf (z : Nat) : Nat → List Byte → List Nat
  | 0, _ => []
  | n + 1, bs => ofBytes (bs.take z) :: elemsOf z n (bs.drop z)

/-! ## Messages between members (assumption 24) -/

/-- A packet to a rank of a communicator about a tag. -/
def Comm.packet (c : Comm) (kind : BitVec 8) (cls : BitVec 2) (rank : Nat) (tag : BitVec 16) : Packet :=
  let p := c.place rank
  Packet.to kind cls (BitVec.ofNat 11 p.1) (BitVec.ofNat 4 c.tenant) (BitVec.ofNat 4 p.2) (c.id + tag.toNat * 256)

/-- One packet to each of some ranks. -/
def State.tell (s : State) (origin : Origin) (ps : List Packet) : State :=
  runAll (fun (s : State) p => s.send none origin p) ps s

/-- The ready packet of a step: its TAG and element count, and its KIND, OPN, DTYPE and ACC (R39, R65). -/
def Comm.readyPacket (c : Comm) (h : Chain) (r : Nat) : Packet :=
  { c.packet 0x20 1 r h.tag with
    opnd := BitVec.ofNat 64 (h.tag.toNat + h.elems * 2 ^ 16)
    opnd2 := BitVec.ofNat 64 (h.kind + h.opn * 2 ^ 4 + h.dtype * 2 ^ 8 + h.accCode * 2 ^ 12) }

/-- What a member tells of a step, as an acknowledgement with status 0x01 or a refusal with the failing status in OPND[7:0]:
OPND[15:8] is 1 for its end, 2 for the failure of the communicator, 3 where it takes its ready packet back; OPND[16] says that
the step has one peer (assumption 24). -/
def Comm.notePacket (c : Comm) (tag : BitVec 16) (paired : Bool) (sub status r : Nat) : Packet :=
  { c.packet (if status = 1 then 0x40 else 0x41) 1 r tag with
    opnd := BitVec.ofNat 64 (status + sub * 2 ^ 8 + b2n paired * 2 ^ 16) }

/-- The ranks that a step exchanges with. -/
def Chain.partners (h : Chain) (c : Comm) : List Nat := if h.paired then [h.peer] else c.others

/-- A message of a tag from a rank belongs to a step: steps with one peer hear only such steps (R65). -/
def Chain.hears (h : Chain) (comm : Nat) (tag : BitVec 16) (paired : Bool) (rank : Nat) : Bool :=
  h.comm == comm && h.tag == tag && h.paired == paired && (!h.paired || h.peer == rank)

/-- A step of this member ends with a status; its record does not hold it yet. What its partners told of it goes. -/
def State.stepEnds (s : State) (h : Chain) (status : Nat) : State :=
  let s1 := s.modChain h.id (fun x =>
    { x with phase := .ended, status := status, since := none, deadline := none, sent := false, remote := [] })
  { s1 with coll := { s1.coll with notes := s1.coll.notes.filter (fun n => !h.hears n.comm n.tag n.paired n.rank)
                                   data := s1.coll.data.filter (fun d => !h.hears d.comm d.tag d.paired d.rank) } }

/-- A matched step fails here: its partners are told (R65). -/
def State.stepFails (s : State) (h : Chain) (c : Comm) (status : Nat) : State :=
  (s.tell (.step h.id) ((h.partners c).map (c.notePacket h.tag h.paired 1 status))).stepEnds h status

/-- A step of a communicator that is posted and has not ended. -/
def Chain.inFlight (h : Chain) (c : Comm) : Bool :=
  h.comm == c.id && h.tenant == c.tenant && h.phase != .ended && h.phase != .reading && h.phase != .read

/-- A communicator fails at this member (R60): its steps in flight end with 0x07; `announce` tells the other members. -/
def State.failComm (s : State) (n : Nat) (announce : Bool) : State :=
  match s.comm? n with
  | none => s
  | some c =>
    if c.st != .up then s
    else
      let s1 := s.modComm n (fun c => { c with st := .failed, joined := false, passedUp := false, arrived := [] })
      let s2 := runAll (fun (s : State) h => if h.inFlight c then s.stepEnds h 7 else s) s1.coll.chains s1
      if announce then s2.tell .response (c.others.map (c.notePacket 0 false 2 7)) else s2

/-! ## The exchange schedules (R66, R69, R70) -/

/-- What goes to and comes from one rank in a round: first element and number of elements each way. -/
structure Swap where
  rank : Nat
  first : Nat
  n : Nat
  from_ : Nat
  m : Nat
  deriving DecidableEq, Repr

/-- The chunk length of a reduction. -/
def Chain.chunk (h : Chain) (c : Comm) : Nat := if h.kind = 4 then h.elems else h.elems / c.size

/-- Rounds of the reduce-scatter: log2 of the size. -/
def Comm.halvings (c : Comm) : Nat := Nat.log2 c.size

/-- The rounds of a step. -/
def Chain.rounds (h : Chain) (c : Comm) : Nat :=
  if h.kind = 7 then 0
  else if (h.kind = 4 || h.kind = 5) && c.mode == 0 then (if h.kind = 4 then c.halvings else 2 * c.halvings)
  else if (h.partners c).isEmpty then 0 else 1

/-- The exchange of a halving round: chunks `lo` to `lo + n - 1` are held, in elements. -/
def Chain.halve (h : Chain) (c : Comm) (j : Nat) : Swap :=
  let d := c.size / 2 ^ (j + 1)
  let half := h.count / 2
  if c.rank &&& d == 0 then ⟨c.rank ^^^ d, h.lo + half, half, h.lo, half⟩ else ⟨c.rank ^^^ d, h.lo, half, h.lo + half, half⟩

/-- The exchange of a doubling round, the mirror of a halving one. -/
def Chain.double (h : Chain) (c : Comm) (t : Nat) : Swap :=
  let d := 2 ^ t
  ⟨c.rank ^^^ d, h.lo, h.count, if c.rank &&& d == 0 then h.lo + h.count else h.lo - h.count, h.count⟩

/-- The exchanges of the current round. -/
def Chain.swaps (h : Chain) (c : Comm) : List Swap :=
  if h.paired then [⟨h.peer, 0, if h.kind = 3 then 0 else h.elems, 0, if h.kind = 2 then 0 else h.elems⟩]
  else if h.kind = 6 then c.others.map (fun r => ⟨r, 0, h.elems, 0, h.elems⟩)
  else if c.mode = 0 then
    (if h.round < c.halvings then [h.halve c h.round] else [h.double c (h.round - c.halvings)])
  else if h.kind = 4 then c.others.map (fun r => ⟨r, r * h.elems, h.elems, c.rank * h.elems, h.elems⟩)
  else c.others.map (fun r => ⟨r, 0, h.elems, 0, h.elems⟩)

/-- Elements of this member from a global index on. -/
def Chain.part (h : Chain) (first n : Nat) : List (BitVec 128 × Bool) := (h.acc.drop (first - h.lo)).take n

/-- The positions of marked elements. -/
def markedAt (i : Nat) : List (BitVec 128 × Bool) → List Nat
  | [] => []
  | x :: xs => if x.2 then i :: markedAt (i + 1) xs else markedAt (i + 1) xs

/-- The data packets of some elements: OPND2 holds the first element in [39:0], the round in [54:40], whether the step has one
peer in [55] and the bytes of an element in [63:56] (assumption 24). -/
def Chain.dataPackets (h : Chain) (c : Comm) (r : Nat) : Nat → Nat → List (BitVec 128 × Bool) → List Packet
  | 0, _, _ => []
  | fuel + 1, first, vs =>
    if vs.isEmpty then []
    else
      let k := 4096 / h.accSize
      let xs := vs.take k
      { c.packet 0x21 2 r h.tag with
        opnd := BitVec.ofNat 64 (h.tag.toNat + xs.length * 2 ^ 16)
        opnd2 := BitVec.ofNat 64 (first + h.round * 2 ^ 40 + b2n h.paired * 2 ^ 55 + h.accSize * 2 ^ 56)
        payload := xs.flatMap (fun x => toBytes h.accSize x.1.toNat)
        marks := markedAt 0 xs } :: h.dataPackets c r fuel (first + k) (vs.drop k)

/-- The data of an exchange has come: its elements. -/
def State.received (s : State) (h : Chain) (w : Swap) : Option (List (BitVec 128 × Bool)) :=
  let mine := s.coll.data.filter (fun d => d.comm == h.comm && d.tag == h.tag && d.paired == h.paired && d.rank == w.rank && d.round == h.round)
  let at_ (i : Nat) : Option (BitVec 128 × Bool) := mine.findSome? (fun d =>
    if d.first ≤ i then d.vals[i - d.first]? else none)
  let vs := (List.range w.m).map (fun i => at_ (w.from_ + i))
  if vs.all Option.isSome then some (vs.filterMap id) else none

/-- Every exchange of the round with what has come; none while something is missing. -/
def State.receivedAll (s : State) (h : Chain) : List Swap → Option (List (Swap × List (BitVec 128 × Bool)))
  | [] => some []
  | w :: ws => match s.received h w, s.receivedAll h ws with
    | some v, some vs => some ((w, v) :: vs)
    | _, _ => none

/-- A rank's contribution in a step in which each sends to all. -/
def Chain.contribution (h : Chain) (c : Comm) (got : List (Swap × List (BitVec 128 × Bool))) (r : Nat) :
    List (BitVec 128 × Bool) :=
  if r = c.rank then (if h.kind = 4 then h.part (c.rank * h.elems) h.elems else h.acc)
  else ((got.find? (fun x => x.1.rank == r)).map (·.2)).getD []

/-- What a member holds after a round. -/
def Chain.absorb (h : Chain) (c : Comm) (flush : Bool) (got : List (Swap × List (BitVec 128 × Bool))) : Chain :=
  let next (acc : List (BitVec 128 × Bool)) (lo : Nat) : Chain :=
    { h with acc := acc, lo := lo, count := acc.length, round := h.round + 1, sent := false }
  if h.paired then next ((got.head?.map (·.2)).getD []) 0
  else if h.kind = 6 then next ((List.range c.size).flatMap (h.contribution c got)) 0
  else if c.mode = 0 then
    match got with
    | (w, v) :: _ =>
      if h.round < c.halvings then next (h.combineAll flush (decide (c.rank < w.rank)) (h.part w.from_ w.m) v) w.from_
      else if w.from_ < h.lo then next (v ++ h.acc) w.from_ else next (h.acc ++ v) h.lo
    | [] => h
  else
    let cs := (List.range c.size).map (h.contribution c got)
    next ((cs.drop 1).foldl (fun acc x => h.combineAll flush true acc x) (cs.headD [])) 0

/-! ## The phases of a step (R63 to R66) -/

/-- A poisoned input of a step: a KIND 0x03 record with PC zero (R288, R291). -/
def State.stepPoison (s : State) (h : Chain) (va : Nat) : State :=
  s.tenantRecord h.tenant { kind := 0x03, sev := 2, src := 10, core := h.core, vaddr := va, synd := 8,
                            gen := h.owner.gen.toNat, node := h.owner.node, block := h.owner.block,
                            origin := ((s.ownerBlock h.owner).map (·.origin)).getD 0 }

/-- The allocation of the owner's block. -/
def State.ownerAlloc (s : State) (o : Owner) : Nat :=
  match s.ownerBlock o with
  | some b => b.alloc
  | none => match s.images.find? o.saved with
    | some i => i.rec_.scrLen * 4096
    | none => 0

/-- Another posted step of this member has the same communicator, tag and peer (R65). -/
def State.postedTwice (s : State) (h : Chain) : Bool :=
  s.coll.chains.any (fun x => x.id != h.id && x.comm == h.comm && x.tag == h.tag && x.peer == h.peer && x.kind != 7
    && (x.phase == .posted || x.phase == .matched || x.phase == .moving || x.phase == .writing || x.phase == .written))

/-- A step that has been read is checked and posted: its ready packets go out (R62, R65). -/
def State.postStep (s : State) (h : Chain) : State :=
  match s.stepCheck h (s.ownerAlloc h.owner), s.comm? h.comm with
  | 0, some c =>
    if h.kind != 7 && s.postedTwice h then s.stepEnds h 10
    else if h.kind != 7 && !(h.partners c).all (fun r => s.reachable h.tenant (BitVec.ofNat 11 (c.place r).1)) then s.failComm c.id true
    else
      let s1 := s.modChain h.id (fun x =>
        { x with phase := .posted, tmo := c.tmo, status := 0, round := 0, sent := false, acc := [], lo := 0, count := 0,
                 since := none, released := false, remote := [], owed := 0,
                 deadline := if c.tmo = 0 || h.kind == 7 then none else some (s.halfNs + c.tmo * msec) })
      if h.kind = 7 then s1 else s1.tell (.step h.id) ((h.partners c).map (c.readyPacket h))
  | 0, none => s.stepEnds h 8
  | n, _ => s.stepEnds h n

/-- The ready packet of a step of a communicator and tag, with one peer or not, from a rank. -/
def Ready.is (r : Ready) (comm : Nat) (tag : BitVec 16) (paired : Bool) (rank : Nat) : Bool :=
  r.comm == comm && r.tag == tag && decide (r.kind ≤ 3) == paired && r.rank == rank

/-- The comparison of two matching steps: 0x08 where their kinds do not pair, 0x05 where they differ, 0 where they agree
(R65). -/
def Ready.compare (r : Ready) (h : Chain) : Nat :=
  let k := h.kind
  if h.paired && ((k == 2) != (r.kind == 3) || (k == 3) != (r.kind == 2)) then 8
  else if h.elems != r.count || h.dtype != r.dtype || h.accCode != r.acc then 5
  else if h.paired then (if (k == 0 && r.kind == 0 && h.opn != r.opn) || (k == 0 && r.kind == 1) || (k == 1 && r.kind == 0) then 5 else 0)
  else if k != r.kind || h.opn != r.opn then 5 else 0

/-- The ready packets of a step's partners, when all have come; a step with one peer matches only another such (R65). -/
def State.readyAll (s : State) (h : Chain) (c : Comm) : Option (List Ready) :=
  let rs := (h.partners c).map (fun r => s.coll.ready.find? (fun x => x.is h.comm h.tag h.paired r))
  if rs.all Option.isSome then some (rs.filterMap id) else none

/-- A posted step whose partners have all posted is compared and goes on, or ends. -/
def State.matchStep (s : State) (h : Chain) (c : Comm) : State :=
  match s.readyAll h c with
  | none => s
  | some rs =>
    let s1 : State := { s with coll := { s.coll with ready := s.coll.ready.filter (fun x => !rs.contains x) } }
    let worst := (rs.map (fun r => r.compare h)).foldl Nat.max 0
    if worst != 0 then s1.stepEnds h worst
    else s1.modChain h.id (fun x => { x with phase := .matched, deadline := none })

/-- A page of a window is not valid: it is awaited for at most 1 s (R43). -/
def State.awaitPage (s : State) (h : Chain) (c : Comm) : State :=
  match h.since with
  | none => s.modChain h.id (fun x => { x with since := some s.halfNs })
  | some t => if t + second ≤ s.halfNs then s.stepFails h c 4 else s

/-- The inputs of a matched step are read and converted. -/
def State.loadStep (s : State) (h : Chain) (c : Comm) : State :=
  let z := elemSize h.dtype
  let n := h.sendElems c.size
  let go (s : State) (vs : List Nat) : State := s.modChain h.id (fun x =>
    { x with phase := .moving, since := none, remote := [], acc := vs.map (fun v => (BitVec.ofNat 128 (h.widen v), false)), lo := 0,
             count := vs.length })
  match s.regionRead h (c.winBase + h.sendOff) (n * z) with
  | (s1, .wait) => s1.awaitPage h c
  | (s1, .ask e ls) => s1.askChain h e ls
  | (s1, .owed) => s1
  | (s1, .fail st) => s1.stepFails h c st
  | (s1, .ok bs p) =>
    if p then (s1.stepPoison h (c.winBase + h.sendOff)).stepFails h c 8
    else go s1 (elemsOf z n bs)

/-- OVF of the tenant (R67, R272). -/
def State.setOvf (s : State) (t : Nat) (b : Bool) : State := if b then s.modTenant t (fun x => { x with fxovf := true }) else s

/-- The partners are told that this member has written its results. -/
def State.stepTells (s : State) (h : Chain) (c : Comm) : State :=
  (s.tell (.step h.id) ((h.partners c).map (c.notePacket h.tag h.paired 1 1))).modChain h.id
    (fun x => { x with phase := .written, since := none, remote := [] })

/-- The results stand at their home slices once every packet that carries some of them is acknowledged. -/
def State.stepWritten (s : State) (h : Chain) (c : Comm) : State :=
  match s.chain? h.id with
  | some x => if x.owed = 0 then s.stepTells h c else s
  | none => s

/-- The results are written: the receive region, then the partners are told. `EXCHR` combines with what the region
holds. -/
def State.writeStep (s : State) (h : Chain) (c : Comm) : State :=
  let z := elemSize h.dtype
  let n := h.recvElems c.size
  let flush := (contractOf c.agreed).vsub
  let va := c.winBase + h.recvOff
  let put (s : State) (vs : List (BitVec 128 × Bool)) : State :=
    let bs := vs.flatMap (fun v => toBytes z (h.narrow flush v.1.toNat))
    match s.regionWrite h va bs with
    | (s1, .ok _ _) => ((s1.setOvf h.tenant (vs.any (·.2))).modChain h.id (fun x => { x with phase := .writing })).stepWritten h c
    | (s1, .fail st) => s1.stepFails h c st
    | (s1, _) => s1.awaitPage h c
  if n = 0 then s.stepTells h c
  else if h.kind = 0 then
    match s.regionRead h va (n * z) with
    | (s1, .wait) => s1.awaitPage h c
    | (s1, .ask e ls) => s1.askChain h e ls
    | (s1, .owed) => s1
    | (s1, .fail st) => s1.stepFails h c st
    | (s1, .ok bs p) =>
      if p then (s1.stepPoison h va).stepFails h c 8
      else put s1 (h.combineAll flush (decide (c.rank < h.peer)) ((elemsOf z n bs).map (fun v => (BitVec.ofNat 128 v, false))) h.acc)
  else put s h.acc

/-- Elements without their clamp marks: a mark that then appears is a clamp of this member's own `Combine`. -/
def unmark (vs : List (BitVec 128 × Bool)) : List (BitVec 128 × Bool) := vs.map (fun v => (v.1, false))

/-- One move of a step whose data moves: a round is sent, a round is taken in, or the results are written. -/
def State.moveStep (s : State) (h : Chain) (c : Comm) : State :=
  if h.rounds c ≤ h.round then s.writeStep h c
  else
    let ws := h.swaps c
    if !h.sent then
      (s.tell (.step h.id) (ws.flatMap (fun w => h.dataPackets c w.rank (w.n + 1) w.first (h.part w.first w.n)))).modChain h.id
        (fun x => { x with sent := true })
    else match s.receivedAll h ws with
      | none => s
      | some got =>
        let h1 := h.absorb c (contractOf c.agreed).vsub got
        let clamps := ({ h with acc := unmark h.acc } : Chain).absorb c (contractOf c.agreed).vsub (got.map (fun x => (x.1, unmark x.2)))
        let s1 := (s.modChain h.id (fun _ => h1)).setOvf h.tenant (clamps.acc.any (·.2))
        { s1 with
          coll := { s1.coll with data := s1.coll.data.filter (fun d => !(h.hears d.comm d.tag d.paired d.rank && d.round == h.round)) } }

/-- A failing note from a partner. -/
def State.badNote (s : State) (h : Chain) (c : Comm) : Option Nat :=
  (s.coll.notes.find? (fun n => n.comm == h.comm && n.tag == h.tag && n.paired == h.paired && (h.partners c).contains n.rank && n.status != 1)).map (·.status)

/-- Every partner has written its results. R66 names such a wait for SEND alone, and the spec no packet for it: here every kind
ends with 0x01 only after each partner has told that it has written (assumption 83). -/
def State.allWritten (s : State) (h : Chain) (c : Comm) : Bool :=
  (h.partners c).all (fun r => s.coll.notes.any (fun n => n.comm == h.comm && n.tag == h.tag && n.paired == h.paired && n.rank == r && n.status == 1))

/-- A step that is no BARRIER goes on by one move. -/
def State.advanceStep (s : State) (h : Chain) : State :=
  match h.phase, s.comm? h.comm with
  | .read, _ => s.postStep h
  | .ended, _ => s
  | .reading, _ => s
  | _, none => s.stepEnds h 8
  | ph, some c =>
    match s.badNote h c with
    | some st => s.stepEnds h st
    | none => match ph with
      | .posted => s.matchStep h c
      | .matched => s.loadStep h c
      | .moving => s.moveStep h c
      | .writing => s.stepWritten h c
      | .written => if s.allWritten h c then s.stepEnds h 1 else s
      | _ => s

/-- The step of a kind of a chain goes on. -/
def State.stepEvent (s : State) (kind n : Nat) : State :=
  match s.chain? n with
  | some h => if h.kind = kind then s.advanceStep h else s
  | none => s

def execExchr (chain : Nat) (s : State) : Host.Outcome State Fault Refusal := .next (s.stepEvent 0 chain)
def execExchc (chain : Nat) (s : State) : Host.Outcome State Fault Refusal := .next (s.stepEvent 1 chain)
def execSend (chain : Nat) (s : State) : Host.Outcome State Fault Refusal := .next (s.stepEvent 2 chain)
def execRecv (chain : Nat) (s : State) : Host.Outcome State Fault Refusal := .next (s.stepEvent 3 chain)
def execRscat (chain : Nat) (s : State) : Host.Outcome State Fault Refusal := .next (s.stepEvent 4 chain)
def execAllred (chain : Nat) (s : State) : Host.Outcome State Fault Refusal := .next (s.stepEvent 5 chain)
def execAgath (chain : Nat) (s : State) : Host.Outcome State Fault Refusal := .next (s.stepEvent 6 chain)

/-! ## The pod barrier (R71 to R73) -/

/-- The ranks below and above a rank in the barrier tree. R71 gives its fan-in of at most 16 and no shape: here the ranks stand in
heap order, rank 0 at the root and up to 16 below each (assumption 83). -/
def Comm.below (c : Comm) : List Nat := ((List.range 16).map (· + 16 * c.rank + 1)).filter (fun r => decide (r < c.size))
def Comm.above (c : Comm) : Nat := (c.rank - 1) / 16

/-- The release of an episode at this member: it goes down the tree and the joined step completes (R72). -/
def State.barrierRelease (s : State) (c : Comm) : State :=
  let s1 := s.tell .response (c.below.map (fun r => c.packet 0x31 0 r 0))
  let s2 := s1.modComm c.id (fun c => { c with arrived := [], joined := false, passedUp := false, episode := c.episode + 1 })
  runAll (fun (s : State) h => if h.kind == 7 && h.comm == c.id && h.phase == .moving then s.stepEnds h 1 else s) s2.coll.chains s2

/-- When this member and all below it have arrived, the arrival goes up, or at the root the release goes down. -/
def State.barrierGo (s : State) (n : Nat) : State :=
  match s.comm? n with
  | none => s
  | some c =>
    if !c.joined || c.passedUp || !c.below.all c.arrived.contains then s
    else if c.rank = 0 then s.barrierRelease c
    else
      (s.tell .response [c.packet 0x30 0 c.above 0]).modComm n (fun c => { c with passedUp := true })

/-- A BARRIER step: the `.SYS` release of its core, then the arrival (R72). -/
def State.barrierStep (s : State) (h : Chain) : State :=
  match h.phase, s.comm? h.comm with
  | .read, _ => s.postStep h
  | .posted, some c =>
    if !h.released then
      let clear := match s.ownerBlock h.owner with | some b => s.sideLogClear b | none => true
      if clear && s.fabricSent h.core then
        ((s.writeBackAll h.core).sendMarkers h.core).modChain h.id (fun x => { x with released := true })
      else s
    else if s.fabricClear h.core && !c.joined then
      ((s.modChain h.id (fun x => { x with phase := .moving })).modComm c.id (fun c => { c with joined := true })).barrierGo c.id
    else s
  | _, _ => s

def execBarrier (chain : Nat) (s : State) : Host.Outcome State Fault Refusal :=
  match s.chain? chain with
  | some h => .next (if h.kind = 7 then s.barrierStep h else s)
  | none => .next s

/-! ## The end of a step (R62, R63, R429) -/

/-- A later step cannot be read: a KIND 0x24 record, and the chain ends. -/
def State.chainLost (s : State) (h : Chain) (va : Nat) : State :=
  (s.tenantRecord h.tenant { kind := 0x24, sev := 2, src := 10, core := h.core, vaddr := va, synd := 8,
                             gen := h.owner.gen.toNat, node := h.owner.node, block := h.owner.block }).dropChain h.id

/-- The step at an address is read: its page may be awaited, lost, or its words poisoned. -/
def State.readStep (s : State) (h : Chain) (va : Nat) : State :=
  let later (s : State) (d : Option Nat) : State := s.modChain h.id (fun x => { x with phase := .reading, addr := BitVec.ofNat 54 va, deadline := d })
  match s.collPage h.tenant va .load with
  | .error .wait =>
    if h.phase == .reading && h.deadline.isSome then s
    else later s (if h.tmo = 0 then none else some (s.halfNs + h.tmo * msec))
  | .error _ => s.chainLost h va
  | .ok e => match s.readSpans h.tenant h.remote [(va, 32)], s.readSpans h.tenant h.remote [(va + 32, 32)] with
    | (_, .ok lo p), (_, .ok hi q) =>
      let s1 := (s.readSpans h.tenant h.remote [(va, 64)]).1
      let s2 := s1.modChain h.id (fun x =>
        { x with page := e, addr := BitVec.ofNat 54 va, words := toDwords 8 (lo ++ hi), nodeOk := !q,
                 phase := if p || q then .ended else .read, status := if p || q then 8 else 0, deadline := none, since := none,
                 sent := false, remote := [], owed := 0 })
      if p || q then s2.stepPoison h va else s2
    | (_, .ask e ls), _ => later (s.askChain h e ls) none
    | (_, .owed), _ => s
    | _, _ => s.chainLost h va

/-- The byte count of a completed step: to the owner's barrier object, in both copies of a verified block. -/
def State.stepAdds (s : State) (h : Chain) (off n : Nat) : State :=
  let s1 := s.addFor h.owner off (BitVec.ofNat 32 n)
  if h.owner.role == .primary then s1.addFor { h.owner with role := .secondary } off (BitVec.ofNat 32 n) else s1

/-- COLL_STEP_COMPLETE: STATUS, the byte count, the node decrement, then the next step (R63). -/
def State.finishStep (s : State) (h : Chain) : State :=
  let remote := h.page.tier = 2 && s.reachable h.tenant (tierPacket h.page 0x01 (h.addr.toNat + 56)).dmod
  if (remote && !h.sent) || h.owed != 0 then
    (if remote && !h.sent then
      (s.chainStore h h.page (h.addr.toNat + 56) (toBytes 8 h.status)).modChain h.id (fun x => { x with sent := true })
    else s)
  else
  let s1 := if h.page.tier = 2 then s else s.chainStore h h.page (h.addr.toNat + 56) (toBytes 8 h.status)
  let s2 := match h.barOff, s.comm? h.comm with
    | some off, some c => if h.status = 1 then s1.stepAdds h off (h.bytes c.size) else s1
    | _, _ => s1
  let s3 := match h.node with
    | some n => if h.nodeOk then s2.signal h.tenant n (h.status != 1) else s2
    | none => s2
  if h.status = 1 && h.next != 0 then s3.readStep h h.next else s3.dropChain h.id

/-- A step of a reserved kind ends at once (R62). -/
def execCollStepComplete (chain : Nat) (s : State) : Host.Outcome State Fault Refusal :=
  match s.chain? chain with
  | none => .next s
  | some h => match h.phase with
    | .ended => .next (s.finishStep h)
    | .reading => .next (s.readStep h h.addr.toNat)
    | .read => .next (if 8 ≤ h.kind then s.stepEnds h 8 else s)
    | _ => .next s

/-- The wait for a later step's page has reached TMO (R429). -/
def execChainStepReadTimeout (chain : Nat) (s : State) : Host.Outcome State Fault Refusal :=
  match s.chain? chain with
  | none => .next s
  | some h => match h.phase, h.deadline with
    | .reading, some t => .next (if t ≤ s.halfNs then s.chainLost h h.addr.toNat else s)
    | _, _ => .next s

/-- A posted step has found no peer by TMO: it ends with 0x02 and takes its ready packets back (R65). -/
def execStepMatchTimeout (chain : Nat) (s : State) : Host.Outcome State Fault Refusal :=
  match s.chain? chain with
  | none => .next s
  | some h => match h.phase, h.deadline, s.comm? h.comm with
    | .posted, some t, some c =>
      .next (if t ≤ s.halfNs then (s.tell (.step h.id) ((h.partners c).map (c.notePacket h.tag h.paired 3 2))).stepEnds h 2 else s)
    | _, _, _ => .next s

/-! ## COLL (R429) -/

/-- What a thread meets when the engine reads a record for it. -/
inductive CollRead where
  | ok (bs : List Byte) (poison : Bool)
  | hold (va : Nat)
  | refused
  /-- lines of it are on their way from another module -/
  | lines

/-- Parts of a record read at their home slices for a thread, each inside a line; those of a TIER 2 page from their module. -/
def Ctx.collRead (c : Ctx) (s : State) : List (Nat × Nat) → State × CollRead
  | [] => (s, .ok [] false)
  | (a, n) :: xs =>
    match s.fate c.blk .load [0, 1, 2] false false a with
    | (s1, .trap _) => (s1, .refused)
    | (s1, .go e) =>
      if e.tier = 2 then
        match c.remoteRead s1 e a n with
        | .failed _ => (s1, .refused)
        | .owed s2 => (s2, .lines)
        | .here bs p => match c.collRead s1 xs with
          | (s2, .ok cs q) => (s2, .ok (bs ++ cs) (p || q))
          | x => x
      else
        let r := (s1.countAt c.blk.grid e a).loadMem (c.reader a) c.id.core e a n 0 true
        match c.collRead r.1 xs with
        | (s2, .ok bs p) => (s2, .ok (r.2.1 ++ bs) (r.2.2 || p))
        | x => x
    | (s1, _) => (s1, .hold a)

/-- Parts of at most 32 bytes inside a granule. -/
def granuleSpans (a : Nat) : Nat → Nat → List (Nat × Nat)
  | 0, _ => []
  | fuel + 1, n =>
    if n = 0 then []
    else
      let k := if n < 32 - a % 32 then n else 32 - a % 32
      (a, k) :: granuleSpans (a + k) fuel (n - k)

/-- The translated page of an address that a thread has just read. -/
def State.pageOf (s : State) (core t va : Nat) : TlbEntry :=
  match (s.translate core t va .load).2 with
  | .ok e => e
  | _ => ⟨t, 0, 0, 0, false, false, false, 0, 0, 0, .none⟩

/-- The form of `COLL` after its operand checks: the release, then the effect. -/
def Ctx.collEffect (c : Ctx) (s : State) (d : Dst) (a : UVal) (unit : Nat) (run : State → Eff) : LaneOut :=
  let give (s : State) (r : DWord) : LaneOut := .done (s.writeDst c d false (word32 r.toNat false) none)
  if !c.holdsToken s then .trap { kind := 0x07 } s
  else if a.poison then c.poisoned s 0x03 0 0
  else c.release s .dev (fun s => c.effect s 4 true [crcUnit unit a.nat 0] run (fun s e => give s e.result))

/-- The forms with an address: a bad one is refused at once, before the release. -/
def Ctx.collAddress (c : Ctx) (s : State) (d : Dst) (a : UVal) (unit : Nat) (run : State → Eff) : LaneOut :=
  if c.holdsToken s && !a.poison && badRecordAddr a.nat then .done (s.writeDst c d false (word32 8 false) none)
  else c.collEffect s d a unit run

/-- A chain starts at a step that has been read. -/
def Ctx.startChain (c : Ctx) (s : State) (a : Nat) (words : List DWord) : State :=
  let h : Chain :=
    { id := s.coll.nextChain, tenant := c.blk.tenant, owner := c.owner, core := c.id.core,
      page := s.pageOf c.id.core c.blk.tenant a, addr := BitVec.ofNat 54 a, words := words, nodeOk := true, phase := .read,
      deadline := none, round := 0, sent := false, acc := [], lo := 0, count := 0, since := none, released := false, remote := [],
      owed := 0, tmo := 0,
      status := 0 }
  { s with coll := { s.coll with chains := s.coll.chains ++ [h], nextChain := s.coll.nextChain + 1 } }

def Ctx.collStart (c : Ctx) (a : Nat) (s : State) : Eff :=
  if Config.chainMax ≤ s.coll.chains.length then .out (.wait .chains s)
  else match c.collRead s [(a, 64)] with
    | (s1, .hold va) => .out (.hold va false s1)
    | (s1, .refused) => .done 8 s1
    | (s1, .lines) => .out (.wait .lines s1)
    | (s1, .ok bs p) =>
      if p then .out (c.poisoned s1 0x03 a 10) else .done 0 (c.startChain s1 a (toDwords 8 bs))

def collStepLane (p : Coll) (s : State) (c : Ctx) : LaneOut :=
  let a := c.src s p.imm true p.a
  c.collAddress s p.d a 69 (c.collStart a.nat)
def execCollStep (p : Coll) (s : State) : Host.Outcome State Fault Refusal := instr (.collStep p) (collStepLane p) s

/-- The fields of a communicator record that R57 and R58 bound, for an allocation. -/
def commRecordOk (alloc : Nat) (w : List DWord) : Bool :=
  let d := dword w
  let size := field (d 0) 16 12
  decide (field (d 0) 8 2 ≤ 1) && zeroField (d 0) 10 6 && decide (1 ≤ size) && decide (size ≤ 2048) && zeroField (d 0) 28 4
    && decide (field (d 0) 32 12 < size) && zeroField (d 0) 44 20 && field (d 1) 0 16 != 0 && zeroField (d 1) 33 31
    && zeroField (d 2) 54 10 && zeroField (d 3) 40 24 && zeroField (d 4) 54 10 && d 5 == 0 && zeroField (d 6) 20 44 && d 7 == 0
    && (!bitOf (d 6) 19 || (field (d 6) 0 19 % 16 == 0 && decide (field (d 6) 0 19 + 16 ≤ alloc)))
    && (field (d 0) 8 2 != 0 || 2 ^ Nat.log2 size == size)

/-- The entries of a RANKMAP. -/
def rankMap (n : Nat) (bs : List Byte) : List (Nat × Nat) :=
  (elemsOf 4 n bs).map (fun e => (field e 0 11, field e 16 4))
def rankMapOk (n : Nat) (bs : List Byte) : Bool := (elemsOf 4 n bs).all (fun e => zeroField e 11 5 && zeroField e 20 12)

/-- A communicator that a record posts. -/
def Ctx.newComm (c : Ctx) (s : State) (a : Nat) (w : List DWord) (ranks : List (Nat × Nat)) : Comm :=
  let d := dword w
  { id := field (d 0) 0 8, tenant := c.blk.tenant, page := s.pageOf c.id.core c.blk.tenant a, recAddr := BitVec.ofNat 54 a,
    mode := field (d 0) 8 2, size := field (d 0) 16 12, rank := field (d 0) 32 12, ceil := field (d 1) 0 16,
    tmo := field (d 1) 16 16, btree := bitOf (d 1) 32, winBase := field (d 2) 0 54, winSize := field (d 3) 0 40, ranks := ranks,
    bar := if bitOf (d 6) 19 then some (field (d 6) 0 19) else none, owner := c.owner, st := .setup, agreed := 0,
    deadline := if field (d 1) 16 16 = 0 then none else some (s.halfNs + field (d 1) 16 16 * msec),
    arrived := [], joined := false, passedUp := false, episode := 0 }

/-- AGREED and STATUS of a record (R58). -/
def Comm.writeStatus (c : Comm) (s : State) (agreed status : Nat) : State :=
  s.pageWrite .response c.page (c.recAddr.toNat + 40) (toBytes 8 (agreed + status * 2 ^ 16))

/-- A set-up that ends at once: STATUS 0x08 in its record, and 0x08 in vd. -/
def Ctx.setupInvalid (c : Ctx) (s : State) (a : Nat) : Eff :=
  .done 8 (s.pageWrite .response (s.pageOf c.id.core c.blk.tenant a) (a + 40) (toBytes 8 (8 * 2 ^ 16)))

/-- The set-up form: the record and its RANKMAP are read, checked and posted. -/
def Ctx.collPost (c : Ctx) (a : Nat) (s : State) : Eff :=
  match c.collRead s [(a, 32), (a + 32, 32)] with
  | (s1, .hold va) => .out (.hold va false s1)
  | (s1, .refused) => .done 8 s1
  | (s1, .lines) => .out (.wait .lines s1)
  | (s1, .ok bs p) =>
    let w := toDwords 8 bs
    let size := field (dword w 0) 16 12
    let rank := field (dword w 0) 32 12
    if p then .out (c.poisoned s1 0x03 a 10)
    else if !commRecordOk c.blk.alloc w then c.setupInvalid s1 a
    else match c.collRead s1 (granuleSpans (field (dword w 4) 0 54) (4 * size + 1) (4 * size)) with
      | (s2, .hold va) => .out (.hold va false s2)
      | (s2, .refused) => .done 8 s2
      | (s2, .lines) => .out (.wait .lines s2)
      | (s2, .ok rs q) =>
        let ranks := rankMap size rs
        if q then .out (c.poisoned s2 0x03 (field (dword w 4) 0 54) 10)
        else if !rankMapOk size rs || ranks[rank]? != some (s2.boot.self.toNat, c.blk.tenant) then c.setupInvalid s2 a
        else if (s2.comm? (field (dword w 0) 0 8)).isSome then c.setupInvalid s2 a
        else .done 0 { s2 with coll := { s2.coll with comms := s2.coll.comms ++ [c.newComm s2 a w ranks] } }

def collSetupLane (p : Coll) (s : State) (c : Ctx) : LaneOut :=
  let a := c.src s p.imm true p.a
  c.collAddress s p.d a 70 (c.collPost a.nat)
def execCollSetup (p : Coll) (s : State) : Host.Outcome State Fault Refusal := instr (.collSetup p) (collSetupLane p) s

/-- The release form: the communicator leaves the table; with steps in flight, those end with 0x07 and the other members see it
fail. -/
def State.freeComm (s : State) (t n : Nat) : State × DWord :=
  match s.comm? n with
  | none => (s, 8)
  | some c =>
    if c.tenant != t || c.st == .setup then (s, 8)
    else
      let s1 := s.failComm n (s.coll.chains.any (fun h => h.inFlight c))
      ({ s1 with coll := { s1.coll with comms := s1.coll.comms.filter (fun x => x.id != n)
                                        ready := s1.coll.ready.filter (fun x => x.comm != n)
                                        notes := s1.coll.notes.filter (fun x => x.comm != n)
                                        data := s1.coll.data.filter (fun x => x.comm != n) } }, 1)

def collFreeLane (p : Coll) (s : State) (c : Ctx) : LaneOut :=
  let a := c.src s p.imm false p.a
  c.collEffect s p.d a 71 (fun s => let r := s.freeComm c.blk.tenant a.nat; .done r.2 r.1)
def execCollFree (p : Coll) (s : State) : Host.Outcome State Fault Refusal := instr (.collFree p) (collFreeLane p) s

/-! ## The end of a set-up (R58, R59) -/

/-- What this member has posted, as the others see it. -/
def Comm.report (c : Comm) : SetupReport := ⟨c.rank, c.size, c.mode, c.ceil, c.ranks, []⟩

/-- The module and tenant of a poster: its RANKMAP names it (R58). -/
def reportPlace (r : SetupReport) : Nat × Nat := r.ranks[r.rank]?.getD (0, 0)

/-- The reports of the members that a poster's RANKMAP names, when all of them have posted. -/
def namedBy (all : List SetupReport) (r : SetupReport) : Option (List SetupReport) :=
  let rs := r.ranks.map (fun m => all.find? (fun x => reportPlace x == m))
  if rs.all Option.isSome then some (rs.filterMap id) else none

/-- Two records differ in SIZE, MODE, CEIL or a RANKMAP entry (R58). -/
def reportsDiffer (x y : SetupReport) : Bool := x.size != y.size || x.mode != y.mode || x.ceil != y.ceil || x.ranks != y.ranks

/-- Some poster's named members have all posted, and two of their records differ. -/
def setupDiffers (all : List SetupReport) : Bool :=
  all.any (fun r => match namedBy all r with
    | some rs => rs.any (fun x => rs.any (reportsDiffer x))
    | none => false)

/-- The highest contract no greater than CEIL that every member carries. -/
def agreedContract (ceil : Nat) (others : List SetupReport) : Option Nat :=
  bestBy (fun x y => decide (y < x)) ((catalogue.filter (fun c => c.speed != 15 && decide (c.number ≤ ceil)
    && others.all (fun r => r.contracts.contains c.number))).map (·.number))

/-- Set-up ends with a status; on completion the barrier object takes 16 bytes. -/
def State.endSetup (s : State) (c : Comm) (agreed status : Nat) : State :=
  let s1 := (c.writeStatus s agreed status).modComm c.id (fun c =>
    { c with st := if status = 1 then .up else .failed, agreed := agreed, deadline := none })
  match c.bar with
  | some off => if status = 1 then
      let s2 := s1.addFor c.owner off 16
      if c.owner.role == .primary then s2.addFor { c.owner with role := .secondary } off 16 else s2
    else s1
  | none => s1

/-- COMM_SETUP_COMPLETE, with what the other members have posted so far. -/
def execCommSetupComplete (comm : BitVec 8) (others : List SetupReport) (s : State) : Host.Outcome State Fault Refusal :=
  match s.comm? comm.toNat with
  | none => .next s
  | some c =>
    let all := c.report :: others
    if c.st != .setup then .next s
    else if setupDiffers all then .next (s.endSetup c 0 5)
    else match namedBy all c.report with
      | none => .next s
      | some rs => match agreedContract c.ceil (rs.filter (fun r => r.rank != c.rank)) with
        | some n => .next (s.endSetup c n 1)
        | none => .next (s.endSetup c 0 9)

/-- A member has not posted when TMO expires, at this member or at another that did post (R58). -/
def execCommSetupTimeout (e : SetupExpiry) (s : State) : Host.Outcome State Fault Refusal :=
  match s.comm? e.comm.toNat with
  | none => .next s
  | some c => match c.st with
    | .setup => .next (if e.elsewhere || (match c.deadline with | some t => decide (t ≤ s.halfNs) | none => false)
        then s.endSetup c 0 2 else s)
    | _ => .next s

end Sys2Proof.Machine
end

