-- ==== Sys2Proof/Machine/Matrix.lean ====
section
/-! DEFINITION. The matrix engine: MXOP, MXACC, MXSTAT, MATRIX_GRANT, MATRIX_PASS and MATRIX_COMPLETE (R434 to R465). -/

namespace Sys2Proof.Machine

/-! ## The parameter block (R441, R442) -/

/-- The parameters of an `MXOP`. -/
structure MxParams where
  n : Nat
  m : Nat
  wglb : Bool
  wfmt : Nat
  oob1 : Bool
  bank : Nat
  amaxv : Bool
  acc : Bool
  sb : Bool
  sa : Bool
  bfmt : Nat
  afmt : Nat
  soff : Nat
  boff : Nat
  k : Nat
  astride : Nat
  aoff : Nat
  wstride : Nat
  woff : Nat
  /-- input objects in use and their target phases -/
  inputs : List (Nat × Bool)
  /-- completion object and its count -/
  done : Option (Nat × Word)
  amoff : Nat
  deriving DecidableEq, Repr

def MxParams.of (w : List DWord) : MxParams :=
  let d := dword w
  { n := field (d 0) 48 9, m := field (d 0) 32 10, wglb := bitOf (d 0) 23, wfmt := field (d 0) 20 3, oob1 := field (d 0) 18 2 == 1,
    bank := field (d 0) 16 2, amaxv := bitOf (d 0) 15, acc := bitOf (d 0) 14, sb := bitOf (d 0) 13, sa := bitOf (d 0) 12,
    bfmt := field (d 0) 8 4, afmt := field (d 0) 4 4, soff := field (d 1) 48 15, boff := field (d 1) 32 15, k := field (d 1) 0 18,
    astride := field (d 2) 32 19, aoff := field (d 2) 0 19, wstride := field (d 3) 40 24, woff := field (d 3) 0 40,
    inputs := (if bitOf (d 4) 19 then [(field (d 4) 0 19, bitOf (d 4) 20)] else [])
      ++ (if bitOf (d 4) 51 then [(field (d 4) 32 19, bitOf (d 4) 52)] else []),
    done := if bitOf (d 5) 19 then some (field (d 5) 0 19, BitVec.ofNat 32 (d 5 / 2 ^ 32)) else none,
    amoff := field (d 6) 0 19 }

/-- A format pair of R442: floating point or not, the K-step, and the bits of an element of B. -/
structure MxPair where
  float : Bool
  ks : Nat
  e : Nat
  deriving DecidableEq, Repr

def MxParams.pair (p : MxParams) : Option MxPair :=
  match p.afmt, p.bfmt with
  | 0, 0 => some ⟨true, 128, 16⟩
  | 1, 1 => some ⟨true, 128, 16⟩
  | 0, 3 => some ⟨true, 128, 4⟩
  | 0, 4 => some ⟨true, 128, 4⟩
  | 2, 2 => some ⟨false, 256, 8⟩
  | 2, 5 => some ⟨false, 512, 2⟩
  | _, _ => none

/-- Scale codes go with INT4 and F4. -/
def MxParams.scaled (p : MxParams) : Bool := p.bfmt == 3 || p.bfmt == 4
/-- Bytes of an element of A, and of a written element (R445). -/
def MxParams.aSize (p : MxParams) : Nat := if p.afmt = 2 then 1 else 2
def MxParams.cSize (p : MxParams) : Nat :=
  match p.wfmt with
  | 0 => 0
  | 2 => 2
  | 3 => 2
  | 5 => 8
  | _ => 4

/-- The format of the products (R442). -/
def MxParams.fmt (p : MxParams) : Fmt := if p.afmt = 1 then F16 else BF16

/-- Passes of an operation (R451). -/
def MxParams.passes (p : MxParams) : Nat := match p.pair with | some x => p.k / x.ks | none => 0

/-- The reserved fields and values of the block. -/
def mxReservedOk (w : List DWord) : Bool :=
  let d := dword w
  zeroField (d 0) 57 7 && zeroField (d 0) 42 6 && zeroField (d 0) 24 8 && field (d 0) 0 4 == 1 && decide (field (d 0) 18 2 ≤ 1)
    && decide (field (d 0) 20 3 ≤ 5) && zeroField (d 1) 63 1 && zeroField (d 1) 47 1 && zeroField (d 1) 18 14
    && zeroField (d 2) 51 13 && zeroField (d 2) 19 13 && zeroField (d 4) 53 11 && zeroField (d 4) 21 11 && zeroField (d 5) 20 12
    && zeroField (d 6) 19 45 && d 7 == 0

/-- SA, SB and WFMT allowed with a pair under a contract (R442). -/
def MxParams.allowed (p : MxParams) (x : MxPair) (rpt : Nat) : Bool :=
  if x.float then !p.sa && (!p.sb || p.bfmt == 3) && (decide (p.wfmt ≤ 3) || (p.wfmt == 5 && rpt == 2))
  else (p.bfmt == 2 || !p.sb) && (p.wfmt == 0 || p.wfmt == 4)

/-- Step 5 of R444: a well-formed block for a contract, with WGLB as FB says. -/
def mxFormOk (w : List DWord) (rpt : Nat) (glb : Bool) : Bool :=
  let p := MxParams.of w
  mxReservedOk w && match p.pair with
    | none => false
    | some x =>
      p.allowed x rpt && (p.n == 128 || p.n == 256) && decide (1 ≤ p.m) && decide (p.m ≤ 512) && p.k != 0 && p.k % x.ks == 0
        && p.astride % 16 == 0 && decide (p.k * p.aSize ≤ p.astride) && p.aoff % 16 == 0 && p.boff % 64 == 0 && p.soff % 64 == 0
        && (p.soff == 0 || p.scaled)
        && (p.wfmt == 0 || (decide (p.n * p.cSize ≤ p.wstride) && p.wstride % p.cSize == 0))
        && p.inputs.all (fun o => o.1 % 16 == 0) && (match p.done with | some o => o.1 % 16 == 0 | none => true)
        && (!p.amaxv || p.amoff % 4 == 0) && (p.wfmt == 0 || p.wglb || decide (p.woff < 2 ^ 19)) && p.wglb == glb

/-- Step 6: a wide bank is logical bank 0 or 1. -/
def MxParams.bankOk (p : MxParams) (rpt : Nat) : Bool :=
  !(rpt == 2 && (p.pair.map (·.float)).getD false && decide (2 ≤ p.bank))

/-- Step 7: the objects in use and the AMAX word, and whether they lie within the allocation. -/
def MxParams.objects (p : MxParams) (alloc : Nat) : List (Nat × Bool) :=
  p.inputs.map (fun o => (o.1, decide (o.1 + 16 ≤ alloc))) ++ p.done.toList.map (fun o => (o.1, decide (o.1 + 16 ≤ alloc)))
    ++ [(p.amoff, !p.amaxv || decide (p.amoff + 4 ≤ alloc))]

/-- Step 8: the regions of R445, and whether they lie within the allocation, or OOB is 1. -/
def MxParams.regions (p : MxParams) (alloc : Nat) : List (Nat × Bool) :=
  [(p.aoff, p.oob1 || decide (p.aoff + (p.m - 1) * p.astride + p.k * p.aSize ≤ alloc)),
   (p.woff, p.oob1 || p.wfmt == 0 || p.wglb || decide (p.woff + (p.m - 1) * p.wstride + p.n * p.cSize ≤ alloc))]

/-- Step 9: B and its scale codes, and whether the slices hold them. -/
def MxParams.slices (p : MxParams) : List (Nat × Bool) :=
  [(p.boff, decide (p.boff + p.k * (p.pair.map (·.e)).getD 0 / 8 ≤ 32768)), (p.soff, !p.scaled || decide (p.soff + p.k / 32 ≤ 32768))]

/-! ## The table and the banks (R437, R440) -/

/-- The logical bank of a request. -/
def MxReq.bank : MxReq → Nat
  | .op w _ => (MxParams.of w).bank
  | .acc _ _ a => field ((a[2]?.getD 0).toNat) 26 2

/-- The operand group of an `MXACC`. -/
structure AccArgs where
  soff : Nat
  rstride : Nat
  row0 : Nat
  rows : Nat
  bank : Nat
  cols : Nat
  comp : Nat
  barv : Bool
  deriving DecidableEq, Repr

def AccArgs.of (a : List Word) : AccArgs :=
  let q (i : Nat) : Nat := (a[i]?.getD 0).toNat
  ⟨q 0, q 1, field (q 2) 0 9, field (q 2) 16 10, field (q 2) 26 2, if bitOf (q 2) 28 then 128 else 256, field (q 3) 0 19, bitOf (q 3) 19⟩

/-- The number of the request's passes: an `MXACC` has none. -/
def MxReq.passes : MxReq → Nat
  | .op w _ => (MxParams.of w).passes
  | .acc _ _ _ => 0

/-- A mapping by this request is wide under RPT 2 (R440); operations of `MXACC` are 0 ZERO, 1 LD, 2 ST, 3 FREE. -/
def MxReq.wide (r : MxReq) (rpt : Nat) : Bool :=
  rpt == 2 && decide (r.bank ≤ 1) && match r with
    | .op w _ => ((MxParams.of w).pair.map (·.float)).getD false
    | .acc o f _ => o == 0 || ((o == 1 || o == 2) && f != 3)

/-- The request on a mapped bank of this width fails (R440). -/
def MxReq.wrongWidth (r : MxReq) (rpt : Nat) (wide : Bool) : Bool :=
  match r with
  | .op w _ => if ((MxParams.of w).pair.map (·.float)).getD false then rpt == 2 && !wide else wide
  | .acc o f _ => (o == 1 || o == 2) && ((f == 3 && wide) || (f == 4 && !wide))

/-- The bank that a gang maps as a logical one: the first of its physical banks holds its entries. -/
def Engine.bank? (e : Engine) (g : Nat × BitVec 16 × Nat) (l : Nat) : Option Bank :=
  e.banks.find? (fun b => b.gang == some g && b.logical == l)

/-- The entries of the gang's logical bank replaced. -/
def Engine.setCells (e : Engine) (g : Nat × BitVec 16 × Nat) (l : Nat) (cells : List AccEntry) : Engine :=
  { e with banks := go e.banks }
where
  go : List Bank → List Bank
    | [] => []
    | b :: bs => if b.gang == some g && b.logical == l then { b with cells := cells } :: bs else b :: go bs

def Engine.freeBanks (e : Engine) : Nat := (e.banks.filter (fun b => b.gang.isNone)).length

/-- Physical banks taken for a mapping. -/
def takeBanks (g : Nat × BitVec 16 × Nat) (l : Nat) (wide : Bool) : Nat → List Bank → List Bank
  | _, [] => []
  | 0, bs => bs
  | k + 1, b :: bs => if b.gang.isNone then ⟨some g, l, wide, []⟩ :: takeBanks g l wide k bs else b :: takeBanks g l wide (k + 1) bs

/-- A logical bank is mapped, zeroed. -/
def Engine.map (e : Engine) (g : Nat × BitVec 16 × Nat) (l : Nat) (wide : Bool) : Engine :=
  { e with banks := takeBanks g l wide (if wide then 2 else 1) e.banks }

/-- A mapping ends. -/
def Engine.unmap (e : Engine) (g : Nat × BitVec 16 × Nat) (l : Nat) : Engine :=
  { e with banks := e.banks.map (fun b => if b.gang == some g && b.logical == l then Bank.empty else b) }

/-- An accumulator entry. -/
def entryAt (cells : List AccEntry) (r n : Nat) : Nat × Bool :=
  match cells.find? (fun c => c.row == r && c.col == n) with
  | some c => (c.val.toNat, c.poison)
  | none => (0, false)

/-- Entries of rows `[r0, r0 + nr)` and columns below `nc` replaced by what `f` says. -/
def putEntries (cells : List AccEntry) (r0 nr nc : Nat) (f : Nat → Nat → Nat × Bool) : List AccEntry :=
  cells.filter (fun c => !(decide (r0 ≤ c.row) && decide (c.row < r0 + nr) && decide (c.col < nc)))
    ++ (List.range nr).flatMap (fun i => (List.range nc).filterMap (fun n =>
      let x := f (r0 + i) n
      if x.1 != 0 || x.2 then some ⟨r0 + i, n, BitVec.ofNat 64 x.1, x.2⟩ else none))

/-- Sticky bits of a gang (R459). -/
def Engine.sticky (e : Engine) (g : Nat × BitVec 16 × Nat) : Word :=
  match e.stickies.find? (fun x => x.gang == g) with
  | some x => x.bits
  | none => 0
def Engine.setSticky (e : Engine) (g : Nat × BitVec 16 × Nat) (v : Word) : Engine :=
  { e with stickies := (if v = 0 then [] else [⟨g, v⟩]) ++ e.stickies.filter (fun x => x.gang != g) }

/-- The contract and the launch flags of an entry's block. -/
def State.entryBlock (s : State) (x : MxEntry) : Option Block := s.block? x.core x.ent
def State.entryContract (s : State) (x : MxEntry) : Contract :=
  match s.entryBlock x with
  | some b => b.contract
  | none => contractOf 0
def State.entryNarrowOk (s : State) (x : MxEntry) : Bool := match s.entryBlock x with | some b => b.flag 5 | none => false

/-- The alarm holds off a start for an entry (R452). -/
def State.heldOff (s : State) (x : MxEntry) : Bool := s.power.alarm && !s.entryNarrowOk x

/-- The input objects of an entry hold their target phases. -/
def State.inputsReady (s : State) (x : MxEntry) : Bool :=
  match x.req, s.entryBlock x with
  | .op w _, some b => (MxParams.of w).inputs.all (fun o => (s.barObj b o.1).phase == o.2)
  | _, _ => true

/-- Entries that the table holds: posts beyond its 32 places wait outside. -/
def Engine.held (e : Engine) : List MxEntry := e.table.take (Config.mxTableMax - b2n e.running.isSome)

/-- An entry is eligible (R438). -/
def State.eligible (s : State) (e : Engine) (x : MxEntry) : Bool :=
  s.inputsReady x && !s.heldOff x
    && !(e.held ++ e.running.toList).any (fun y => y.gang == x.gang && y.req.bank == x.req.bank && decide (y.post < x.post))
    && ((e.bank? x.gang x.req.bank).isSome || decide ((if x.req.wide (s.entryContract x).rpt then 2 else 1) ≤ e.freeBanks))

/-- PRIO of an entry's block. -/
def State.entryPrio (s : State) (x : MxEntry) : Nat := match s.entryBlock x with | some b => b.rec_.prio | none => 0

/-- The arbiter's key (R439). -/
def State.grantsFirst (s : State) (x y : MxEntry) : Bool :=
  if x.aged != y.aged then x.aged
  else if s.entryPrio x != s.entryPrio y then decide (s.entryPrio y < s.entryPrio x)
  else decide (x.post < y.post)

/-! ## Failure after a grant (R463) -/

/-- The running entry leaves; its thread traps at its next issue, or its gang is killed. -/
def State.failEntry (s : State) (q : Nat) (x : MxEntry) (kind addr status : Nat) : State :=
  (s.modEngine q (fun e => { e with running := none, passing := false, narrow := false })).trapLater ⟨x.core, x.ent, x.tid⟩
    ⟨kind, addr, status, 0, false, none⟩

/-! ## Grant (R439, R440) -/

/-- Cycles from the grant to the first pass, or to the completion of an `MXACC`: 24, and one for each row that an `MXACC` moves
(R451). -/
def MxReq.setUp : MxReq → Nat
  | .op _ _ => 24
  | .acc o _ a => 24 + if o == 1 || o == 2 then (AccArgs.of a).rows else 0

/-- Cycles of a pass: M times 2^SPEED, doubled when it is narrowed (R451). -/
def State.passCycles (s : State) (x : MxEntry) (narrow : Bool) : Nat :=
  match x.req with
  | .op w _ => (MxParams.of w).m * 2 ^ (s.entryContract x).speed * (if narrow then 2 else 1)
  | .acc _ _ _ => 0

/-- Cycles of the write-out: M, unless WFMT is 0 (R451). -/
def MxReq.writeOut : MxReq → Nat
  | .op w _ => if (MxParams.of w).wfmt == 0 then 0 else (MxParams.of w).m
  | .acc _ _ _ => 0

/-- The next pass of the running operation starts, if there is one, the set-up is over, and neither the alarm (R452) nor a change
of the clock (R27) holds it off. -/
def State.startPass (s : State) (q : Nat) : State :=
  let e := s.engine q
  match e.running with
  | none => s
  | some x =>
    if e.passing || decide (x.req.passes ≤ x.nextPass) || s.heldOff x || s.power.retune.isSome || decide (s.cycle < e.due)
    then s
    else s.setEngine { e with passing := true, narrow := s.power.alarm, due := s.cycle + s.passCycles x s.power.alarm }

/-- What follows a pass that has ended: the next one, or after the last one the write-out. -/
def State.afterPass (s : State) (q : Nat) : State :=
  match (s.engine q).running with
  | none => s
  | some x =>
    if x.req.passes ≤ x.nextPass then s.modEngine q (fun e => { e with due := s.cycle + x.req.writeOut }) else s.startPass q

/-- Grants of another entry age those that are eligible. -/
def State.ageEntries (s : State) (e : Engine) (won : MxEntry) : List MxEntry :=
  (e.table.filter (fun y => y.post != won.post)).map (fun y =>
    if e.held.contains y && s.eligible e y then { y with grants := y.grants + 1, aged := y.aged || decide (16 ≤ y.grants + 1) } else y)

/-- The arbiter grants an entry, which is AGED no longer: its bank is mapped, and a bank of the wrong width fails it. -/
def State.grant (s : State) (q : Nat) : State :=
  let e := s.engine q
  if e.running.isSome then s
  else match bestBy s.grantsFirst (e.held.filter (s.eligible e)) with
    | none => s
    | some x =>
      let rpt := (s.entryContract x).rpt
      let e1 := { e with table := s.ageEntries e x }
      let e2 := if (e1.bank? x.gang x.req.bank).isSome then e1 else e1.map x.gang x.req.bank (x.req.wide rpt)
      match e2.bank? x.gang x.req.bank with
      | none => s
      | some b =>
        let y := { x with from_ := x.nextPass, c0 := b.cells, aged := false, grants := 0 }
        let s1 := s.setEngine { e2 with running := some y, due := s.cycle + x.req.setUp }
        if x.req.wrongWidth rpt b.wide then s1.failEntry q y 0x14 0 8 else s1

def execMatrixGrant (quad : Nat) (s : State) : Host.Outcome State Fault Refusal :=
  if Config.quads ≤ quad then .fault .noSuchAgent else .next (s.grant quad)

/-! ## Passes (R447 to R449) -/

/-- `n` bytes of A from a scratchpad offset on; zero beyond the allocation. -/
def State.aBytes (s : State) (b : Block) (off n : Nat) : List Byte :=
  (List.range n).map (fun i => if off + i < b.alloc then s.scratch.get (b.scrAddr (off + i)) else 0)

/-- Element (m, k) of A as its bits. -/
def State.aElem (s : State) (b : Block) (p : MxParams) (m k : Nat) : Nat :=
  ofBytes (s.aBytes b (p.aoff + m * p.astride + k * p.aSize) p.aSize)

/-- A byte of a slice (R435). -/
def State.sliceByte (s : State) (q n u : Nat) : Nat := (s.bstore.get (tileAddr q (tileOffset n u))).toNat

/-- Element (k, n) of B as its bits (R436). -/
def State.bElem (s : State) (q : Nat) (p : MxParams) (e k n : Nat) : Nat :=
  let bit := e * k
  let u := p.boff + bit / 8
  if e = 16 then s.sliceByte q n u + 256 * s.sliceByte q n (u + 1) else field (s.sliceByte q n u) (bit % 8) e

/-- The scale code of row `k` of column `n`. -/
def State.scaleCode (s : State) (q : Nat) (p : MxParams) (k n : Nat) : Nat := s.sliceByte q n (p.soff + k / 32)

/-- A dequantised element as BF16 bits (R448). -/
def dequant (bfmt : Nat) (unsigned : Bool) (x code : Nat) : Nat :=
  if code = 255 then BF16.nanBits
  else if code = 0 then 0
  else
    let v := if bfmt = 4 then readF4 x else Num.ofInt (if unsigned then (x : Int) else signedOf 4 x)
    (BF16.round .rne false (v.mul (.fin false (scaleValue code).1 (scaleValue code).2)).1).1

/-- The value of an element of B in the format of the products. -/
def State.bValue (s : State) (q : Nat) (p : MxParams) (x : MxPair) (k n : Nat) : Num :=
  let b := s.bElem q p x.e k n
  p.fmt.read false (if p.scaled then dequant p.bfmt p.sb b (s.scaleCode q p k n) else b)

/-- The bits of an accumulator in its bank. -/
def accBits (wide : Bool) (v : Num) : Nat := ((if wide then F64 else F32).round .rne false v).1
def accValue (wide : Bool) (bits : Nat) : Num := (if wide then F64 else F32).read false bits

/-- The starting value of an element: the bank before the operation's first pass since its grant, or zero where it
overwrites. -/
def MxEntry.start (x : MxEntry) (p : MxParams) (m n : Nat) : Nat × Bool :=
  if p.acc || x.from_ != 0 then entryAt x.c0 m n else (0, false)

/-- A floating-point element after a pass: `DotContract` over the rows since the grant, so that passes never change the
result (R449). -/
def State.floatElem (s : State) (q : Nat) (b : Block) (p : MxParams) (pr : MxPair) (x : MxEntry) (wide : Bool) (m n : Nat) :
    Nat × Bool :=
  let c := x.start p m n
  let ks := (List.range ((x.nextPass + 1 - x.from_) * pr.ks)).map (· + x.from_ * pr.ks)
  let as := ks.map (fun k => p.fmt.read false (s.aElem b p m k))
  let bs := ks.map (fun k => s.bValue q p pr k n)
  (accBits wide (dotContract b.contract p.fmt as bs (accValue wide c.1)).1, c.2)

/-- An integer element of A or B. -/
def intElem (unsigned : Bool) (x : Nat) : Int := if unsigned then (x : Int) else signedOf 8 x
def ternElem (x : Nat) : Int := if x = 1 then 1 else if x = 3 then -1 else 0

/-- An integer element after a pass, and whether it saturated (R447). -/
def State.intResult (s : State) (q : Nat) (b : Block) (p : MxParams) (pr : MxPair) (x : MxEntry) (cells : List AccEntry) (m n : Nat) :
    Nat × Bool × Bool :=
  let c := if x.nextPass = x.from_ then x.start p m n else entryAt cells m n
  let ks := (List.range pr.ks).map (· + x.nextPass * pr.ks)
  let sum : Int := ks.foldl (fun t k =>
    let y := s.bElem q p pr.e k n
    t + intElem p.sa (s.aElem b p m k) * (if p.bfmt = 5 then ternElem y else intElem p.sb y)) 0
  let v := signedOf 32 c.1 + sum
  let r := clampInt v (-(2 ^ 31)) (2 ^ 31 - 1)
  (lowBits 32 r, c.2, r != v)

/-- A poisoned granule that a pass reads: of A (SRC 1) or of the slices (SRC 5). -/
def State.passPoison (s : State) (q : Nat) (b : Block) (p : MxParams) (pr : MxPair) (pass : Nat) : Option Nat :=
  let ks := pr.ks
  let aBad := (List.range p.m).any (fun m =>
    let off := p.aoff + m * p.astride + pass * ks * p.aSize
    let n := ks * p.aSize
    let len := if off + n ≤ b.alloc then n else b.alloc - off
    s.scratch.anyPoison (b.scrAddr off) len)
  let slice (n u len : Nat) : Bool := (List.range len).any (fun i => s.bstore.poisoned (tileAddr q (tileOffset n (u + i)) / 32))
  let bBad := (List.range p.n).any (fun n =>
    slice n (p.boff + pr.e * pass * ks / 8) (pr.e * ks / 8) || (p.scaled && slice n (p.soff + pass * ks / 32) (ks / 32)))
  if aBad then some 1 else if bBad then some 5 else none

/-- Sticky bits that a pass causes (R459). -/
def State.passSticky (s : State) (q : Nat) (p : MxParams) (pr : MxPair) (pass : Nat) (nan sat : Bool) : Word :=
  let ks := (List.range pr.ks).map (· + pass * pr.ks)
  let cols := List.range p.n
  let scv := p.scaled && cols.any (fun n => ks.any (fun k => s.scaleCode q p k n == 255))
  let rc := p.bfmt == 5 && cols.any (fun n => ks.any (fun k => s.bElem q p pr.e k n == 2))
  BitVec.ofNat 32 (b2n rc + 2 * b2n scv + 4 * b2n sat + 8 * b2n nan)

/-- A pass runs: the bank takes its results, the gang its sticky bits; a poisoned operand fails the operation, a poisoned
bank entry used as c is recorded (R463). -/
def State.runPass (s : State) (q : Nat) (x : MxEntry) (w : List DWord) : State :=
  let p := MxParams.of w
  let e := s.engine q
  match p.pair, s.entryBlock x, e.bank? x.gang p.bank with
  | some pr, some b, some k =>
    match s.passPoison q b p pr x.nextPass with
    | some src => (s.consumedBy ⟨x.core, x.ent, x.tid⟩ 0x03 x.pc.toNat 0 src 8).failEntry q x 0x10 0 8
    | none =>
      let f := if pr.float then fun m n => let r := s.floatElem q b p pr x k.wide m n; (r.1, r.2)
        else fun m n => let r := s.intResult q b p pr x k.cells m n; (r.1, r.2.1)
      let cells := putEntries k.cells 0 p.m p.n f
      let inside := (List.range p.m).flatMap (fun m => (List.range p.n).map (fun n => (m, n)))
      let nan := pr.float && inside.any (fun z => (accValue k.wide (entryAt cells z.1 z.2).1).isNaN)
      let sat := !pr.float && inside.any (fun z => (s.intResult q b p pr x k.cells z.1 z.2).2.2)
      let bad := x.nextPass == x.from_ && inside.any (fun z => (x.start p z.1 z.2).2)
      let e1 := (e.setCells x.gang p.bank cells).setSticky x.gang (e.sticky x.gang ||| s.passSticky q p pr x.nextPass nan sat)
      let s1 := s.setEngine { e1 with running := some { x with nextPass := x.nextPass + 1, retried := false },
                                      passing := false, narrow := false }
      if bad then
        s1.threadRec ⟨x.core, x.ent, x.tid⟩ { kind := 0x04, sev := 1, src := 13, pc := x.pc.toNat, origin := b.origin }
      else s1
  | _, _, _ => s

/-- A pass that has ended is on the account of its grid (R30). -/
def State.usesPass (s : State) (q : Nat) (x : MxEntry) : State := s.uses ⟨1, q, x.tenant, some (x.gang.1, x.gang.2.1), 1⟩

/-- A creation by an engine's pass: it names no thread, and the block's latest creation then lies outside physical memory (R290;
assumption 94). -/
def State.passCreates (s : State) (x : MxEntry) (src synd : Nat) : State :=
  match s.entryBlock x with
  | some b => (s.modBlock b.core b.ent (fun b => { b with origin := 0 })).tenantRecord b.tenant
      (b.record { kind := 0x01, sev := 1, src := src, synd := synd })
  | none => s

/-- An accumulator entry is poisoned. -/
def Engine.spoil (e : Engine) (g : Nat × BitVec 16 × Nat) (l row col : Nat) : Engine :=
  match e.bank? g l with
  | some k => e.setCells g l (⟨row, col, BitVec.ofNat 64 (entryAt k.cells row col).1, true⟩
      :: k.cells.filter (fun c => !(c.row == row && c.col == col)))
  | none => e

/-- The errors that a pass finds in granules of its tile and in entries of its bank (R284, R286). -/
def State.passFinds (s : State) (q : Nat) (x : MxEntry) (env : PassEnv) : State :=
  let s1 := runAll (fun (s : State) (y : Nat × Word) =>
    let s1 := s.passCreates x 5 y.2.toNat
    { s1 with bstore := s1.bstore.setPoison (q * 262144 + y.1 % 262144) }) env.tile s
  runAll (fun (s : State) (y : Nat × Nat × Word) =>
    (s.passCreates x 13 y.2.2.toNat).modEngine q (fun e => e.spoil x.gang x.req.bank (y.1 % 512) (y.2.1 % 256))) env.acc s1

/-- MATRIX_PASS: a pass starts once the set-up is over, and the pass in progress ends once its cycles are over (R451). A first residue
mismatch re-runs it with a KIND 0x13 record, a second one fails the operation (R463). -/
def State.pass_ (s : State) (q : Nat) (env : PassEnv) : State :=
  let s1 := s.startPass q
  let e := s1.engine q
  match e.running with
  | none => s1
  | some x =>
    if !e.passing || decide (s.cycle < e.due) then s1
    else
      let s0 := (s1.usesPass q x).passFinds q x env
      match x.req with
      | .acc _ _ _ => s0
      | .op w _ =>
        if env.residueFails then
          if x.retried then s0.failEntry q x 0x10 0 8
          else (s0.setEngine { s0.engine q with
              running := some { x with retried := true }
              due := s.cycle + s0.passCycles x e.narrow }).threadRec ⟨x.core, x.ent, x.tid⟩
            { kind := 0x13, sev := 0, src := 13, pc := x.pc.toNat, synd := x.nextPass }
        else (s0.runPass q x w).afterPass q

def execMatrixPass (quad : Nat) (env : PassEnv) (s : State) : Host.Outcome State Fault Refusal :=
  if Config.quads ≤ quad then .fault .noSuchAgent else .next (s.pass_ quad env)

/-! ## Write-out and completion (R450, R453) -/

/-- An entry as written (R450). -/
def MxParams.written (p : MxParams) (wide : Bool) (bits : Nat) : Nat :=
  match p.wfmt with
  | 1 => if wide then (F32.round .rne false (accValue wide bits)).1 else bits
  | 2 => (BF16.round .rne false (accValue wide bits)).1
  | 3 => (F16.round .rne false (accValue wide bits)).1
  | _ => bits

/-- The format of the elements as written: of those of the bank when nothing is. -/
def MxParams.writtenFmt (p : MxParams) (wide : Bool) : Fmt :=
  match p.wfmt with
  | 1 => F32
  | 2 => BF16
  | 3 => F16
  | _ => if wide then F64 else F32

/-- The AMAX word, over the elements as they are written, or over those of the bank when WFMT is 0 (R450). -/
def MxParams.amax (p : MxParams) (k : Bank) : Nat :=
  let xs := (List.range p.m).flatMap (fun m => (List.range p.n).map (fun n => p.written k.wide (entryAt k.cells m n).1))
  if ((p.pair.map (·.float)).getD false) then
    let f := p.writtenFmt k.wide
    if xs.any (fun x => (f.read false x).isNaN) then F32.nanBits
    else (F32.round .rne false (f.read false (xs.foldl (fun t x => Nat.max t (x % f.sign true)) 0))).1
  else xs.foldl (fun t x => Nat.max t (signedOf 32 x).natAbs) 0

/-- The places of the bytes of an element of C: one piece, or single bytes where a unit is crossed; bytes outside the
region are discarded. -/
def cPlaces (rcd : Option RecWords) (alloc off : Nat) (bs : List Byte) (poison : Bool) :
    List (Loc × List Byte × Bool) :=
  match rcd with
  | none =>
    if off + bs.length ≤ alloc && off % 32 + bs.length ≤ 32 then [(.scr none off, bs, poison)]
    else (List.range bs.length).filterMap (fun i =>
      if off + i < alloc then some (.scr none (off + i), [bs[i]?.getD 0], poison) else none)
  | some w =>
    let r := Rec.of w
    (List.range bs.length).filterMap (fun i =>
      if off + i < r.extent then some (.va (r.base + r.swizzle (off + i)), [bs[i]?.getD 0], poison) else none)

/-- Everything that a write-out writes. -/
def MxParams.writes (p : MxParams) (rcd : Option RecWords) (alloc : Nat) (k : Bank) : List (Loc × List Byte × Bool) :=
  if p.wfmt = 0 then []
  else (List.range p.m).flatMap (fun m => (List.range p.n).flatMap (fun n =>
    let x := entryAt k.cells m n
    cPlaces rcd alloc (p.woff + m * p.wstride + n * p.cSize) (toBytes p.cSize (p.written k.wide x.1)) x.2))

/-- How the pages of a write-out stand: all writable, one awaited, or a failure after some pieces. -/
inductive WritePages where
  | all
  | wait
  | fail (done : Nat) (f : EngFail)
  deriving DecidableEq, Repr

/-- The pages of the pieces in order. -/
def State.writePages (s : State) (b : Block) (i : Nat) : List (Loc × List Byte × Bool) → State × WritePages
  | [] => (s, .all)
  | (.va a, _, _) :: xs => match s.engPage b .store false a with
    | (s1, .ok e, _) =>
      if e.kind == 1 || decide (2 ≤ e.tier) then (s1, .fail i ⟨0x0E, a, 8⟩) else s1.writePages b (i + 1) xs
    | (s1, .wait, _) => (s1, .wait)
    | (s1, .fail f, _) => (s1, .fail i f)
  | _ :: xs => s.writePages b (i + 1) xs

/-- The operation completes: write-out, AMAX, the count, and the entry frees (R453). -/
def State.completeOp (s : State) (q : Nat) (x : MxEntry) (w : List DWord) (rcd : Option RecWords) : State :=
  let p := MxParams.of w
  match s.entryBlock x, (s.engine q).bank? x.gang p.bank with
  | some b, some k =>
    let items := p.writes rcd b.alloc k
    let wr : Writer := ⟨b.core, b.tenant, b.grid, .response⟩
    match s.writePages b 0 items with
    | (s1, .wait) => s1
    | (s1, .fail i f) => ((s1.putAll b wr none (groupGranules (items.take i))).1).failEntry q x f.kind f.addr f.status
    | (s1, .all) =>
      let s2 := (s1.putAll b wr none (groupGranules items)).1
      let s3 := if p.amaxv then s2.scrStore b p.amoff (toBytes 4 (p.amax k)) false [] else s2
      let s4 := match p.done with | some o => s3.barAdd b o.1 o.2 | none => s3
      s4.modEngine q (fun e => { e with running := none, passing := false, narrow := false })
  | _, _ => s

/-! ## MXACC (R457, R458) -/

/-- Bytes of an element of a form `f`. -/
def accElem (f : Nat) : Nat := if f = 1 || f = 2 then 2 else if f = 4 then 8 else 4

/-- The group values of R457, for every operation; FREE, which ignores NROWS, ROW0 and HALF (R458), names no rows and no columns that
RSTRIDE must hold (assumption 93). -/
def accArgsOk (o f : Nat) (a : List Word) : Bool :=
  let q (i : Nat) : Nat := (a[i]?.getD 0).toNat
  let x := AccArgs.of a
  zeroField (q 2) 9 7 && zeroField (q 2) 29 3 && zeroField (q 3) 20 12 && x.comp % 16 == 0 && x.soff % 16 == 0 && x.rstride % 16 == 0
    && (o == 3 || (decide (1 ≤ x.rows) && decide (x.rows ≤ 512) && decide (x.row0 + x.rows ≤ 512)
      && decide (x.cols * accElem f ≤ x.rstride)))

/-- What an `MXACC` names in its allocation: its object with BARV, the rows of LD and ST. -/
def accPlaces (o f : Nat) (a : List Word) (alloc : Nat) : List (Nat × Bool) :=
  let x := AccArgs.of a
  [(x.comp, !x.barv || decide (x.comp + 16 ≤ alloc)),
   (x.soff, !(o == 1 || o == 2) || decide (x.soff + (x.rows - 1) * x.rstride + x.cols * accElem f ≤ alloc))]

/-- A scratchpad element as a bank entry. -/
def accLoad (f : Nat) (wide : Bool) (x : Nat) : Nat :=
  if f = 3 || f = 4 || (f = 0 && !wide) then x
  else
    let g := if f = 1 then BF16 else if f = 2 then F16 else F32
    accBits wide (g.read false x)

/-- A bank entry as a scratchpad element. -/
def accStore (f : Nat) (wide : Bool) (x : Nat) : Nat :=
  if f = 3 || f = 4 || (f = 0 && !wide) then x
  else ((if f = 1 then BF16 else if f = 2 then F16 else F32).round .rne false (accValue wide x)).1

/-- The scratchpad elements of an `ST`, in order. -/
def AccArgs.items (x : AccArgs) (f : Nat) (k : Bank) : List (Loc × List Byte × Bool) :=
  (List.range x.rows).flatMap (fun i => (List.range x.cols).map (fun n =>
    let e := entryAt k.cells (x.row0 + i) n
    (.scr none (x.soff + i * x.rstride + n * accElem f), toBytes (accElem f) (accStore f k.wide e.1), e.2)))

/-- A granted `MXACC` acts and completes. -/
def State.completeAcc (s : State) (q : Nat) (m : MxEntry) (o f : Nat) (a : List Word) : State :=
  let x := AccArgs.of a
  let e := s.engine q
  match s.entryBlock m, e.bank? m.gang x.bank with
  | some b, some k =>
    let z := accElem f
    let count := if o = 1 || o = 2 then x.rows * x.cols * z else 0
    let s1 := match o with
      | 0 => s.setEngine (e.setCells m.gang x.bank (putEntries k.cells x.row0 x.rows x.cols (fun _ _ => (0, false))))
      | 1 => s.setEngine (e.setCells m.gang x.bank (putEntries k.cells x.row0 x.rows x.cols (fun r n =>
          let v := s.scrLoad b (x.soff + (r - x.row0) * x.rstride + n * z) z
          (accLoad f k.wide (ofBytes v.1), v.2))))
      | 2 => (s.putAll b ⟨b.core, b.tenant, b.grid, .response⟩ none (groupGranules (x.items f k))).1
      | _ => s.setEngine (e.unmap m.gang x.bank)
    let s2 := if x.barv then s1.barAdd b x.comp (BitVec.ofNat 32 count) else s1
    s2.modEngine q (fun e => { e with running := none, passing := false, narrow := false })
  | _, _ => s

/-- MATRIX_COMPLETE: the running entry, once its passes and its write-out are over. -/
def execMatrixComplete (quad : Nat) (s : State) : Host.Outcome State Fault Refusal :=
  if Config.quads ≤ quad then .fault .noSuchAgent
  else match (s.engine quad).running with
    | none => .next s
    | some x =>
      if s.cycle < (s.engine quad).due then .next s
      else match x.req with
        | .op w r => .next (if x.req.passes ≤ x.nextPass then s.completeOp quad x w r else s)
        | .acc o f a => .next (s.completeAcc quad x o f a)

/-! ## Issue (R443, R444, R446, R457) -/

/-- The words that a request captured. -/
def MxReq.words : MxReq → List DWord
  | .op w _ => w
  | .acc _ _ a => a.map (fun x => BitVec.ofNat 64 x.toNat)

/-- A post reaches the quad's table. -/
def Ctx.post (c : Ctx) (s : State) (r : MxReq) : State :=
  (c.untyped (c.unprotect s) (crcWords 112 r.words)).modEngine (quadOf c.id.core) (fun e =>
    { e with
      posts := e.posts + 1
      table := e.table ++ [⟨e.posts, c.blk.gang, c.id.core, c.id.ent, c.id.tid, c.th.pc, c.blk.tenant, r, 0, false, 0, false, 0, []⟩] })

/-- What the destination pages of an `MXOP` give. -/
inductive DestPages where
  | ok (mismatch : Bool)
  | hold (va : Nat)
  | trap (t : TrapInfo)
  deriving DecidableEq, Repr

/-- The pages of a global write-out at issue (R446). -/
def State.destPages (s : State) (b : Block) (mism : Bool) : List Nat → State × DestPages
  | [] => (s, .ok mism)
  | va :: vs => match s.xlat b.core b.tenant va .store with
    | (s1, .notValid) => (s1, .hold va)
    | (s1, .blocked) => (s1, .hold va)
    | (s1, .perm) => (s1, .trap { kind := 0x0C, addr := va })
    | (s1, .format) => (s1, .trap { kind := 0x0D, addr := va })
    | (s1, .ok e) =>
      if e.kind == 1 || decide (2 ≤ e.tier) then (s1, .trap { kind := 0x0E, addr := va })
      else if s1.mismatched b e then
        (if b.flag 4 then (s1, .trap { kind := 0x0F, addr := va }) else s1.destPages b true vs)
      else s1.destPages b mism vs

/-- An address in each page that the C region covers through a record: of the first and the last byte of each unit that its swizzle
keeps together. -/
def MxParams.destAddrs (p : MxParams) (r : Rec) : List Nat :=
  let last := p.woff + (p.m - 1) * p.wstride + p.n * p.cSize
  let stop := if last < r.extent then last else r.extent
  let unit := if r.swz ≤ 1 then 16 else 2 ^ r.esize
  let offs := if p.woff < stop then
      (List.range ((stop - 1) / unit + 1 - p.woff / unit)).flatMap (fun i =>
        let u := (p.woff / unit + i) * unit
        [Nat.max p.woff u, minOf stop [u + unit] - 1])
    else []
  (offs.map (fun o => r.base + r.swizzle o)).foldl (fun vs a => if vs.any (fun v => v / 65536 == a / 65536) then vs else vs ++ [a]) []

/-- Step 10: the global record and its pages. -/
def Ctx.postGlobal (c : Ctx) (s : State) (w : List DWord) (rcd : RecWords × Bool) : LaneOut :=
  let p := MxParams.of w
  let r := Rec.of rcd.1
  if rcd.2 then c.poisoned s 0x02 0 0
  else if !(r.ok c.blk.rec_.gsize && r.space == 0) then .trap { kind := 0x14 } s
  else if !r.allows 2 then .trap { kind := 0x0B } s
  else if r.oob == 0 && p.wfmt != 0 && decide (r.extent < p.woff + (p.m - 1) * p.wstride + p.n * p.cSize) then
    .trap { kind := 0x09, addr := r.base + p.woff } s
  else match s.destPages c.blk false (if p.wfmt = 0 then [] else p.destAddrs r) with
    | (s1, .hold va) => .hold va true s1
    | (s1, .trap t) => .trap t s1
    | (s1, .ok mism) => .done (c.post (if mism && c.blk.verify != .secondary then s1.countMismatch c.blk.tenant else s1) (.op w (some rcd.1)))

/-- The block-exclusive rule of `MXOP` and `MXACC`: in a gang of one block any thread may post (R168, R169). -/
def Ctx.mayPost (c : Ctx) (s : State) : Bool := c.blk.rec_.gsize == 1 || c.holdsToken s

def mxopLane (p : Mxop) (s : State) (c : Ctx) : LaneOut :=
  let a := c.src s p.imm false p.a
  let rcd := match p.b with | .s r => some (c.blk.record4 r) | _ => none
  if !c.mayPost s then .trap { kind := 0x07 } s
  else if c.th.dem then .done s
  else if a.poison then c.poisoned s 0x03 0 0
  else if a.low % 64 != 0 then .trap { kind := 0x0A, addr := a.low } s
  else if c.blk.alloc < a.low + 64 then .trap { kind := 0x09, addr := a.low } s
  else
    let blk := s.scrLoad c.blk a.low 64
    let w := toDwords 8 blk.1
    let x := MxParams.of w
    let rpt := c.blk.contract.rpt
    if blk.2 then c.poisoned s 0x03 a.low 1
    else if !mxFormOk w rpt rcd.isSome || !x.bankOk rpt then .trap { kind := 0x14 } s
    else match outsideAt (x.objects c.blk.alloc ++ x.regions c.blk.alloc ++ x.slices), rcd with
      | some o, _ => .trap { kind := 0x09, addr := o } s
      | none, some r => c.postGlobal s w r
      | none, none => .done (c.post s (.op w none))
def execMxop (p : Mxop) (s : State) : Host.Outcome State Fault Refusal := instr (.mxop p) (mxopLane p) s

/-- `MXACC` of an operation: 0 ZERO, 1 LD, 2 ST, 3 FREE. -/
def mxaccLane (o : Nat) (p : Mxacc) (s : State) (c : Ctx) : LaneOut :=
  let q := c.group p.g.toNat 4
  let a := q.map (fun v => BitVec.ofNat 32 v.nat)
  let f := p.f.toNat
  if !c.mayPost s then .trap { kind := 0x07 } s
  else if c.th.dem then .done s
  else if q.any (·.poison) then c.poisoned s 0x03 0 0
  else if !accArgsOk o f a then .trap { kind := 0x09 } s
  else match outsideAt (accPlaces o f a c.blk.alloc) with
    | some x => .trap { kind := 0x09, addr := x } s
    | none =>
      if f = 4 && !(c.blk.contract.rpt == 2 && decide ((AccArgs.of a).bank ≤ 1)) then .trap { kind := 0x14 } s
      else .done (c.post s (.acc o f a))

def mxaccZeroLane (p : Mxacc) (s : State) (c : Ctx) : LaneOut := mxaccLane 0 p s c
def execMxaccZero (p : Mxacc) (s : State) : Host.Outcome State Fault Refusal := instr (.mxaccZero p) (mxaccZeroLane p) s
def mxaccLdLane (p : Mxacc) (s : State) (c : Ctx) : LaneOut := mxaccLane 1 p s c
def execMxaccLd (p : Mxacc) (s : State) : Host.Outcome State Fault Refusal := instr (.mxaccLd p) (mxaccLdLane p) s
def mxaccStLane (p : Mxacc) (s : State) (c : Ctx) : LaneOut := mxaccLane 2 p s c
def execMxaccSt (p : Mxacc) (s : State) : Host.Outcome State Fault Refusal := instr (.mxaccSt p) (mxaccStLane p) s
def mxaccFreeLane (p : Mxacc) (s : State) (c : Ctx) : LaneOut := mxaccLane 3 p s c
def execMxaccFree (p : Mxacc) (s : State) : Host.Outcome State Fault Refusal := instr (.mxaccFree p) (mxaccFreeLane p) s

/-! ## MXSTAT (R459, R460) -/

/-- The status register as a gang sees it. -/
def Engine.status (e : Engine) (g : Nat × BitVec 16 × Nat) : Nat :=
  let used := e.held.length + b2n e.running.isSome
  let mine := ((e.held ++ e.running.toList).filter (fun x => x.gang == g)).length
  let banks := (List.range 4).foldl (fun v l => v + (if (e.bank? g l).isSome then 2 ^ l else 0)) 0
  (e.sticky g).toNat + b2n e.narrow * 2 ^ 8 + banks * 2 ^ 16 + mine % 64 * 2 ^ 20 + (Config.mxTableMax - used) * 2 ^ 26

def Ctx.mxstat (c : Ctx) (s : State) (d : Dst) : State :=
  s.writeDst c d false (word32 ((s.engine (quadOf c.id.core)).status c.blk.gang) false) none

def mxstatLane (p : DstOnly) (s : State) (c : Ctx) : LaneOut := .done (c.mxstat s p.d)
def execMxstat (p : DstOnly) (s : State) : Host.Outcome State Fault Refusal := instr (.mxstat p) (mxstatLane p) s

/-- The clear form: the read, then the marked sticky bits are cleared. -/
def mxstatClrLane (p : Coll) (s : State) (c : Ctx) : LaneOut :=
  let a := c.src s p.imm false p.a
  if c.th.dem then .done (c.mxstat s p.d)
  else if a.poison then c.poisoned s 0x02 0 0
  else
    let m := BitVec.ofNat 32 (a.nat % 16)
    .done ((c.mxstat s p.d).modEngine (quadOf c.id.core) (fun e => e.setSticky c.blk.gang (e.sticky c.blk.gang &&& ~~~m)))
def execMxstatClr (p : Coll) (s : State) : Host.Outcome State Fault Refusal := instr (.mxstatClr p) (mxstatClrLane p) s

end Sys2Proof.Machine
end

