-- ==== Sys2Proof/Machine/Packets.lean ====
section
/-! DEFINITION. Packets that arrive at the fabric ports, their acknowledgements, resends and holds (R36 to R44, R49 to R55, R60, R65, R71 to R73). -/

namespace Sys2Proof.Machine

/-! ## Ports (R37, R40) -/

def satByte (n : Nat) : Nat := if n < 255 then n + 1 else n

def State.modPort (s : State) (n : Nat) (f : Port → Port) : State :=
  { s with fabric := { s.fabric with ports := modifyAt f s.fabric.ports n } }

/-- FLIT_LINK_CHECK_FAILURE: the flit is resent by the link and counted (R37, R38). -/
def execFlitLinkCheckFailure (port : Nat) (s : State) : Host.Outcome State Fault Refusal :=
  if Config.ports ≤ port then .fault .noSuchAgent
  else .next (s.modPort port (fun x => { x with crcerr := satByte x.crcerr }))

/-- A packet of the module to itself leaves the packets sent when it arrives. -/
def State.takeSent (s : State) (p : Packet) : State := { s with fabric := { s.fabric with out := s.fabric.out.erase p } }

/-- A port takes a packet in: one of the module to itself crosses no link (R427). -/
def State.takesIn (s : State) (port : Nat) (p : Packet) : Bool :=
  p.smod == s.boot.self || (match s.fabric.ports[port]? with | some x => x.up | none => false)

/-- A packet arrives at a port: one whose KIND, CLASS or reserved fields are wrong is discarded and counted; one for another
module is not this module's. -/
def State.arrive (s : State) (port : Nat) (p : Packet) (kind : BitVec 8) (cls : BitVec 2) (k : State → State) :
    Host.Outcome State Fault Refusal :=
  if Config.ports ≤ port then .fault .noSuchAgent
  else if !s.takesIn port p then .next s
  else if p.kind != kind || p.cls != cls || !packetOk p then
    .next (s.modPort port (fun x => { x with proterr := satByte x.proterr }))
  else if p.dmod != s.boot.self then .next s
  else .next (k (if p.smod == s.boot.self then s.takeSent p else s))

/-! ## Delivery (R44) -/

def packetKey (p : Packet) : BitVec 11 × BitVec 4 × BitVec 4 × Word := (p.smod, p.sten, p.dten, p.seq)

/-- The packet has been acknowledged. -/
def State.delivered (s : State) (p : Packet) : State :=
  { s with fabric := { s.fabric with seen := if s.fabric.seen.contains (packetKey p) then s.fabric.seen else s.fabric.seen ++ [packetKey p] } }

/-- An acknowledgement by SEQ, and a refusal with its status. -/
def State.acknowledge (s : State) (p : Packet) : State := (s.delivered p).answer 0x40 p 1
def State.refuse (s : State) (p : Packet) (status : Nat) : State := s.answer 0x41 p status

/-! ## Endpoints (R43) -/

/-- A peer entry of the destination tenant admits the source for reads or for writes. -/
def State.peerOk (s : State) (p : Packet) (rd wr : Bool) : Bool :=
  (s.tenant p.dten.toNat).peers.any (fun e =>
    let x := e.toNat
    bitOf x 0 && (!rd || bitOf x 1) && (!wr || bitOf x 2) && field x 4 4 == p.sten.toNat
      && decide (field x 16 11 ≤ p.smod.toNat) && decide (p.smod.toNat ≤ field x 32 11))

/-- An entry admits the source in either way. -/
def State.peerAny (s : State) (p : Packet) : Bool := s.peerOk p true false || s.peerOk p false true

/-- A region at the destination. A hold names the page that is not valid, if that is what it waits for. -/
inductive Dest where
  | ok
  | hold (absent : Option Nat)
  | refuse (status : Nat)
  deriving DecidableEq, Repr

/-- The pages of a region admit an access of some kinds. -/
def State.destOk (s : State) (t : Nat) (a : Acc) (kinds : List Nat) : List (Nat × Nat) → Dest
  | [] => .ok
  | (va, _) :: xs => match s.walkFor t va a with
    | .notValid => .hold (some va)
    | .blocked => .hold none
    | .perm => .refuse 3
    | .format => .refuse 8
    | .ok e => if e.tier = 2 || !kinds.contains e.kind then .refuse 8 else s.destOk t a kinds xs

def State.regionOk (s : State) (t va n : Nat) (a : Acc) (kinds : List Nat) : Dest := s.destOk t a kinds (spansOf va (n + 1) n)

/-- Bytes of a payload, cut where granules end, with the marks of the poisoned ones: marks count granules from the one that
holds the packet's ADDR. -/
def markedSpans (marks : List Nat) (va i : Nat) : Nat → List Byte → List (Nat × List Byte × Bool)
  | 0, _ => []
  | fuel + 1, bs =>
    if bs.isEmpty then []
    else
      let n := 32 - va % 32
      (va, bs.take n, marks.contains i) :: markedSpans marks (va + n) (i + 1) fuel (bs.drop n)

/-- The granule that bytes without poison fill, which they clear (R287). -/
def clearedBy (pa : Nat) (bs : List Byte) (p : Bool) : List Nat := if bs.length = 32 && pa % 32 == 0 && !p then [pa / 32] else []

/-- A request of 128 bytes at most to a page of a tenant, from outside its cores: it counts (R217), and its walk has succeeded
(R206). -/
def State.destCount (s : State) (t va : Nat) (a : Acc) : State :=
  match s.walkFor t va a with
  | .ok e => (s.present t va).countAt none e va
  | _ => s

/-- A span is the first of its line in an access that begins at an address. -/
def firstOfLine (start va : Nat) : Bool := va == start || va % 128 == 0

/-- Bytes written for a tenant at the home slice or in host memory. -/
def State.destStore (s : State) (t : Nat) (x : Nat × List Byte × Bool) : State :=
  match s.walkFor t x.1 .store with
  | .ok e =>
    if e.tier = 3 then s.hostStore (e.pa x.1) x.2.1 x.2.2 (clearedBy (e.pa x.1) x.2.1 x.2.2)
    else s.homeStore (e.pa x.1) x.2.1 x.2.2 (clearedBy (e.pa x.1) x.2.1 x.2.2)
  | _ => s

/-- The payload of a write, a request for each line. -/
def State.destWrite (s : State) (p : Packet) : State :=
  runAll (fun (s : State) x =>
    (if firstOfLine p.addr.toNat x.1 then s.destCount p.dten.toNat x.1 .store else s).destStore p.dten.toNat x)
    (markedSpans p.marks p.addr.toNat 0 (p.payload.length + 1) p.payload) s

/-- Bytes read for a tenant, with the poisoned granules among them. -/
def State.destRead (s : State) (t va n : Nat) : State × List Byte × Bool :=
  match s.walkFor t va .load with
  | .ok e =>
    if e.tier = 3 then (s, s.host.read (e.pa va) n, s.host.anyPoison (e.pa va) n)
    else s.homeRead (.tenant_ t va) (e.pa va) n
  | _ => (s, zeroBytes n, false)

/-- The bytes of a read, cut where granules end, a request for each line. -/
def State.destReadAll (s : State) (t i : Nat) : List (Nat × Nat) → State × List Byte × List Nat
  | [] => (s, [], [])
  | (va, n) :: xs =>
    let r := (if i = 0 || va % 128 == 0 then s.destCount t va .load else s).destRead t va n
    let q := r.1.destReadAll t (i + 1) xs
    (q.1, r.2.1 ++ q.2.1, if r.2.2 then i :: q.2.2 else q.2.2)

/-- A request is held until its page is mapped, for at most 1 s (R43); a page that is not valid is notified (R206). Its source is
told so by an acknowledgement with status 0x00, not complete, since R44 would otherwise fail it after 8 sends (assumption 84). -/
def State.holdPacket (s : State) (p : Packet) (absent : Option Nat) (write : Bool) : State :=
  let s1 := match absent with | some va => s.notPresent p.dten.toNat va write | none => s
  ({ s1 with fabric := { s1.fabric with held := s1.fabric.held ++ [⟨p, some (s.halfNs + second)⟩] } } : State).answer 0x40 p 0

/-- A packet held until what it follows, or what is ahead of it, has come (R50). -/
def State.holdBehind (s : State) (p : Packet) : State :=
  { s with fabric := { s.fabric with held := s.fabric.held ++ [⟨p, none⟩] } }

/-! ## Requests at their destination -/

/-- A write without a signal. -/
def State.performWrite (s : State) (p : Packet) : State :=
  if !s.peerOk p false true then s.refuse p 3
  else match s.regionOk p.dten.toNat p.addr.toNat p.payload.length .store [0, 1, 2] with
    | .hold va => s.holdPacket p va true
    | .refuse st => s.refuse p st
    | .ok => (s.destWrite p).acknowledge p

/-- The signal of a `PUTS` after its payload (R49, R53, R54). -/
def State.performSignal (s : State) (p : Packet) : State :=
  let t := p.dten.toNat
  let va := field p.opnd2.toNat 0 54
  if p.sigkind = 3 then
    match s.decrement t p.signode.toNat false nodeFuel with
    | (s1, true) => s1.acknowledge p
    | (s1, false) => (s1.refuseSignal t).refuse p 6
  else if p.sigkind = 1 || p.sigkind = 2 then
    match s.regionOk t va 8 .store (if p.sigkind = 2 then [0, 2] else [0, 1, 2]) with
    | .hold va => s.holdPacket { p with payload := [] } va true
    | .refuse st => s.refuse p st
    | .ok =>
      let v := if p.sigkind = 2 then BitVec.ofNat 64 (ofBytes (s.destRead t va 8).2.1) + p.opnd else p.opnd
      ((s.destCount t va .store).destStore t (va, toBytes 8 v.toNat, false)).acknowledge p
  else s.acknowledge p

/-- A write with a signal: SIGKIND above 3 is reserved, and such a packet has been discarded. -/
def State.performPuts (s : State) (p : Packet) : State :=
  if !s.peerOk p false true then s.refuse p 3
  else match s.regionOk p.dten.toNat p.addr.toNat p.payload.length .store [0, 1, 2] with
    | .hold va => s.holdPacket p va true
    | .refuse st => s.refuse p st
    | .ok => (s.destWrite p).performSignal p

/-- A read: the response names the request by its SEQ. -/
def State.performRead (s : State) (p : Packet) : State :=
  let n := field p.opnd.toNat 0 13
  if !s.peerOk p true false then s.refuse p 3
  else match s.regionOk p.dten.toNat p.addr.toNat n .load [0, 1, 2] with
    | .hold va => s.holdPacket p va false
    | .refuse st => s.refuse p st
    | .ok =>
      let r := s.destReadAll p.dten.toNat 0 (granuleSpans p.addr.toNat n n)
      let q := { Packet.to 0x04 2 p.smod p.dten p.sten p.addr.toNat with
                 payload := r.2.1, marks := r.2.2, opnd2 := BitVec.ofNat 64 p.seq.toNat }
      (r.1.acknowledge p).send none .response q

/-- The operation and type of an atomic packet, and whether it returns the old value (assumption 24). -/
def atomicSub (p : Packet) : BitVec 8 := BitVec.ofNat 8 p.signode.toNat
def atomicReturns (p : Packet) : Bool := !p.signode.getLsbD 8

/-- The new value of an arriving atomic; operation 15 is `CAS`. -/
def atomicOf (p : Packet) (old : Nat) : Option Nat :=
  let t := tyOfSub (atomicSub p)
  let x := p.opnd.toNat % 2 ^ tyBits t
  if (atomicSub p).toNat / 16 = 15 then (if old = p.opnd2.toNat % 2 ^ tyBits t then some x else none)
  else some (atomApply (opOfSub (atomicSub p)) t old x)

/-- An atomic. A poisoned target refuses it. -/
def State.performAtomic (s : State) (p : Packet) : State :=
  let ret := atomicReturns p
  let t := p.dten.toNat
  let n := tySize (tyOfSub (atomicSub p))
  if !s.peerOk p ret true then s.refuse p 3
  else match s.regionOk t p.addr.toNat n (if ret then .atom else .red) [0, 2] with
    | .hold va => s.holdPacket p va true
    | .refuse st => s.refuse p st
    | .ok =>
      let s0 := s.destCount t p.addr.toNat (if ret then .atom else .red)
      let r := match s0.walkFor t p.addr.toNat (if ret then .atom else .red) with
        | .ok e => if e.tier = 3 then (s0, s0.host.read (e.pa p.addr.toNat) n, s0.host.anyPoison (e.pa p.addr.toNat) n)
            else s0.homeRead (.tenant_ t p.addr.toNat) (e.pa p.addr.toNat) n
        | _ => (s0, zeroBytes n, false)
      if r.2.2 then r.1.refuse p 8
      else
        let old := ofBytes r.2.1
        let s1 := match atomicOf p old with
          | some v => match r.1.walkFor t p.addr.toNat .red with
            | .ok e =>
              if e.tier = 3 then r.1.hostStore (e.pa p.addr.toNat) (toBytes n v) false []
              else r.1.homeStore (e.pa p.addr.toNat) (toBytes n v) false []
            | _ => r.1
          | none => r.1
        let s2 := s1.acknowledge p
        if ret then
          s2.send none .response { Packet.to 0x06 2 p.smod p.dten p.sten p.addr.toNat with
            opnd := BitVec.ofNat 64 old, opnd2 := BitVec.ofNat 64 p.seq.toNat }
        else s2

/-- Packets of the same source and path that are held stand ahead of a marker, but for those that follow it (R50). -/
def State.aheadOf (s : State) (p : Packet) : Bool :=
  s.fabric.held.any (fun h => h.packet.smod == p.smod && h.packet.path == p.path && h.packet.kind != 0x10
    && !h.packet.follows.contains (p.sten, p.dten, p.seq))

/-- The destination has gathered every marker that a packet follows (R50). -/
def State.gathered (s : State) (p : Packet) : Bool :=
  p.follows.all (fun k => s.fabric.seen.contains (p.smod, k.1, k.2.1, k.2.2))

/-- The walks of a request find the errors in the tables (R286): of its region, and of the word that it signals. -/
def State.walkedFor (s : State) (p : Packet) : State :=
  let n := if p.kind = 0x03 then field p.opnd.toNat 0 13 else if p.kind = 0x05 then 1 else p.payload.length
  let places := (spansOf p.addr.toNat (n + 1) n).map (·.1)
    ++ (if p.kind = 0x02 && (p.sigkind == 1 || p.sigkind == 2) then [field p.opnd2.toNat 0 54] else [])
  runAll (fun (s : State) a => s.walked p.dten.toNat a) places s

/-- A request whose markers are gathered performs by its kind; before that it is held. -/
def State.performRequest (s0 : State) (p : Packet) : State :=
  let s := s0.walkedFor p
  if !s0.gathered p then s0.holdBehind p
  else if p.kind = 0x01 then s.performWrite p
  else if p.kind = 0x02 then s.performPuts p
  else if p.kind = 0x03 then s.performRead p
  else s.performAtomic p

/-- Packets that were held behind markers, and now are behind none, perform, oldest first. -/
def State.performFollowers (s : State) : State :=
  let free (s : State) (h : HeldPacket) : Bool := h.deadline.isNone && h.packet.kind != 0x10 && s.gathered h.packet
  runAll (fun (s : State) h =>
    if free s h then
      ({ s with fabric := { s.fabric with held := s.fabric.held.filter (fun x => x != h) } } : State).performRequest h.packet
    else s) s.fabric.held s

/-- A marker is acknowledged once every packet ahead of it is visible. -/
def State.performMarker (s : State) (p : Packet) : State :=
  if s.aheadOf p then s.holdBehind p else ((s.delivered p).answer 0x11 p 1).performFollowers

/-- Markers that waited for packets which have ended since are acknowledged (R50). -/
def State.performMarkers (s : State) : State :=
  runAll (fun (s : State) h =>
    if h.packet.kind == 0x10 && !s.aheadOf h.packet then
      ({ s with fabric := { s.fabric with held := s.fabric.held.filter (fun x => x != h) } } : State).performMarker h.packet
    else s) s.fabric.held s

/-- The packet is held here. -/
def State.holds (s : State) (p : Packet) : Bool :=
  s.fabric.held.any (fun h => packetKey h.packet == packetKey p && h.packet.kind == p.kind)

/-- A request of class 2: a duplicate of an acknowledged one is acknowledged again, one that is held stays so. -/
def State.request (s : State) (p : Packet) : State :=
  if s.fabric.seen.contains (packetKey p) then s.answer 0x40 p 1
  else if s.holds p then s.answer 0x40 p 0
  else s.performRequest p

/-- A flush marker, acknowledged again when it is a duplicate. -/
def State.takeMarker (s : State) (p : Packet) : State :=
  if s.fabric.seen.contains (packetKey p) then s.answer 0x11 p 1
  else if s.holds p then s.answer 0x40 p 0
  else s.performMarker p

def execWritePacket (port : Nat) (p : Packet) (s : State) : Host.Outcome State Fault Refusal :=
  s.arrive port p 0x01 2 (fun s => s.request p)
def execWriteWithSignalPacket (port : Nat) (p : Packet) (s : State) : Host.Outcome State Fault Refusal :=
  s.arrive port p 0x02 2 (fun s => s.request p)
def execReadRequestPacket (port : Nat) (p : Packet) (s : State) : Host.Outcome State Fault Refusal :=
  s.arrive port p 0x03 2 (fun s => s.request p)
def execAtomicRequestPacket (port : Nat) (p : Packet) (s : State) : Host.Outcome State Fault Refusal :=
  s.arrive port p 0x05 2 (fun s => s.request p)
def execFlushMarkerPacket (port : Nat) (p : Packet) (s : State) : Host.Outcome State Fault Refusal :=
  s.arrive port p 0x10 2 (fun s => s.takeMarker p)

/-- Held requests of a tenant that wait for a page are tried again, oldest first (R43); one that is held again keeps its
deadline. Then the markers behind them. -/
def State.retryHeld (s : State) (t : Nat) : State :=
  let go (s : State) (h : HeldPacket) : State :=
    let s1 := ({ s with fabric := { s.fabric with held := s.fabric.held.filter (fun x => x != h) } } : State).performRequest h.packet
    { s1 with fabric := { s1.fabric with held := s1.fabric.held.map (fun x =>
        if packetKey x.packet == packetKey h.packet && x.packet.kind == h.packet.kind then { x with deadline := h.deadline } else x) } }
  (runAll go (s.fabric.held.filter (fun h => h.packet.dten.toNat == t && h.packet.kind != 0x10 && h.deadline.isSome)) s).performMarkers

/-- REMOTE_HOLD_TIMEOUT: a request held for 1 s is refused with status 0x04. -/
def execRemoteHoldTimeout (smod : BitVec 11) (sten dten : BitVec 4) (seq : Word) (s : State) : Host.Outcome State Fault Refusal :=
  match s.fabric.held.find? (fun h => packetKey h.packet == (smod, sten, dten, seq) && h.packet.kind != 0x10) with
  | none => .next s
  | some h => match h.deadline with
    | none => .next s
    | some d =>
      if s.halfNs < d then .next s
      else
        let s1 : State := { s with fabric := { s.fabric with held := s.fabric.held.filter (fun x => x != h) } }
        .next (s1.refuse h.packet 4).performMarkers

/-! ## Answers at the source -/

/-- The sent packet that an answer names. -/
def Unacked.is (u : Unacked) (p : Packet) (seq : Word) : Bool :=
  u.packet.dmod == p.smod && u.packet.sten == p.dten && u.packet.dten == p.sten && u.packet.seq == seq

def State.unacked? (s : State) (p : Packet) (seq : Word) : Option Unacked := s.fabric.unacked.find? (fun u => u.is p seq)

def State.dropUnacked (s : State) (u : Unacked) : State :=
  { s with fabric := { s.fabric with unacked := s.fabric.unacked.filter (fun x => !(x.packet.dmod == u.packet.dmod
    && x.packet.sten == u.packet.sten && x.packet.dten == u.packet.dten && x.packet.seq == u.packet.seq)) } }

/-- A request whose response is still owed after its acknowledgement. -/
def Unacked.responds (u : Unacked) : Bool :=
  u.packet.kind == 0x03 || (u.packet.kind == 0x05 && atomicReturns u.packet)

/-- Threads whose block is resident, with the loads that await a request. -/
def State.modOwner (s : State) (o : Owner) (f : Thread → Thread) : State :=
  match s.ownerBlock o with
  | some b => s.modThread (b.idOf o.tid.tid) f
  | none => s.modImage o (fun i => { i with threads := modifyAt f i.threads o.tid.tid })

/-- The work on a tenant's queue in another module goes on: on its notifications now, on its commands at the next poll. -/
def State.queueGoes (s : State) (t : Nat) (commands : Bool) : State := if commands then s else s.postNotices t

/-! ## Loads whose answer comes (R190, R207) -/

/-- The request that a load awaits, and where in its answer the load's value lies. -/
def LoadRec.asks (l : LoadRec) : Option (Nat × Nat × Option (AtomOp × Ty × Nat)) :=
  match l.await with
  | some (.answer req off before) => some (req, off, before)
  | _ => none

def LoadRec.awaits (l : LoadRec) (req : Nat) : Bool := l.asks.any (fun x => x.1 == req)

/-- Every thread of the part, resident or saved. -/
def State.modThreads (s : State) (f : Thread → Thread) : State :=
  { s with
    blocks := s.blocks.map (fun b => { b with threads := b.threads.map f })
    images := s.images.map (fun i => { i with threads := i.threads.map f }) }

/-- The loads of a shed that await one request take their values. -/
def State.answerLoad (s : State) (req : Nat) (f : LoadRec → Nat → Option (AtomOp × Ty × Nat) → UVal) : State :=
  s.modThreads (fun th => { th with loads := th.loads.map (fun l => match l.asks with
    | some (r, off, before) => if r = req then { l with val := f l off before, await := none } else l
    | none => l) })

/-- The old value that a lane takes from a combined atomic: the one before it, with the operands of the lanes below it (R238). -/
def shareOf (x : Nat) : Option (AtomOp × Ty × Nat) → Nat
  | none => x
  | some (op, ty, y) => atomApply op ty x y

/-- What an effect that awaits a request has as its result. -/
def answerFor (req x : Nat) : Await → Option DWord
  | .answer r _ before => if r = req then some (BitVec.ofNat 64 (shareOf x before)) else none
  | _ => none

/-- The answer of an atomic, with its old value: loads and effects take it. -/
def State.answerAtomic (s : State) (req x : Nat) : State :=
  (s.answerLoad req (fun l _ before => ⟨BitVec.ofNat 64 (loadValue l.ty (shareOf x before)), false⟩)).settle (answerFor req x) none

/-- Threads with a load that awaits a request, and where in its answer: those that a failure makes trap, since they are not demoted
(R168). -/
def State.waiters (s : State) (req : Nat) : List (Owner × Nat) :=
  let of (b : Block) : List (Owner × Nat) := b.threads.flatMap (fun th =>
    (th.loads.filter (fun l => l.awaits req && !l.dem)).map (fun l => (b.ownerOf th.tid, (l.asks.map (·.2.1)).getD 0)))
  s.blocks.flatMap of ++ s.images.flatMap (fun i => of (i.asBlock 0 0))

/-- The request of loads has failed: a demoted thread's returns zero (R168), the others take the remote-access trap. -/
def State.failLoads (s : State) (req a status : Nat) : State :=
  let s1 := (s.modThreads (fun th => { th with loads := th.loads.filter (fun l => !l.awaits req || l.dem) })).answerLoad req
    (fun _ _ _ => ⟨0, false⟩)
  runAll (fun (s : State) x => s.failOwner x.1 (remoteTrap status (a + x.2))) (s.waiters req)
    (s1.settle (answerFor req 0) (some ⟨0x11, a, status⟩))

/-- A packet of an origin has ended well. -/
def State.packetDone (s : State) (u : Unacked) : State :=
  match u.origin with
  | .load _ req => s.answerAtomic req 0
  | .queueWrite t commands => (s.modQueue t commands (fun w => { w with owed := false })).queueGoes t commands
  | .command id => s.modCmd id (fun k => { k with waiting := k.waiting - 1 })
  | .copy o seq => match s.ownerBlock o with
    | some b => s.modCopy b.core b.ent seq (fun k => { k with owed := k.owed - 1 })
    | none => s
  | .chainWrite n => s.modChain n (fun h => { h with owed := h.owed - 1 })
  | _ => s

/-- The chain of a step has failed at this member. -/
def State.chainFails (s : State) (id status : Nat) : State :=
  match s.chain? id with
  | none => s
  | some h => match s.comm? h.comm with
    | some c => if h.phase == .ended || h.phase == .reading || h.phase == .read then s else s.stepFails h c status
    | none => s

/-- A packet of an origin has failed with a status (R207, R418, R65); a demoted thread's load returns zero (R168). -/
def State.packetFailed (s : State) (u : Unacked) (status : Nat) : State :=
  let a := u.packet.addr.toNat
  match u.origin with
  | .command id => s.modCmd id (fun k =>
      { k with waiting := k.waiting - 1, fail := if k.fail.isSome then k.fail else some ⟨0x11, a, status⟩ })
  | .store os => runAll (fun (s : State) o => s.failOwner o (remoteTrap status a)) os s
  | .load _ req => s.failLoads req a status
  | .copy o seq => match s.ownerBlock o with
    | some b => match b.copies.find? (fun k => k.seq == seq) with
      | some k => s.failCopy b k ⟨0x11, a, status⟩
      | none => s
    | none => s
  | .step n => s.chainFails n status
  | .record o => s.modOwner o (fun th => { th with remote := lineFailed (a / 128) status th.remote })
  | .chainLine n => s.modChain n (fun h => { h with remote := lineFailed (a / 128) status h.remote })
  | .chainWrite n => (s.modChain n (fun h => { h with owed := h.owed - 1 })).chainFails n status
  | .queueLine t commands => (s.modQueue t commands (fun w => { w with lines := lineFailed (a / 128) status w.lines })).queueGoes t commands
  | .queueWrite t commands => (s.modQueue t commands (fun w => { w with owed := false })).queueGoes t commands
  | .marker _ => s
  | .response => s

/-- The destination holds a packet: it is not sent again while the hold of at most 1 s may last (R43; assumption 84). -/
def State.heldThere (s : State) (p : Packet) : State :=
  { s with fabric := { s.fabric with unacked := s.fabric.unacked.map (fun x =>
      if x.is p p.seq then { x with held := true, sends := 1, deadline := s.halfNs + second + resendAfter } else x) } }

/-- A delivery acknowledgement: the packet is done, unless its response is owed. -/
def State.acknowledged (s : State) (p : Packet) : State :=
  match s.unacked? p p.seq with
    | none => s
    | some u =>
      if u.acked then s
      else if field p.opnd.toNat 0 8 = 0 then s.heldThere p
      else if u.responds then
        { s with fabric := { s.fabric with unacked := s.fabric.unacked.map (fun x => if x.is p p.seq then { x with acked := true } else x) } }
      else (s.dropUnacked u).packetDone u

/-- A step whose partner refuses its ready packet fails with the refusal's status: class 1 packets are named by their
communicator and tag (assumption 24). -/
def State.readyRefused (s : State) (p : Packet) (status : Nat) : State :=
  match s.coll.chains.find? (fun h => h.phase == .posted && h.comm == field p.addr.toNat 0 8 && h.tag.toNat == field p.addr.toNat 8 16
      && h.tenant == p.dten.toNat && h.paired == bitOf p.opnd.toNat 16) with
  | some h => s.chainFails h.id status
  | none => s

/-- A delivery refusal: the command, access or step fails with its status. -/
def State.refused (s : State) (p : Packet) : State :=
  let status := field p.opnd.toNat 0 8
  match s.unacked? p p.seq with
  | some u => if u.packet.addr = p.addr then (s.dropUnacked u).packetFailed u status else s.readyRefused p status
  | none => s.readyRefused p status

/-- Bytes that answer a read, for their origin. -/
def State.answerRead (s : State) (u : Unacked) (p : Packet) : State :=
  match u.origin with
  | .load _ req => s.answerLoad req (fun l off _ =>
      let n := tySize l.ty
      ⟨BitVec.ofNat 64 (loadValue l.ty (ofBytes ((p.payload.drop off).take n))), (granules off n).any p.marks.contains⟩)
  | .queueLine t commands =>
    (s.modQueue t commands (fun w => { w with lines := lineCame (u.packet.addr.toNat / 128) p.payload p.marks w.lines })).queueGoes t commands
  | .copy o seq => match s.ownerBlock o with
    | some b => s.modCopy b.core b.ent seq (fun k =>
        { k with remote := lineCame (u.packet.addr.toNat / 128) p.payload p.marks k.remote })
    | none => s
  | .record o => s.modOwner o (fun th => { th with remote := lineCame (u.packet.addr.toNat / 128) p.payload p.marks th.remote })
  | .chainLine n => s.modChain n (fun h => { h with remote := lineCame (u.packet.addr.toNat / 128) p.payload p.marks h.remote })
  | .command id => match s.cmd? id with
    | some k =>
      if k.form = 2 then s.modCmd id (fun k =>
        { k with waiting := k.waiting - 1, arrived := k.arrived ++ [⟨u.packet.addr.toNat - k.daddr, p.payload, p.marks⟩] })
      else s.modCmd id (fun k =>
        { k with remote := lineCame (u.packet.addr.toNat / 128) p.payload p.marks k.remote })
    | none => s
  | _ => s

/-- A response of class 2: acknowledged, and taken once by its request. -/
def State.response (s : State) (p : Packet) (take : State → Unacked → State) : State :=
  if s.fabric.seen.contains (packetKey p) then s.answer 0x40 p 1
  else
    let s1 := s.acknowledge p
    match s1.unacked? p (BitVec.ofNat 32 p.opnd2.toNat) with
    | some u => if u.responds then take (s1.dropUnacked u) u else s1
    | none => s1

def execReadResponsePacket (port : Nat) (p : Packet) (s : State) : Host.Outcome State Fault Refusal :=
  s.arrive port p 0x04 2 (fun s => s.response p (fun s u => s.answerRead u p))
def execAtomicResponsePacket (port : Nat) (p : Packet) (s : State) : Host.Outcome State Fault Refusal :=
  s.arrive port p 0x06 2 (fun s => s.response p (fun s u => match u.origin with
    | .load _ req => s.answerAtomic req p.opnd.toNat
    | _ => s))

/-- A marker to a module, of a tenant pair and with a SEQ. -/
def Marker.is (m : Marker) (dmod : BitVec 11) (sten dten : BitVec 4) (seq : Word) : Bool :=
  m.dmod == dmod && m.sten == sten && m.dten == dten && m.seq == seq

/-- A marker acknowledgement (R50). -/
def execMarkerAckPacket (port : Nat) (p : Packet) (s : State) : Host.Outcome State Fault Refusal :=
  s.arrive port p 0x11 1 (fun s =>
    let s1 := match s.unacked? p p.seq with
      | some u => if u.packet.kind = 0x10 then s.dropUnacked u else s
      | none => s
    { s1 with fabric := { s1.fabric with markers := s1.fabric.markers.filter (fun m => !m.is p.smod p.dten p.sten p.seq) } })

/-! ## Resends (R44) -/

/-- A path other than the last, where the destination has more than one route; a marker keeps to its path (R50). -/
def State.otherPath (s : State) (p : Packet) : BitVec 4 :=
  if p.kind != 0x10 && decide (1 < (s.routesTo p.sten.toNat p.dmod).length) then s.pathFor p.sten.toNat (p.path.toNat + 1)
  else p.path

/-- Every communicator with a member on a module fails (R60). -/
def State.failMember (s : State) (dmod : BitVec 11) : State :=
  runAll (fun (s : State) c => if c.ranks.any (fun m => m.1 == dmod.toNat) then s.failComm c.id true else s) s.coll.comms s

/-- A flush marker is lost: what waits for its core's markers fails with status 0x02: threads with the remote-access trap,
releasing commands and BARRIER steps (assumption 85). -/
def State.markerLost (s : State) (core : Nat) (u : Unacked) : State :=
  let p := u.packet
  let waits (th : Thread) : Bool := th.wait == some (.release true)
  let s1 : State := { s with fabric := { s.fabric with
    markers := s.fabric.markers.filter (fun m => !m.is p.dmod p.sten p.dten p.seq)
    cmds := s.fabric.cmds.map (fun k =>
      if k.core == core && k.awaitMarkers && !k.started && k.fail.isNone then { k with fail := some ⟨0x11, k.daddr, 2⟩ } else k) } }
  let s2 := runAll (fun (s : State) b => runAll (fun (s : State) th =>
    if waits th then s.trapLater (b.idOf th.tid) (remoteTrap 2 0) else s) b.threads s) (s1.blocksOn core) s1
  runAll (fun (s : State) h => if h.core == core && h.kind == 7 && h.phase == .posted && h.released then s.chainFails h.id 2 else s)
    s2.coll.chains s2

/-- PACKET_RESEND_TIMEOUT: 50 µs without acknowledgement: the packet is sent again, or after 8 sends its destination is
unreachable: what it belongs to fails, and every communicator with a member there (R60). -/
def execPacketResendTimeout (dmod : BitVec 11) (sten dten : BitVec 4) (seq : Word) (s : State) : Host.Outcome State Fault Refusal :=
  match s.fabric.unacked.find? (fun u => u.packet.dmod == dmod && u.packet.sten == sten && u.packet.dten == dten && u.packet.seq == seq) with
  | none => .next s
  | some u =>
    if u.acked || decide (s.halfNs < u.deadline) then .next s
    else if u.sends < 8 then
      let path := s.otherPath u.packet
      let q := { u.packet with path := path, port := s.portOf sten.toNat dmod path }
      let u' : Unacked := { u with packet := q, sends := u.sends + 1, deadline := s.halfNs + resendAfter }
      let f := s.fabric
      let f1 := { f with unacked := f.unacked.map (fun x => if x == u then u' else x), out := f.out ++ [q] }
      .next { s with fabric := match u.origin with
        | .store _ => f1.usePath (some u.core) q
        | .load _ _ => f1.usePath (some u.core) q
        | .copy _ _ => f1.usePath (some u.core) q
        | .command _ => f1.usePath (some u.core) q
        | .record _ => f1.usePath (some u.core) q
        | _ => f1 }
    else
      let s1 := (s.dropUnacked u).failMember dmod
      .next (match u.origin with
        | .marker core => s1.markerLost core u
        | _ => s1.packetFailed u 2)

/-! ## Step and barrier traffic (R60, R65, R71 to R73) -/

/-- The communicator that a packet names, when the destination tenant holds it. -/
def State.commFor (s : State) (p : Packet) : Option Comm :=
  match s.comm? (field p.addr.toNat 0 8) with
  | some c => if c.tenant = p.dten.toNat then some c else none
  | none => none

/-- The rank of a packet's source in a communicator. -/
def Comm.rankOf (c : Comm) (p : Packet) : Option Nat :=
  findAt (fun _ (x : Nat × Nat) => x.1 == p.smod.toNat && x.2 == p.sten.toNat) 0 c.ranks

/-- A step of this member listens to a rank: it is posted and has not ended. -/
def State.listens (s : State) (comm : Nat) (tag : BitVec 16) (paired : Bool) (rank : Nat) : Bool :=
  s.coll.chains.any (fun h => h.hears comm tag paired rank && h.kind != 7
    && (h.phase == .posted || h.phase == .matched || h.phase == .moving || h.phase == .writing || h.phase == .written))

/-- A ready packet: a step that a peer has posted (R65). -/
def State.hearReady (s : State) (c : Comm) (rank : Nat) (p : Packet) : State :=
  let tag := BitVec.ofNat 16 (p.addr.toNat / 256)
  let w := p.opnd2.toNat
  let r : Ready := ⟨c.id, tag, rank, field w 0 4, field w 4 4, field w 8 4, field w 12 2, field p.opnd.toNat 16 32⟩
  { s with coll := { s.coll with
    ready := s.coll.ready.filter (fun x => !x.is c.id tag (decide (r.kind ≤ 3)) rank) ++ [r] } }

/-- What a member tells of a step: its end, the failure of its communicator, a withdrawal. -/
def State.hearNote (s : State) (c : Comm) (rank : Nat) (p : Packet) : State :=
  let tag := BitVec.ofNat 16 (p.addr.toNat / 256)
  let sub := field p.opnd.toNat 8 8
  let paired := bitOf p.opnd.toNat 16
  let note (s : State) (status : Nat) : State :=
    if s.listens c.id tag paired rank then
      { s with coll := { s.coll with notes := s.coll.notes ++ [⟨c.id, tag, rank, paired, status⟩] } }
    else s
  if sub = 1 then note s (field p.opnd.toNat 0 8)
  else if sub = 2 then s.failComm c.id false
  else if s.coll.ready.any (fun x => x.is c.id tag paired rank) then
    { s with coll := { s.coll with ready := s.coll.ready.filter (fun x => !x.is c.id tag paired rank) } }
  else note s 2

/-- A packet about a step from a rank of a communicator that its tenant holds. -/
def State.fromMember (s : State) (p : Packet) (k : State → Comm → Nat → State) : State :=
  match s.commFor p with
  | some c => match c.rankOf p with
    | some r => k s c r
    | none => s
  | none => s

/-- An acknowledgement or refusal names a step, or else a packet. -/
def execDeliveryAckPacket (port : Nat) (p : Packet) (s : State) : Host.Outcome State Fault Refusal :=
  s.arrive port p 0x40 1 (fun s =>
    if field p.opnd.toNat 8 8 != 0 then s.fromMember p (fun s c r => s.hearNote c r p) else s.acknowledged p)
def execDeliveryRefusalPacket (port : Nat) (p : Packet) (s : State) : Host.Outcome State Fault Refusal :=
  s.arrive port p 0x41 1 (fun s =>
    if field p.opnd.toNat 8 8 != 0 then s.fromMember p (fun s c r => s.hearNote c r p) else s.refused p)

/-- A ready packet whose source no peer entry admits is refused: class 1 packets are named by communicator and tag
(assumption 24). -/
def execStepReadyPacket (port : Nat) (p : Packet) (s : State) : Host.Outcome State Fault Refusal :=
  s.arrive port p 0x20 1 (fun s =>
    if !s.peerAny p then s.refuse p (3 + 2 ^ 16 * b2n (decide (field p.opnd2.toNat 0 4 ≤ 3)))
    else s.fromMember p (fun s c r => s.hearReady c r p))

/-- Step data is kept for the step that awaits it. -/
def State.hearData (s : State) (c : Comm) (rank : Nat) (p : Packet) : State :=
  let w := p.opnd2.toNat
  let z := field w 56 8
  let tag := BitVec.ofNat 16 (p.addr.toNat / 256)
  let n := if z = 0 then 0 else p.payload.length / z
  let vals := (elemsOf z n p.payload).map (BitVec.ofNat 128)
  if s.listens c.id tag (bitOf w 55) rank then
    { s with coll := { s.coll with data := s.coll.data ++ [⟨c.id, tag, rank, bitOf w 55, field w 40 15, field w 0 40,
      (vals.zip (List.range n)).map (fun x => (x.1, p.marks.contains x.2))⟩] } }
  else s

def execStepDataPacket (port : Nat) (p : Packet) (s : State) : Host.Outcome State Fault Refusal :=
  s.arrive port p 0x21 2 (fun s =>
    if s.fabric.seen.contains (packetKey p) then s.answer 0x40 p 1
    else if !s.peerOk p false true then s.refuse p 3
    else (s.acknowledge p).fromMember p (fun s c r => s.hearData c r p))

/-- An arrival from a rank below in the tree. -/
def execBarrierArrivalPacket (port : Nat) (p : Packet) (s : State) : Host.Outcome State Fault Refusal :=
  s.arrive port p 0x30 0 (fun s =>
    match s.commFor p with
    | some c => match c.rankOf p with
      | some r =>
        if c.below.contains r && c.st != .failed then (s.modComm c.id (fun c => { c with arrived := addNat c.arrived r })).barrierGo c.id
        else s
      | none => s
    | none => s)

/-- A release from above. -/
def execBarrierReleasePacket (port : Nat) (p : Packet) (s : State) : Host.Outcome State Fault Refusal :=
  s.arrive port p 0x31 0 (fun s =>
    match s.commFor p with
    | some c => if c.joined && c.passedUp && c.rankOf p == some c.above then s.barrierRelease c else s
    | none => s)

end Sys2Proof.Machine
end

