-- ==== Sys2Proof/Machine/Images.lean ====
section
/-! DEFINITION. Saved contexts: thread records, context images as the pool holds them, and the snapshot buffers of the rollback area
(R125, R126, R203, R296, R297, R424, R461). -/

namespace Sys2Proof.Machine

/-! ## Thread records (R126) -/

def Flags.code (f : Flags) : Nat := b2n f.v + 2 * b2n f.c + 4 * b2n f.z + 8 * b2n f.n

/-- ST of a thread: one held at a `YIELD` of a `DET` grid is saved as ready (R174). -/
def Status.code : Status → Nat
  | .run => 0
  | .yield => 0
  | .exited => 1
  | .bar _ _ _ _ => 2
  | .waita _ _ _ _ => 3
  | .rendezvous _ _ => 4
  | .electBlk _ _ => 4
  | .fault _ _ => 5

/-- WOFF and WVAL; at a barrier, the map of R413. -/
def Status.awaited : Status → Nat × Nat
  | .bar w p via _ => (w.off, b2n p * 2 ^ 16 + b2n via * 2 ^ 17 + (if via then w.member * 2 ^ 18 else 0))
  | .waita w v _ _ => (w.off, v.toNat)
  | _ => (0, 0)

/-- Granules that a thread holds, in its lane or in the backing store (R126). -/
def Thread.held (th : Thread) : Nat := th.granules.length + th.spills.length

/-- The 32 bytes of a thread record. -/
def Thread.recordBytes (th : Thread) : List Byte :=
  toBytes 8 (th.pc.toNat + th.status.code * 2 ^ 54 + b2n th.dem * 2 ^ 58)
    ++ toBytes 8 (th.depth + th.fbase * 2 ^ 8 + th.held * 2 ^ 20
      + (th.ccs.c0.flags.code + th.ccs.c1.flags.code * 2 ^ 4 + th.ccs.c2.flags.code * 2 ^ 8 + th.ccs.c3.flags.code * 2 ^ 12) * 2 ^ 32
      + th.fpstat.toNat * 2 ^ 48)
    ++ toBytes 8 (th.rngctr.toNat + th.status.awaited.1 * 2 ^ 32)
    ++ toBytes 8 th.status.awaited.2

/-- A save finds a chain whose last instruction waits at a rendezvous: the chain is not split, but starts again after the restore
(R124, R164; assumption 88). -/
def Thread.leaveMeet (th : Thread) : Thread :=
  if th.chain.isSome && th.status.met.isSome then { th.abortChain with status := .run } else th

/-- A thread as a save leaves it: its lane, its chain and its pending results are gone, STALE is not saved (R124). -/
def Thread.saved (th : Thread) : Thread :=
  { th with
    status := match th.status with | .yield => .run | st => st
    stale := false
    passed := 0
    notBefore := 0
    yieldLeft := 0
    chain := none
    pend := []
    wait := none
    lastIssue := 0
    released := false }

/-! ## The header (R125) -/

/-- Peak granules held in any one lane of a block. -/
def Block.gran (b : Block) : Nat :=
  (List.range 512).foldl (fun m l => Nat.max m ((b.threads.filter (fun th => th.tid % 512 == l)).foldl (fun n th => n + th.granules.length) 0)) 0

/-- Words 0 to 2 of a header, with the peak of granules, and the counts of pending commands, requests and side-log entries. -/
def Block.header (b : Block) (gran cpy mx sl : Nat) (acc : Bool) : List Byte :=
  toBytes 8 (Config.lanes + b.rec_.slotCnt * 2 ^ 8 + 2 ^ 12 + b.rec_.scrLen * 2 ^ 16 + b.rec_.rank * 2 ^ 24 + b.rec_.gsize * 2 ^ 26
      + b.rec_.slotBase * 2 ^ 29 + (b.threads.foldl (fun m th => Nat.max m th.depth) 0) * 2 ^ 32 + gran * 2 ^ 40)
    ++ toBytes 8 (b.rec_.node + b.rec_.gen.toNat * 2 ^ 16 + b.rec_.block * 2 ^ 32)
    ++ toBytes 8 (sl + b2n acc * 2 ^ 9 + mx * 2 ^ 16 + cpy * 2 ^ 24 + (b.token.getD 0) * 2 ^ 32 + b2n b.token.isSome * 2 ^ 44)

/-! ## The bytes of an image (R125) -/

/-- A side-log entry (R203). -/
def SideEntry.bytes (e : SideEntry) : List Byte :=
  toBytes 8 (e.line * 128)
    ++ toBytes 8 (e.op + e.sub.toNat * 2 ^ 4 + e.ord.toNat * 2 ^ 12 + e.thread * 2 ^ 16 + e.slote * 2 ^ 28)
    ++ toBytes 16 e.mask.toNat ++ zeroBytes 32 ++ e.data

/-- A saved entry of a reservation table (R461). -/
def MxEntry.bytes (x : MxEntry) : List Byte :=
  (match x.req with
    | .op w rcd => w.flatMap (fun d => toBytes 8 d.toNat)
        ++ (match rcd with | some r => [r.w0, r.w1, r.w2, r.w3].flatMap (fun d => toBytes 8 d.toNat) | none => zeroBytes 32)
        ++ toBytes 8 (x.nextPass * 2 ^ 8 + b2n x.aged * 2 ^ 32)
    | .acc o f qs => qs.flatMap (fun q => toBytes 4 q.toNat) ++ [BitVec.ofNat 8 (o + f * 4)] ++ zeroBytes 79
        ++ toBytes 8 (1 + x.nextPass * 2 ^ 8 + b2n x.aged * 2 ^ 32))
    ++ zeroBytes 88

/-- The logical banks of an image, ascending, each once: a wide one takes two physical banks. -/
def Image.logicals (i : Image) : List Bank :=
  (List.range 4).filterMap (fun l => i.banks.find? (fun b => b.logical == l))

/-- The word at 0x3800: sticky flags, banks saved, and which of them are wide. -/
def Image.bankWord (i : Image) : Nat :=
  i.sticky.toNat % 16 + (i.logicals.map (fun b => 2 ^ (8 + b.logical) + b2n b.wide * 2 ^ (12 + b.logical))).sum

/-- The entries of banks that lie one after another from an offset on. -/
def bankParts : Nat → List Bank → List (Nat × List Byte)
  | _, [] => []
  | o, b :: bs =>
    let z := if b.wide then 8 else 4
    b.cells.map (fun e => (o + z * (256 * e.row + e.col), toBytes z e.val.toNat)) ++ bankParts (o + z * 131072) bs

/-- The parts of an image that need not be zero: offset and bytes. -/
def Image.parts (i : Image) : List (Nat × List Byte) :=
  let b := i.asBlock 0 0
  let at_ (o n : Nat) (xs : List (List Byte)) : List (Nat × List Byte) := (List.range xs.length).zipWith (fun k x => (o + n * k, x)) xs
  [(0, b.header i.gran i.copies.length i.posts.length i.sideLog.length (!i.banks.isEmpty))]
    ++ i.unif.map (fun x => (0x1000 + 8 * x.1, toBytes 8 x.2.nat))
    ++ at_ 0x1800 32 (i.copies.map (fun k => (k.words b.alloc).flatMap (fun w => toBytes 8 w.toNat)))
    ++ at_ 0x2000 192 (i.posts.map MxEntry.bytes)
    ++ (if i.rec_.rank == 0 then [(0x3800, toBytes 8 i.bankWord)] else [])
    ++ at_ 0x4000 192 (i.sideLog.map SideEntry.bytes)
    ++ i.threads.map (fun th => (0x10000 + 32 * th.tid, th.recordBytes))
    ++ [(0x30000, i.scratch)]
    ++ bankParts (0x30000 + i.rec_.scrLen * 4096) i.logicals

/-- Where an image lies: the pool follows the launch store in the reserved region (R105; assumption 61). -/
def State.imageAt (s : State) (i : Image) : Nat := s.reservedAt + Config.launchStoreBytes + i.addr * 65536

/-- An image is written to the pool (R124 step 8). -/
def State.writeImage (s : State) (i : Image) : State :=
  let m0 := s.mem.zero (s.imageAt i) (i.len * 65536)
  { s with mem := runAll (fun (m : ByteMem) (x : Nat × List Byte) => m.write (s.imageAt i + x.1) x.2) i.parts m0 }

/-! ## Snapshots (R296, R297) -/

/-- The registers of a granule of the backing store that are not free. -/
def spilledRegs (g : Nat) (mask : BitVec 8) (bs : List Byte) (p : Bool) : List (Nat × RegVal) :=
  ((List.range 8).filter (fun i => mask.getLsbD i)).map (fun i =>
    (8 * g + i, ⟨BitVec.ofNat 32 (ofBytes ((bs.drop (4 * i)).take 4)), p⟩))

/-- Every register of a thread that is not free, spilled ones too. -/
def State.allRegs (s : State) (b : Block) (th : Thread) : List Spill → State × Need × List (Nat × RegVal)
  | [] => (s, .ready, th.regs)
  | sp :: sps =>
    let va := s.regAddr b th.tid (8 * sp.g)
    match s.backing b va .load with
    | (s1, .ok e) =>
      let r := s1.loadMem (.thread_ b.tenant (b.idOf th.tid) th.pc.toNat va) b.core e va 32 0 false
      let q := r.1.allRegs b th sps
      (q.1, q.2.1, runAll (fun xs (x : Nat × RegVal) => insertNat xs x.1 x.2) (spilledRegs sp.g sp.mask r.2.1 r.2.2) q.2.2)
    | (s1, .hold) => (s1, .hold va, [])
    | (s1, .fail k) => (s1.backingFail b va k, .killed, [])

/-- The threads of a snapshot, each with all its registers in place. -/
def State.snapThreads (s : State) (b : Block) : List Thread → State × Need × List Thread
  | [] => (s, .ready, [])
  | th :: ths => match s.allRegs b th th.spills with
    | (s1, .ready, rs) =>
      let q := s1.snapThreads b ths
      (q.1, q.2.1, { th.saved with regs := rs, spills := [], loads := [], trapNext := none, traps := [], effects := 0 } :: q.2.2)
    | (s1, n, _) => (s1, n, [])

/-- The parts of a buffer: offset and bytes. -/
def Snapshot.parts (sn : Snapshot) (b : Block) : List (Nat × List Byte) :=
  [(0, b.header b.gran 0 0 0 false ++ zeroBytes 4072),
   (0x1000, (List.range 256).flatMap (fun i => toBytes 8 (lookupNat (⟨0, false⟩ : UVal) sn.unif i).nat)),
   (0x1800, zeroBytes 0xE800)]
    ++ (List.range 4096).map (fun t => (0x10000 + 32 * t, match sn.threads[t]? with | some th => th.recordBytes | none => zeroBytes 32))
    ++ [(0x30000, sn.scratch)]
    ++ sn.threads.map (fun th => (0x30000 + b.rec_.scrLen * 4096 + 4 * (th.tid * b.rec_.frame),
        (List.range b.rec_.frame).flatMap (fun i => toBytes 4 (th.reg i).val.toNat)))

/-- Bytes written through the core's L1 to consecutive virtual addresses, line by line. -/
def State.backWrite (s : State) (b : Block) (va : Nat) : Nat → List Byte → State × Need
  | 0, _ => (s, .ready)
  | fuel + 1, bs =>
    if bs.isEmpty then (s, .ready)
    else
      let n := 128 - va % 128
      match s.backing b va .store with
      | (s1, .ok e) => (s1.storeMem b.core e va 0 false (bs.take n) false []).backWrite b (va + n) fuel (bs.drop n)
      | (s1, .hold) => (s1, .hold va)
      | (s1, .fail k) => (s1.backingFail b va k, .killed)

def State.backWriteAll (s : State) (b : Block) (va : Nat) : List (Nat × List Byte) → State × Need
  | [] => (s, .ready)
  | (o, bs) :: xs => match s.backWrite b (va + o) (bs.length + 1) bs with
    | (s1, .ready) => s1.backWriteAll b va xs
    | r => r

/-- The address of a snapshot buffer: A, or B. -/
def State.bufferAt (s : State) (b : Block) (bufB : Bool) : Nat := s.rbAddr b (0x9000 + (if bufB then b.snapSize else 0))

/-- The bytes of a block's scratchpad and its poisoned granules, relative to the allocation. -/
def State.scrImage (s : State) (b : Block) : List Byte × List Nat :=
  (s.scratch.read (b.scrAddr 0) b.alloc,
   ((granules (b.scrAddr 0) b.alloc).filter s.scratch.poisoned).map (fun g => g - b.scrAddr 0 / 32))

/-- A scratchpad allocation takes saved bytes and poison. -/
def State.scrRestore (s : State) (b : Block) (bs : List Byte) (poison : List Nat) : State :=
  let m := (s.scratch.zero (b.scrAddr 0) b.alloc).write (b.scrAddr 0) (bs.take b.alloc)
  { s with scratch := runAll (fun (m : ByteMem) g => m.setPoison (b.scrAddr 0 / 32 + g)) poison m }

end Sys2Proof.Machine
end

