-- ==== Sys2Proof/Machine/Scheduler.lean ====
section
/-! DEFINITION. Fevar's bind work, starts, pre-emption, restore, and the end of a block (R111, R114, R116 to R131, R188). -/

namespace Sys2Proof.Machine

/-! ## Room on a core (R117) -/

/-- Scratchpad granules that blocks may hold. -/
def scrGranules : Nat := 112

/-- A thread-slot index is taken until the last thread of its block exits. -/
def Block.takesSlot (b : Block) (i : Nat) : Bool :=
  decide (b.rec_.slotBase ≤ i) && decide (i < b.rec_.slotBase + b.rec_.slotCnt) && b.threads.any (fun th => !th.exited)
def Block.takesGranule (b : Block) (g : Nat) : Bool := decide (b.rec_.scrBase ≤ g) && decide (g < b.rec_.scrBase + b.rec_.scrLen)

/-- The lowest start of `n` consecutive free indices below a limit. -/
def lowestRun (limit n : Nat) (taken : Nat → Bool) : Option Nat :=
  (List.range (limit + 1)).find? (fun k => decide (k + n ≤ limit) && (List.range n).all (fun i => !taken (k + i)))

/-- What a block is given on a core. -/
structure Room where
  ent : Nat
  slotBase : Nat
  scrBase : Nat
  deriving DecidableEq, Repr

/-- Room for a block among the blocks of a core; a restore asks for its own SLOTBASE. -/
def roomAmong (bs : List Block) (slotCnt scrLen : Nat) (slotBase : Option Nat) : Option Room :=
  let slots := match slotBase with
    | none => lowestRun 8 slotCnt (fun i => bs.any (fun b => b.takesSlot i))
    | some k => if (List.range slotCnt).all (fun i => !bs.any (fun b => b.takesSlot (k + i))) then some k else none
  match (List.range Config.slotEntries).find? (fun e => !bs.any (fun b => b.ent == e)), slots,
      lowestRun scrGranules scrLen (fun g => bs.any (fun b => b.takesGranule g)) with
  | some e, some k, some g => some ⟨e, k, g⟩
  | _, _, _ => none

/-- SLOTCNT and SCRLEN of a launch. -/
def Launched.slotCnt (l : Launched) : Nat := ceilDiv (ceilDiv l.threads Config.lanes) 16
def Launched.scrLen (l : Launched) : Nat := ceilDiv l.scratch 4096
def Launched.blocks (l : Launched) : Nat := l.gridx * l.gridy * l.gridz
def Launched.flag (l : Launched) (i : Nat) : Bool := l.flags.getLsbD i

/-- A quad takes new work. -/
def State.quadOpen (s : State) (q : Nat) : Bool := s.quadOk q && !s.boot.remapping.contains q

/-- A free register-granule count in every lane of a core (R127). -/
def State.lanesFree (s : State) (core n : Nat) : Bool :=
  (List.range 512).all (fun l => decide (s.laneGranules ⟨core, 16, l⟩ + n ≤ 64))

/-! ## Bind work (R120) -/

/-- A member of a gang to be bound: its block, rank, part of a pair, and for a restore its image. -/
structure Member where
  block : Nat
  rank : Nat
  role : VerifyRole
  image : Option Image
  deriving DecidableEq, Repr

/-- A piece of bind work. -/
structure Work where
  node : Nat
  /-- linear index of the gang's first block -/
  first : Nat
  members : List Member
  restore : Bool
  deriving DecidableEq, Repr

/-- Block `b` of a node is verified (R306). -/
def Node.verified (x : Node) (b : Nat) : Bool :=
  (match x.launch with | some l => l.flag 3 | none => false) && b % 8 == x.cseq.toNat % 8

/-- The members of a gang at its first start, in rank order; a verified block has two. -/
def Node.members (x : Node) (first gang : Nat) : List Member :=
  (List.range gang).flatMap (fun r =>
    if x.verified (first + r) then [⟨first + r, r, .primary, none⟩, ⟨first + r, r, .secondary, none⟩]
    else [⟨first + r, r, .single, none⟩])

/-- Admission of a tenant's work (R120, R133). -/
def State.admits (s : State) (x : Node) : Bool := (s.tenant x.tenant).enable && !(s.tenant x.tenant).paced && !x.paced

/-- Saved gangs of a node, each with its images. -/
def State.savedGangs (s : State) (x : Node) : List Work :=
  let mine := s.images.filter (fun i => i.rec_.node == x.num && i.rec_.gen == x.gen)
  let firsts := runAll addNat (mine.map (fun i => i.rec_.block - i.rec_.rank)) []
  firsts.map (fun f => ⟨x.num, f, (mine.filter (fun i => i.rec_.block - i.rec_.rank == f)).map (fun i =>
    ⟨i.rec_.block, i.rec_.rank, i.verify, some i⟩), true⟩)

/-- Gangs of a node that have not been bound yet, in ascending index: in a `DET` grid the first for each place. -/
def Node.starts (x : Node) : List Work :=
  match x.launch with
  | none => []
  | some l =>
    let gang := if l.gang = 0 then 1 else l.gang
    let n := if l.flag 0 then x.places.length else 1
    ((List.range (n + x.ahead.length)).map (fun k => x.nextblk + k * gang)).filterMap (fun f =>
      if decide (f < l.blocks) && !x.ahead.contains f then some ⟨x.num, f, x.members f gang, false⟩ else none)

/-- The bind work of a node. Under OUTCOME 4 its other saved gangs are restored still: R114 discards under 2, 3 and 5 only. -/
def State.nodeWork (s : State) (x : Node) : List Work :=
  if x.event || !s.admits x then []
  else
    let saved := s.savedGangs x
    if (x.st == .running || x.st == .ending) && (x.outcome == 0 || x.outcome == 4) && !saved.isEmpty then saved
    else if (x.st == .ready || x.st == .running) && !x.failin && saved.isEmpty then x.starts
    else []

/-- Order of the work: priority, restores, CSEQ, block index. -/
def State.before (s : State) (a b : Work) : Bool :=
  let x := s.node a.node
  let y := s.node b.node
  let pa : Nat := (x.launch.map (·.prio)).getD 0
  let pb : Nat := (y.launch.map (·.prio)).getD 0
  decide (pb < pa) || (pa == pb && ((a.restore && !b.restore) || (a.restore == b.restore
    && (decide (x.cseq < y.cseq) || (x.cseq == y.cseq && decide (a.first < b.first))))))

def State.allWork (s : State) : List Work := sortBy s.before (s.nodes.flatMap s.nodeWork)

/-! ## Placement (R120 to R122, R127) -/

/-- The room that a member finds on a core, among given blocks. -/
def State.roomFor (s : State) (l : Launched) (bs : List Block) (core : Nat) (m : Member) : Option Room :=
  let here := bs.filter (fun b => b.core == core)
  match m.image with
  | none => roomAmong here l.slotCnt l.scrLen none
  | some i =>
    if i.format = 1 && i.lanes == Config.lanes && !s.lanesFree core i.gran then none
    else roomAmong here i.rec_.slotCnt i.rec_.scrLen (some i.rec_.slotBase)

/-- Free physical banks for the saved ones (R127). -/
def State.banksFit (s : State) (q : Nat) (ms : List Member) : Bool :=
  let need := ms.foldl (fun n m => n + (match m.image with | some i => i.banks.foldl (fun k b => k + 1 + b2n b.wide) 0 | none => 0)) 0
  decide (need ≤ ((s.engine q).banks.filter (fun b => b.gang.isNone)).length)

/-- Every member of one copy of a gang fits on a quad's cores of its ranks, or on one core. -/
def State.fits (s : State) (l : Launched) (bs : List Block) (coreOf : Member → Nat) (ms : List Member) : Bool :=
  ms.all (fun m => s.quadOpen (quadOf (coreOf m)) && (s.roomFor l bs (coreOf m) m).isSome)

/-- Cores that a place gives: for gangs of one block a core, else a quad with core `rank`. -/
def coreAt (gang place : Nat) (m : Member) : Nat := if gang = 1 then place else 4 * place + m.rank

/-- The quad of a place. -/
def placeQuad (gang place : Nat) : Nat := if gang = 1 then quadOf place else place

/-- Resident blocks at a place. -/
def placeLoad (gang : Nat) (bs : List Block) (place : Nat) : Nat :=
  (bs.filter (fun b => if gang = 1 then b.core == place else quadOf b.core == place)).length

/-- The list from an element on, then from its start. -/
def rotateFrom (k : Nat) (xs : List Nat) : List Nat := xs.drop k ++ xs.take k

/-- The places of a piece of work in order of preference: a `DET` grid's fixed place (its saver's, or the next in service), else
every place, fewest resident blocks first. -/
def State.placesOf (s : State) (x : Node) (l : Launched) (bs : List Block) (w : Work) : List Nat :=
  let gang := if l.gang = 0 then 1 else l.gang
  if l.flag 0 then
    let n := x.places.length
    let own := match (w.members.head?.bind (·.image)).map (fun i => if gang = 1 then i.core else quadOf i.core) with
      | some c => (findIdx c 0 x.places).getD 0
      | none => if n = 0 then 0 else w.first / gang % n
    ((rotateFrom own x.places).find? (fun p => s.quadOk (placeQuad gang p))).toList
  else
    sortBy (fun a b => decide (placeLoad gang bs a < placeLoad gang bs b)) (List.range (if gang = 1 then Config.cores else Config.quads))
where
  findIdx (c k : Nat) : List Nat → Option Nat
    | [] => none
    | y :: ys => if y = c then some k else findIdx c (k + 1) ys

/-- The place to which a gang returns that a remap of its quad saved: its own, while that is in service (R130, R131). -/
def State.homeOr (s : State) (gang : Nat) (ms : List Member) (ps : List Nat) : List Nat :=
  match ms.head?.bind (·.image) with
  | some i =>
    let p := if gang = 1 then i.core else quadOf i.core
    if i.remap && s.quadOk (quadOf i.core) then [p] else ps
  | none => ps

/-- The place of each member: the gang's place, and for the secondary copy of a verified block a place in another quad (the
next of the list that fits; R122). None when the work fits nowhere. -/
def State.placeWork (s : State) (bs : List Block) (w : Work) : Option (List (Member × Nat)) :=
  let x := s.node w.node
  match x.launch with
  | none => none
  | some l =>
    let gang := if l.gang = 0 then 1 else l.gang
    let main := w.members.filter (fun m => m.role != .secondary)
    let second := w.members.filter (fun m => m.role == .secondary)
    let ps := s.homeOr gang main (s.placesOf x l bs w)
    let all := s.homeOr gang second (if l.flag 0 then rotateFrom 1 x.places else ps)
    ps.findSome? (fun p =>
      if s.fits l bs (coreAt gang p) main && s.banksFit (placeQuad gang p) main then
        if second.isEmpty then some (main.map (fun m => (m, coreAt gang p m)))
        else match all.find? (fun q => placeQuad gang q != placeQuad gang p && s.fits l bs (coreAt gang q) second) with
          | some q => some (main.map (fun m => (m, coreAt gang p m)) ++ second.map (fun m => (m, coreAt gang q m)))
          | none => none
      else none)

/-- In a `DET` grid a gang waits for every lower-indexed gang of its place (R121); a gang of fresh blocks waits for residence
indices (R117). -/
def State.mayBind (s : State) (w : Work) : Bool :=
  let x := s.node w.node
  match x.launch with
  | none => false
  | some l =>
    let gang := if l.gang = 0 then 1 else l.gang
    let n := x.places.length
    let free := Config.residences - ((s.blocks.filter (fun b => b.rec_.node == x.num && b.rec_.gen == x.gen && b.verify != .secondary)).length
      + (s.images.filter (fun i => i.rec_.node == x.num && i.rec_.gen == x.gen && i.verify != .secondary)).length)
    if w.restore then w.members.all (fun m => match m.image with | some i => i.saved | none => false)
    else decide (gang ≤ free) && (!l.flag 0 || (x.starts.all (fun v => decide (w.first ≤ v.first) || v.first / gang % n != w.first / gang % n)))

/-! ## Priority pre-emption (R123) -/

/-- Gangs of a quad that may make room, lowest priority first, the most recently bound first. -/
def State.victims (s : State) (q prio : Nat) : List (Nat × BitVec 16 × Nat) :=
  let bs := sortBy (fun (a b : Block) => decide (a.rec_.prio < b.rec_.prio) || (a.rec_.prio == b.rec_.prio && decide (b.order < a.order)))
    (s.blocks.filter (fun b => quadOf b.core == q && decide (b.rec_.prio < prio)))
  (bs.map Block.gang).foldl (fun xs g => if xs.contains g then xs else xs ++ [g]) []

/-- The part without some gangs: their entries, register granules, requests and banks are free. -/
def State.without (s : State) (gs : List (Nat × BitVec 16 × Nat)) : State :=
  { s with
    blocks := s.blocks.filter (fun b => !gs.contains b.gang)
    engines := s.engines.map (fun e => runAll (fun (e : Engine) g => e.drop g) gs e) }

/-- The shortest prefix of the victims whose going makes the work fit. -/
def State.makesRoom (s : State) (w : Work) (q : Nat) (gone : List (Nat × BitVec 16 × Nat)) :
    List (Nat × BitVec 16 × Nat) → Option (List (Nat × BitVec 16 × Nat))
  | [] => none
  | g :: gs =>
    let gone' := gone ++ [g]
    match (s.without gone').placeWork (s.without gone').blocks w with
    | some _ => some gone'
    | none => s.makesRoom w q gone' gs

/-! ## The image pool (R105, R123, R125) -/

/-- Units of 64 KiB: the pool, and the part kept for remapping at its end. -/
def poolUnits : Nat := Config.poolBytes / 65536
def poolRemapUnits : Nat := Config.poolRemapBytes / 65536

/-- Length of a block's image in units. -/
def imageUnits (scrLen : Nat) (banks : Bool) : Nat := ceilDiv (196608 + scrLen * 4096 + (if banks then 2097152 else 0)) 65536

/-- The lowest run of `n` units that given images, by place and length, leave free inside a part of the pool. -/
def poolRun (used : List (Nat × Nat)) (lo hi n : Nat) : Option Nat :=
  (0 :: used.map (fun i => i.1 + i.2)).foldl (fun best a =>
    let a' := if a < lo then lo else a
    let ok := decide (a' + n ≤ hi) && used.all (fun i => decide (i.1 + i.2 ≤ a') || decide (a' + n ≤ i.1))
    match best with
    | some b => if ok && decide (a' < b) then some a' else best
    | none => if ok then some a' else none) none

/-- Where an image goes among given images: a remap uses the part kept for it when the rest is full. -/
def poolPlace (used : List (Nat × Nat)) (remap : Bool) (n : Nat) : Option Nat :=
  match poolRun used 0 (poolUnits - poolRemapUnits) n with
  | some a => some a
  | none => if remap then poolRun used (poolUnits - poolRemapUnits) poolUnits n else none

/-- The places and lengths of the images in the pool. -/
def State.poolUsed (s : State) : List (Nat × Nat) := s.images.map (fun i => (i.addr, i.len))
def State.poolFor (s : State) (remap : Bool) (n : Nat) : Option Nat := poolPlace s.poolUsed remap n

/-- The gang holds accumulator banks or sticky flags on its quad's engine. -/
def State.gangBanks (s : State) (g : Nat × BitVec 16 × Nat) : List Bank :=
  s.engines.flatMap (fun e => sortBy (fun (a b : Bank) => decide (a.logical < b.logical)) (e.banks.filter (fun b => b.gang == some g)))

/-- The pool has room for the images of gangs, outside the part kept for remapping. -/
def State.poolTakes (s : State) (gs : List (Nat × BitVec 16 × Nat)) : Bool :=
  let needs := (s.blocks.filter (fun b => gs.contains b.gang)).map (fun b =>
    imageUnits b.rec_.scrLen (b.rec_.rank == 0 && b.verify != .secondary && !(s.gangBanks b.gang).isEmpty))
  (needs.foldl (fun (used : Option (List (Nat × Nat))) n =>
    used.bind (fun us => (poolPlace us false n).map (fun a => (a, n) :: us))) (some s.poolUsed)).isSome

/-- The gangs to pre-empt on a quad for a piece of work that fits nowhere. -/
def State.victimsFor (s : State) (w : Work) (q : Nat) : Option (List (Nat × BitVec 16 × Nat)) :=
  let prio := ((s.node w.node).launch.map (·.prio)).getD 0
  match s.makesRoom w q [] (s.victims q prio) with
  | some gs => if s.poolTakes gs then some gs else none
  | none => none

/-- Work that fits nowhere, but for which a pre-emption is made, is waited for. -/
def State.preempts (s : State) (w : Work) : Bool := (List.range Config.quads).any (fun q => s.quadOpen q && (s.victimsFor w q).isSome)

/-- What Fevar does next with its bind work: the first piece that fits, unless a piece before it waits for a pre-emption. -/
def State.nextBind (s : State) : List Work → Option (Work × List (Member × Nat))
  | [] => none
  | w :: ws =>
    if !s.mayBind w then s.nextBind ws
    else match s.placeWork s.blocks w with
      | some p => some (w, p)
      | none => if s.preempts w then none else s.nextBind ws

/-- The first piece of work that waits for a pre-emption. -/
def State.waitingWork (s : State) : List Work → Option Work
  | [] => none
  | w :: ws =>
    if !s.mayBind w then s.waitingWork ws
    else match s.placeWork s.blocks w with
      | some _ => s.waitingWork ws
      | none => if s.preempts w then some w else s.waitingWork ws

/-- Fevar binds: bring-up is complete, no live update pauses binding, no emergency stop (R27, R34, R35). -/
def State.binding (s : State) : Bool := decide (7 ≤ s.boot.step) && decide (s.boot.pausedUntil ≤ s.halfNs) && !s.power.stopped

/-! ## Binding (R117 to R119, R188) -/

/-- The tile under a quad is zeroed for a tenant that is not its last writer (R188). -/
def State.zeroTile (s : State) (q : Nat) : State :=
  ({ s with bstore := s.bstore.zero (q * Config.tileBytes) Config.tileBytes } : State).setTile q 0 ((s.tile q).2 + 1)
def State.claimTile (s : State) (q t : Nat) : State :=
  if (s.tile q).1 != 0 && (s.tile q).1 != t + 1 then s.zeroTile q else s

/-- A block of a `DET` grid takes its index position in the control list (R173). -/
def State.joinControl (s : State) (core ent block : Nat) : State :=
  s.modCore core (fun c =>
    let later (e : Nat) : Bool := match s.block? core e with | some b => decide (block < b.rec_.block) | none => false
    { c with control := c.control.takeWhile (fun e => !later e) ++ [ent] ++ c.control.dropWhile (fun e => !later e) })

/-- The lowest residence index that no bound or saved block of the grid holds (R117). -/
def State.freeResidence (s : State) (x : Node) : Nat :=
  let held := (s.blocks.filter (fun b => b.rec_.node == x.num && b.rec_.gen == x.gen)).map (·.res)
    ++ (s.images.filter (fun i => i.rec_.node == x.num && i.rec_.gen == x.gen)).map (·.res)
  ((List.range Config.residences).find? (fun r => !held.contains r)).getD 0

/-- The bind record of a fresh block. -/
def Launched.bindRec (l : Launched) (x : Node) (m : Member) (r : Room) : BindRec where
  gen := x.gen
  node := x.num
  prio := l.prio
  rank := m.rank
  gsize := if l.gang = 0 then 1 else l.gang
  tenant := x.tenant
  resume := false
  img := 0
  block := m.block
  entry := l.entry
  nunif := l.nunif
  threads := l.threads
  flags := l.flags
  contract := l.contract
  frame := l.frame
  slotCnt := l.slotCnt
  slotBase := r.slotBase
  scrLen := l.scrLen
  scrBase := r.scrBase
  seed := l.seed
  trapTab := l.trapTab
  backing := l.backing

/-- `SNAP` of a fresh block: the launch state is its snapshot (R296). -/
def SnapSt.start : SnapSt := ⟨false, none, none, [], false, 0, false, false⟩

/-- One member is bound afresh: its entry, its threads (not started), its zeroed scratchpad, the acquire (R111, R119); its scratchpad
takes room from L1 (R184). The two copies of a pair share a residence index. -/
def State.bindMember (s : State) (x : Node) (l : Launched) (m : Member) (core : Nat) : State :=
  match s.roomFor l s.blocks core m with
  | none => s
  | some r =>
    let res := match s.blocks.find? (fun b => b.rec_.node == x.num && b.rec_.gen == x.gen && b.rec_.block == m.block) with
      | some b => b.res
      | none => s.freeResidence x
    let b : Block := {
      core := core
      ent := r.ent
      rec_ := l.bindRec x m r
      res := res
      order := s.nextOrder
      unif := l.unif
      threads := (List.range l.threads).map (fun t => Thread.start t l.entry)
      token := some 0
      started := false
      killed := false
      copies := []
      cmdSeq := 0
      snap := if l.flag 2 then some SnapSt.start else none
      verify := m.role
      results := []
      origin := 0
      saving := false
      closing := false }
    let s1 : State := { s with blocks := s.blocks ++ [b], scratch := s.scratch.zero (b.scrAddr 0) b.alloc }
    let s2 := (s1.acquire core).evictBeyond core (s1.l1Lines core)
    if l.flag 0 then s2.joinControl core r.ent m.block else s2

/-- The node after one of its gangs has been bound: NEXTBLK passes over the gangs bound ahead. -/
def Node.advance (x : Node) (first gang : Nat) : Nat → Node
  | 0 => x
  | fuel + 1 =>
    if x.nextblk = first then
      let y := { x with nextblk := x.nextblk + gang }
      match y.ahead.find? (· == y.nextblk) with
      | some f => ({ y with ahead := dropNat y.ahead f } : Node).advance f gang fuel
      | none => y
    else { x with ahead := addNat x.ahead first }

/-- A gang is bound for its first start: LIVE grows, and a READY node is RUNNING. -/
def State.bindGang (s : State) (w : Work) (p : List (Member × Nat)) : State :=
  let x := s.node w.node
  match x.launch with
  | none => s
  | some l =>
    let gang := if l.gang = 0 then 1 else l.gang
    let quads := runAll addNat (p.map (fun y => quadOf y.2)) []
    let s1 := runAll (fun (s : State) q => s.claimTile q x.tenant) quads s
    let s2 := runAll (fun (s : State) (y : Member × Nat) => s.bindMember x l y.1 y.2) p s1
    { s2.modNode w.node (fun n => { n.advance w.first gang (n.ahead.length + 1) with live := n.live + gang, st := .running }) with
      nextOrder := s.nextOrder + 1 }

/-- GANG_BIND: Fevar serves the first bind work that fits, when it is a first start. -/
def execGangBind (s : State) : Host.Outcome State Fault Refusal :=
  if !s.binding then .next s
  else match s.nextBind s.allWork with
    | some (w, p) => .next (if w.restore then s else s.bindGang w p)
    | none => .next s

/-! ## Starting (R119) -/

/-- The gangs of a node with a member on a quad that wait for their start, all members bound. -/
def State.startable (s : State) (quad node : Nat) : List (Nat × BitVec 16 × Nat) :=
  let x := s.node node
  let gs := (s.blocks.filter (fun b => b.rec_.node == node && b.rec_.gen == x.gen && quadOf b.core == quad && !b.started && !b.killed)).map
    Block.gang
  gs.filter (fun g =>
    let bs := s.gangBlocks g
    bs.any (fun b => decide (bs.length == b.rec_.gsize + (bs.filter (fun c => c.verify == .secondary)).length)))

/-- GANG_START: all members of the gang start in the same cycle; with the last gang of the grid the node is ENDING (R110). -/
def State.startGangs (s : State) (quad node : Nat) : State :=
  let gs := s.startable quad node
  let s1 : State := { s with blocks := s.blocks.map (fun b => if gs.contains b.gang then { b with started := true } else b) }
  let x := s1.node node
  match x.launch with
  | some l =>
    if !gs.isEmpty && x.st == .running && decide (l.blocks ≤ x.nextblk)
        && s1.blocks.all (fun b => b.rec_.node != node || b.rec_.gen != x.gen || b.started) then
      s1.modNode node (fun y => { y with st := .ending })
    else s1
  | none => s1

def execGangStart (quad node : Nat) (s : State) : Host.Outcome State Fault Refusal :=
  if Config.quads ≤ quad then .fault .noSuchAgent else .next (s.startGangs quad node)

/-! ## The end of a block (R111) -/

/-- The conditions of R111 and R428 for one copy. -/
def State.endable (s : State) (b : Block) : Bool :=
  (b.killed || b.threads.all Thread.exited) && b.copies.isEmpty
    && !((s.engine (quadOf b.core)).table ++ (s.engine (quadOf b.core)).running.toList).any (fun e =>
      e.core == b.core && e.ent == b.ent)
    && !s.chainsOf b.rec_.node b.rec_.gen b.rec_.block && !s.commandsOf b.rec_.node b.rec_.gen b.rec_.block
    && s.sideLogClear b && (b.started || b.killed) && (match b.snap with | some sn => !sn.rolling && !sn.point | none => true)

/-- A slot-table entry is freed. -/
def State.freeEntry (s : State) (b : Block) : State :=
  { s.modCore b.core (fun c => { c with control := dropNat c.control b.ent }) with
    blocks := s.blocks.filter (fun x => !(x.core == b.core && x.ent == b.ent)) }

/-- BLOCK_END: a gang's blocks, and both copies of a verified pair, stay resident to the end of the gang (R136). When each of them
meets R111, their releases perform; then, once the acknowledgements have come, the entries are free, LIVE falls by the blocks, and
the banks go (R440). -/
def State.endBlock (s : State) (core ent : Nat) : State :=
  match s.block? core ent with
  | none => s
  | some b =>
    let bs := s.gangBlocks b.gang
    if !bs.all s.endable then s
    else
      let s1 := if b.closing then s
        else runAll (fun (s : State) (x : Block) =>
          ((s.writeBackAll x.core).sendMarkers x.core).modBlock x.core x.ent (fun y => { y with closing := true })) bs s
      if !bs.all (fun x => s1.fabricClear x.core) then s1
      else
        let s2 := runAll (fun (s : State) x => s.freeEntry x) bs s1
        let s3 : State := { s2 with engines := s2.engines.map (fun e => e.drop b.gang) }
        let n := (bs.filter (fun x => x.verify != .secondary)).length
        (s3.modNode b.rec_.node (fun x => if x.gen == b.rec_.gen then { x with live := x.live - n } else x)).settleNode
          b.rec_.node

def execBlockEnd (core ent : Nat) (s : State) : Host.Outcome State Fault Refusal :=
  if Config.cores ≤ core then .fault .noSuchAgent else .next (s.endBlock core ent)

/-! ## Pre-emption (R123, R124, R461) -/

/-- Fevar has a reason to pre-empt a gang: its quad is being remapped or repaired, or it is among those that make room for
waiting work of greater priority; while the gangs of one quad are being saved for that, those of no other are. -/
def State.mustGo (s : State) (b : Block) : Bool :=
  let q := quadOf b.core
  let moving := (s.blocks.filter (fun x => x.gang == b.gang)).any (fun x => s.quadLeaves (quadOf x.core))
  let others := s.blocks.any (fun x => x.saving && quadOf x.core != q && s.quadOpen (quadOf x.core) && x.verify != .secondary)
  moving || (s.binding && !others && (match s.waitingWork s.allWork with
    | some w => match s.victimsFor w q with | some gs => gs.contains b.gang | none => false
    | none => false))

/-- A copy command that is in progress completes before the save (R124 step 4). -/
def CopyCmd.inProgress (k : CopyCmd) : Bool := k.moved || k.owed != 0 || !k.remote.isEmpty

/-- A block may be saved now: no chain but one that waits at a rendezvous, no load, no held `SLD` (R369) and no copy command is in progress, no snapshot
point and no rollback. -/
def Block.savable (b : Block) : Bool :=
  b.threads.all (fun th => (th.chain.isNone || th.status.met.isSome) && !th.awaits && th.heldUni.isNone) && b.copies.all (fun k => !k.inProgress)
    && (match b.snap with | some sn => !sn.rolling && !sn.point | none => true)

/-- The loads of a thread that have performed return before the save; an acquire owed to the replay of side-log entries, which the
image carries, stays owed (R230). -/
def State.returnAll (s : State) (id : ThreadId) : State :=
  match s.thread? id with
  | none => s
  | some th =>
    let done (l : LoadRec) : Bool := l.await.isNone
    runAll (fun (s : State) l => s.returnLoad id l) (th.loads.takeWhile done)
      (s.modThread id (fun t => { t with loads := th.loads.dropWhile done }))

/-- Every granule of a block's threads goes to the backing region (R124 step 6). -/
def State.spillBlock (s : State) (core ent : Nat) : List Thread → State × Need
  | [] => (s, .ready)
  | th :: ths => match s.spillAll core ent th.tid th.granules with
    | (s1, .ready) => s1.spillBlock core ent ths
    | r => r

def State.spillGang (s : State) : List Block → State × Need
  | [] => (s, .ready)
  | b :: bs => match s.spillBlock b.core b.ent ((s.block? b.core b.ent).getD b).threads with
    | (s1, .ready) => s1.spillGang bs
    | r => r

/-- The pass in progress of the gang's operation completes (R461). -/
def State.endPass (s : State) (q : Nat) (g : Nat × BitVec 16 × Nat) : State :=
  let e := s.engine q
  match e.running with
  | none => s
  | some x =>
    if x.gang == g && e.passing then match x.req with
      | .op w _ => s.runPass q x w
      | .acc _ _ _ => s
    else s

/-- The entries of a block on its engine in post order, the running one among them. -/
def State.blockPosts (s : State) (b : Block) : List MxEntry :=
  let e := s.engine (quadOf b.core)
  sortBy (fun (x y : MxEntry) => decide (x.post < y.post)) ((e.running.toList ++ e.table).filter (fun x => x.core == b.core && x.ent == b.ent))

/-- The physical die and quad under a logical quad. -/
def State.placeOf (s : State) (q : Nat) : Nat :=
  match s.boot.quadMap[q]? with
  | some e => b2n e.die * 32 + e.pq.toNat
  | none => 0

/-- The image of a block at an address of the pool. -/
def State.imageOf (s : State) (b : Block) (addr gran : Nat) (remap : Bool) : Image :=
  let lead := b.rec_.rank == 0 && b.verify != .secondary
  let banks := if lead then s.gangBanks b.gang else []
  let scr := s.scrImage b
  { addr := addr
    len := imageUnits b.rec_.scrLen (!banks.isEmpty)
    format := 1
    lanes := Config.lanes
    rec_ := { b.rec_ with resume := true, img := BitVec.ofNat 32 addr }
    res := b.res
    order := b.order
    unif := b.unif
    threads := b.threads.map Thread.saved
    token := b.token
    copies := b.copies
    cmdSeq := b.cmdSeq
    sideLog := (s.core b.core).sideLog.filter (fun e => e.slote == b.ent)
    scratch := scr.1
    scratchPoison := scr.2
    posts := s.blockPosts b
    banks := banks
    sticky := if lead then (s.engine (quadOf b.core)).sticky b.gang else 0
    place := s.placeOf (quadOf b.core)
    core := b.core
    remap := remap
    gran := gran
    additions := []
    snap := b.snap
    verify := b.verify
    results := b.results
    origin := b.origin
    saved := true }

/-- The images of a gang are written to the pool, one after another. -/
def State.saveAll (s : State) (remap : Bool) : List (Block × Nat) → Option State
  | [] => some s
  | (b0, gran) :: bs =>
    let b := (s.block? b0.core b0.ent).getD b0
    let lead := b.rec_.rank == 0 && b.verify != .secondary
    match s.poolFor remap (imageUnits b.rec_.scrLen (lead && !(s.gangBanks b.gang).isEmpty)) with
    | none => none
    | some a =>
      let i := s.imageOf b a gran remap
      let s1 := (s.writeBackAll b.core).writeImage i
      State.saveAll { s1 with images := s1.images ++ [i] } remap bs

/-- The save of a gang (R124): V is clear in each entry, the mappings end. A save that an uncorrectable error prevents kills the
gang. While a granule's page is not valid, or the pool has no room, the gang waits. -/
def State.saveGang (s : State) (g : Nat × BitVec 16 × Nat) (remap lost : Bool) : State :=
  let s0 : State := { s with blocks := s.blocks.map (fun b => if b.gang == g then { b with threads := b.threads.map Thread.leaveMeet } else b) }
  let bs := s0.gangBlocks g
  let s1 := runAll (fun (s : State) (b : Block) => s.endPass (quadOf b.core) g) bs s0
  let s2 := runAll (fun (s : State) (b : Block) => runAll (fun (s : State) (th : Thread) => s.returnAll (b.idOf th.tid)) b.threads s) bs s1
  let grans := (s2.gangBlocks g).map (fun b => (b, b.gran))
  match s2.spillGang bs with
  | (s3, .killed) => s3
  | (_, .hold _) => s
  | (s3, .ready) =>
    if lost then (s3.stopGang g).endNode g.1 2
    else match s3.saveAll remap grans with
    | none => s
    | some s4 =>
      let s5 : State := { s4 with
        engines := s4.engines.map (fun e => e.drop g)
        cores := s4.cores.map (fun c => { c with sideLog := c.sideLog.filter (fun e => !bs.any (fun b => b.core == c.num && b.ent == e.slote)) }) }
      let s6 := runAll (fun (s : State) b => s.freeEntry b) bs s5
      (s6.discard g.1).settleNode g.1

/-- GANG_PREEMPT: dispatch stops issuing the gang's sheds; when its chains and the commands in progress are complete, the gang is
saved. A gang that has ended is not (R115). -/
def State.preempt (s : State) (core ent : Nat) (lost : Bool) : State :=
  match s.block? core ent with
  | none => s
  | some b =>
    let bs := s.gangBlocks b.gang
    let ending := bs.all (fun x => x.killed || x.closing || s.endable x)
    if ending || bs.any (fun x => x.killed || !x.started) || !(b.saving || s.mustGo b) then s
    else
      let s1 : State := { s with blocks := s.blocks.map (fun x => if x.gang == b.gang then { x with saving := true } else x) }
      if bs.all Block.savable then s1.saveGang b.gang (bs.any (fun x => s.inRemap (quadOf x.core))) lost else s1

def execGangPreempt (core : Nat) (ent : Saving) (s : State) : Host.Outcome State Fault Refusal :=
  if Config.cores ≤ core then .fault .noSuchAgent else .next (s.preempt core ent.ent ent.lost)

/-! ## Restore (R127, R128, R462) -/

/-- An image that is never restored: the gang is killed with OUTCOME 4 and a record of SEV 2 (R128). -/
def State.refuseImage (s : State) (w : Work) (i : Image) : State :=
  let x := s.node w.node
  let gone := s.images.filter (fun j => j.gang == i.gang)
  let n := (gone.filter (fun j => j.verify != .secondary)).length
  let s1 : State := { s with images := s.images.filter (fun j => j.gang != i.gang) }
  let s2 := s1.tenantRecord x.tenant { kind := 0x22, sev := 2, src := 12, core := i.core, synd := i.lanes, gen := x.gen.toNat, node := x.num, block := i.rec_.block }
  (s2.modNode x.num (fun y => { y with live := y.live - n })).endNode x.num 4

/-- A saved block is bound again: its entry, its scratchpad, its side-log entries ahead of any new one, the acquires. -/
def State.restoreMember (s : State) (l : Launched) (m : Member) (core : Nat) : State :=
  match m.image, s.roomFor l s.blocks core m with
  | some i, some r =>
    let b : Block := {
      core := core
      ent := r.ent
      rec_ := { i.rec_ with slotBase := r.slotBase, scrBase := r.scrBase }
      res := i.res
      order := s.nextOrder
      unif := i.unif
      threads := i.threads
      token := i.token
      started := true
      killed := false
      copies := i.copies
      cmdSeq := i.cmdSeq
      snap := i.snap
      verify := i.verify
      results := i.results
      origin := i.origin
      saving := false
      closing := false }
    let s1 := ({ s with blocks := s.blocks ++ [b] } : State).scrRestore b i.scratch i.scratchPoison
    let s2 := s1.modCore core (fun c => { c with sideLog := i.sideLog.map (fun e => { e with slote := r.ent }) ++ c.sideLog })
    let s3 := (s2.acquire core).evictBeyond core (s2.l1Lines core)
    if l.flag 0 then s3.joinControl core r.ent m.block else s3
  | _, _ => s

/-- The banks of a gang are mapped and reloaded, its sticky flags come back. -/
def State.restoreBanks (s : State) (q : Nat) (g : Nat × BitVec 16 × Nat) (i : Image) : State :=
  s.modEngine q (fun e =>
    let e1 := runAll (fun (e : Engine) (b : Bank) => (e.map g b.logical b.wide).setCells g b.logical b.cells) i.banks e
    if i.sticky = 0 then e1 else e1.setSticky g i.sticky)

/-- The entries of a block are posted again in order, with new post numbers; the form that carries them has no count of grants
(R461). -/
def State.repost (s : State) (core ent : Nat) (xs : List MxEntry) : State :=
  runAll (fun (s : State) (x : MxEntry) => s.modEngine (quadOf core) (fun e =>
    { e with posts := e.posts + 1, table := e.table ++ [{ x with post := e.posts, core := core, ent := ent, retried := false, grants := 0 }] })) xs s

/-- The block that a member was restored to. -/
def State.memberBlock (s : State) (g : Nat × BitVec 16 × Nat) (m : Member) : Option Block :=
  s.blocks.find? (fun b => b.gang == g && b.rec_.block == m.block && b.verify == m.role)

/-- Additions queued during the save (R64). -/
def State.applyAdditions (s : State) (b : Block) (xs : List Addition) : State :=
  runAll (fun (s : State) (a : Addition) =>
    (((s.modBlock b.core b.ent (fun x => x.logAddition a.off a.n)).syncLog b.core b.ent)).barAdd b a.off a.n) xs s

/-- A gang is restored onto its places; the pool space is freed. -/
def State.restoreGang (s : State) (w : Work) (p : List (Member × Nat)) : State :=
  let x := s.node w.node
  let bad := (w.members.filterMap (·.image)).find? (fun i => i.format != 1 || i.lanes != Config.lanes)
  match x.launch, bad with
  | none, _ => s
  | _, some i => s.refuseImage w i
  | some l, none =>
    let g := (w.node, x.gen, w.first)
    let moved := runAll addNat ((p.filter (fun y => match y.1.image with | some i => i.place != s.placeOf (quadOf y.2) | none => false)).map
      (fun y => quadOf y.2)) []
    let stay := (runAll addNat (p.map (fun y => quadOf y.2)) []).filter (fun q => !moved.contains q)
    let s1 := runAll (fun (s : State) q => s.zeroTile q) moved s
    let s2 := runAll (fun (s : State) q => s.claimTile q x.tenant) stay s1
    let s3 := runAll (fun (s : State) (y : Member × Nat) => s.restoreMember l y.1 y.2) p s2
    let each (f : State → Block → Image → State) (s : State) : State :=
      runAll (fun (s : State) (y : Member × Nat) => match s.memberBlock g y.1, y.1.image with
        | some b, some i => f s b i
        | _, _ => s) p s
    let s4 := each (fun s b i => s.applyAdditions b i.additions) s3
    let s5 := each (fun s b i => if i.banks.isEmpty && i.sticky == 0 then s else s.restoreBanks (quadOf b.core) g i) s4
    let s6 := each (fun s b i => s.repost b.core b.ent i.posts) s5
    let s7 := runAll (fun (s : State) q => s.wake q) (runAll addNat (p.map (fun y => quadOf y.2)) []) s6
    { s7 with images := s7.images.filter (fun i => i.gang != g), nextOrder := s.nextOrder + 1 }

/-- GANG_RESTORE of a gang by its node and first block: performed when it is the bind work that Fevar serves next. -/
def execGangRestore (node block : Nat) (s : State) : Host.Outcome State Fault Refusal :=
  if !s.binding then .next s
  else match s.nextBind s.allWork with
    | some (w, p) => .next (if w.restore && w.node == node && w.first == block then s.restoreGang w p else s)
    | none => .next s

end Sys2Proof.Machine
end

