-- ==== Sys2Proof/Machine/Recovery.lean ====
section
/-! DEFINITION. Snapshot points, rollback and the verify time limit (R296 to R304, R307). -/

namespace Sys2Proof.Machine

/-! ## Snapshot points (R296, R307) -/

/-- The commands that a snapshot point waits for have completed. -/
def State.pointReady (s : State) (b : Block) : Bool :=
  (match b.snap with | some sn => sn.point && !sn.rolling | none => false) && b.copies.all (fun k => !k.awaited)
    && !s.fabric.cmds.any (fun k => k.awaited && k.owner.node == b.rec_.node && k.owner.gen == b.rec_.gen && k.owner.block == b.rec_.block)
    && b.threads.all (fun th => !th.awaits)

/-- A snapshot of a block as it stands. -/
def State.takeSnapshot (s : State) (b : Block) : State × Need × Snapshot :=
  let r := s.snapThreads b b.threads
  let scr := r.1.scrImage b
  (r.1, r.2.1, ⟨b.unif, r.2.2, b.token, scr.1, scr.2⟩)

/-- The block after a snapshot: CUR names the new buffer, the log is clear, a new interval begins. -/
def Block.newInterval (b : Block) (sn : Snapshot) : Block :=
  { b with
    threads := b.threads.map (fun th =>
      { th with effects := 0, shared := 0, wait := match th.wait with | some (.verify _) => none | w => w })
    results := []
    snap := b.snap.map (fun x =>
      let y := if x.cur then { x with a := some sn } else { x with b := some sn }
      { y with cur := !x.cur, log := [], unprot := false, rolls := 0, point := false }) }

/-- One copy writes the buffer other than CUR, then sets CUR; nothing changes while a page is not valid. -/
def State.writeSnapshot (s : State) (core ent : Nat) : State × Bool :=
  match s.block? core ent with
  | none => (s, false)
  | some b =>
    let s0 := runAll (fun (s : State) (th : Thread) => s.returnAll (b.idOf th.tid)) b.threads s
    match s0.takeSnapshot ((s0.block? core ent).getD b) with
    | (_, .hold _, _) => (s, false)
    | (s1, .killed, _) => (s1, false)
    | (s1, .ready, sn) =>
      let other := match b.snap with | some x => !x.cur | none => false
      match s1.backWriteAll b (s1.bufferAt b other) (sn.parts b) with
      | (_, .hold _) => (s, false)
      | (s2, .killed) => (s2, false)
      | (s2, .ready) => ((s2.modBlock core ent (fun x => x.newInterval sn)).syncLog core ent, true)

/-- The first thread whose CRC differs in the two copies of a pair. -/
def crcDiffers (b x : Block) : Option Nat :=
  ((b.threads.zip x.threads).find? (fun y => y.1.crc != y.2.crc)).map (fun y => y.1.tid)

/-- SNAPSHOT_POINT: a block on its own, or both copies of a verified pair, whose CRCs are compared first. -/
def State.snapshotPoint (s : State) (core ent : Nat) : State :=
  match s.block? core ent with
  | none => s
  | some b =>
    if !s.pointReady b then s
    else match s.partner b with
      | none => if b.verify == .single then (s.writeSnapshot core ent).1 else s
      | some x =>
        if !s.pointReady x then s
        else match crcDiffers b x with
          | some t => s.verifyFail ((if b.verify == .primary then b else x).idOf t)
          | none =>
            let r := s.writeSnapshot core ent
            if r.2 then
              let q := r.1.writeSnapshot x.core x.ent
              if q.2 then q.1 else s
            else r.1

def execSnapshotPoint (core ent : Nat) (s : State) : Host.Outcome State Fault Refusal :=
  if Config.cores ≤ core then .fault .noSuchAgent else .next (s.snapshotPoint core ent)

/-! ## Rollback (R302 to R304) -/

/-- The launch state of a block (R119), its first snapshot. -/
def State.launchSnapshot (s : State) (b : Block) : Snapshot where
  unif := ((s.node b.rec_.node).launch.map (·.unif)).getD []
  threads := (List.range b.rec_.threads).map (fun t => Thread.start t b.rec_.entry)
  token := some 0
  scratch := zeroBytes b.alloc
  scratchPoison := []

/-- The snapshot that a rollback restores. -/
def State.current (s : State) (b : Block) (sn : SnapSt) : Snapshot :=
  ((if sn.cur then sn.b else sn.a)).getD (s.launchSnapshot b)

/-- An uncorrectable error lies in a range of the rollback area (R303, cause 5). -/
def State.damaged (s : State) (b : Block) (va n : Nat) : Bool :=
  (spansOf va (n / 4096 + 2) n).any (fun x => match s.walkFor b.tenant x.1 .load with
    | .ok e => decide (e.tier < 2) && (s.mem.anyPoison (e.pa x.1) x.2
        || s.latent.any (fun l => (granules (e.pa x.1) x.2).contains l.granule))
    | _ => false)

/-- The lanes that the threads of a block use read their latches as invalid. -/
def State.clearBlockLatches (s : State) (b : Block) : State :=
  { s with lanes := s.lanes.map (fun l => if l.core == b.core && (l.last.map (·.1)) == some b.ent then l.clear else l) }

/-- Room in the lanes for the registers of restored threads. -/
def State.roomForAll (s : State) (b : Block) : List Thread → State × Need
  | [] => (s, .ready)
  | th :: ths => match s.makeRoom (b.idOf th.tid) 0 130 with
    | (s1, .ready) => s1.roomForAll b ths
    | r => r

/-- The restore of a rollback: buffer CUR, the TYPE 8 entries, counts and ROLLS, the record. -/
def State.restoreSnapshot (s : State) (b : Block) (sn : SnapSt) : State :=
  let c := s.current b sn
  let b1 : Block := { b with
    unif := c.unif
    threads := c.threads.map (fun th => { th with effects := 0, shared := 0, notBefore := 0 })
    token := c.token
    results := []
    snap := some { sn with rolling := false, point := false, rolls := sn.rolls + 1 } }
  let s1 := ((s.modBlock b.core b.ent (fun _ => b1)).scrRestore b c.scratch c.scratchPoison).clearBlockLatches b
  match s1.roomForAll b1 b1.threads with
  | (_, .hold _) => s
  | (s2, .killed) => s2
  | (s2, .ready) =>
    let s3 := runAll (fun (s : State) (e : Effect) => if e.type = 8 && e.barv then s.barAdd b1 e.baroff e.count else s) sn.log s2
    (s3.tenantRecord b.tenant (b.record { kind := 0x20, sev := 0, src := 9, synd := sn.rolls + 1 })).syncLog b.core b.ent

/-- ROLLBACK: once the block's commands have completed or failed; UNPROT may be set while they do (R300, R303). -/
def State.rollback (s : State) (core ent : Nat) : State :=
  match s.block? core ent with
  | none => s
  | some b => match b.snap with
    | none => s
    | some sn =>
      if sn.rolling && sn.unprot then s.rollbackFail core ent 2
      else if !sn.rolling || !b.copies.isEmpty || s.commandsOf b.rec_.node b.rec_.gen b.rec_.block then s
      else
        let valid := (if sn.cur then sn.b else sn.a).isSome
        if s.damaged b (s.rbAddr b 0x1000) (32 * sn.log.length) || (valid && s.damaged b (s.bufferAt b sn.cur) b.snapSize) then
          s.rollbackFail core ent 5
        else s.restoreSnapshot b sn

def execRollback (core ent : Nat) (s : State) : Host.Outcome State Fault Refusal :=
  if Config.cores ≤ core then .fault .noSuchAgent else .next (s.rollback core ent)

/-- VERIFY_TIMEOUT: the counterpart of a waiting primary thread has not come within 10 ms (R307). -/
def execVerifyTimeout (core ent tid : Nat) (s : State) : Host.Outcome State Fault Refusal :=
  if Config.cores ≤ core then .fault .noSuchAgent
  else match s.block? core ent, s.thread? ⟨core, ent, tid⟩ with
    | some b, some th => match th.wait with
      | some (.verify d) => .next (if b.verify == .primary && decide (d ≤ s.halfNs) then s.verifyFail ⟨core, ent, tid⟩ else s)
      | _ => .next s
    | _, _ => .next s

end Sys2Proof.Machine
end

