-- ==== Sys2Proof/Machine/Paging.lean ====
section
/-! DEFINITION. Walks that are tried again, the sweeper and the translation service (R206, R208 to R218). -/

namespace Sys2Proof.Machine

/-! ## Walk retries (R206) -/

/-- The page of a held thread may now be used: its walk no longer finds it invalid. -/
def State.mayRetry (s : State) (t va : Nat) (write : Bool) : Bool :=
  match s.walkFor t va (if write then .store else .load) with
  | .notValid => false
  | _ => true

/-- A thread held on a memory fault becomes ready when its page is mapped; one held at a rendezvous tries it again. -/
def State.retryThread (s : State) (b : Block) (th : Thread) (all : Bool) (page : Nat) : State :=
  let id := b.idOf th.tid
  let t := th.heldFor.getD b.tenant
  match th.status with
  | .fault va w =>
    if !(all || va / 65536 == page) then s
    else if s.mayRetry t va w then (s.walked t va).modThread id (fun t => { t with status := .run, heldFor := none })
    else s.walked t va
  | .rendezvous _ _ => if all then s.tryMeet id else s
  | .electBlk _ _ => if all then s.tryMeet id else s
  | _ => s

def State.retryBlocks (s : State) (bs : List Block) (all : Bool) (page : Nat) : State :=
  runAll (fun (s : State) (b : Block) => runAll (fun (s : State) (th : Thread) => s.retryThread b th all page) b.threads s) bs s

/-- The log of a core replays as far as it can. -/
def State.replayAll (s : State) (core : Nat) : Nat → State
  | 0 => s
  | n + 1 =>
    let s1 := s.replayFirst core
    if (s1.core core).sideLog.length < (s.core core).sideLog.length then s1.replayAll core n else s1

/-- Every held access of a tenant tries its walk again: threads, log entries, and requests held at this destination (R43). -/
def State.retryTenant (s : State) (t : Nat) : State :=
  let s1 := s.retryBlocks (s.blocks.filter (fun b => b.tenant == t && !b.killed)) true 0
  let s2 := runAll (fun (s : State) (c : Core) => s.replayAll c.num c.sideLog.length) s1.cores s1
  s2.retryHeld t

/-- PAGE_WALK: a walk of a core's access, which fills the TLBs and counts heat when it succeeds (R198, R199); the core's threads
held on the page may issue again. -/
def execPageWalk (core : Nat) (t : Nat) (va : CodeAddr) (write : Bool) (s : State) : Host.Outcome State Fault Refusal :=
  if decide (Config.cores ≤ core) || decide (Config.tenants ≤ t) then .fault .noSuchAgent
  else
    let r := s.xlat core t va.toNat (if write then .store else .load)
    .next (r.1.retryBlocks (r.1.blocks.filter (fun b => b.tenant == t && b.core == core && !b.killed)) false (va.toNat / 65536))

/-- WALK_RETRY: every 10 µs. -/
def execWalkRetry (t : Nat) (s : State) : Host.Outcome State Fault Refusal :=
  if Config.tenants ≤ t then .fault .noSuchAgent else .next (s.retryTenant t)

/-! ## The sweeper (R218) -/

/-- Indices of a table whose entry has a listed byte: every other entry reads as zero and is not valid. -/
def State.tableIndexes (s : State) (base n : Nat) : List Nat :=
  runAll addNat ((s.mem.cells.filter (fun c => decide (base ≤ c.1) && decide (c.1 < base + 8 * n))).map (fun c => (c.1 - base) / 8)) []

/-- First virtual addresses of the valid leaves of a tenant. -/
def State.leafAddrs (s : State) (t : Nat) : List Nat :=
  let root := field (s.tenant t).ptroot.toNat 16 36 * 65536
  (s.tableIndexes root 4096).flatMap (fun i1 =>
    let e1 := s.mem.nat (root + 8 * i1) 8
    if !bitOf e1 0 then []
    else
      let b2 := field e1 20 36 * 65536
      (s.tableIndexes b2 8192).flatMap (fun i2 =>
        let e2 := s.mem.nat (b2 + 8 * i2) 8
        let va2 := i1 * 2 ^ 42 + i2 * 2 ^ 29
        if !bitOf e2 0 then []
        else if bitOf e2 4 then [va2]
        else
          let b3 := field e2 20 36 * 65536
          ((s.tableIndexes b3 8192).filter (fun i3 => bitOf (s.mem.nat (b3 + 8 * i3) 8) 0)).map (fun i3 => va2 + i3 * 2 ^ 16)))

/-- One leaf: a TYPE 2 notification when it is hot and far, which sets MQ unless it is dropped; then its heat falls. -/
def State.sweepLeaf (s0 : State) (t va : Nat) : State :=
  let s := s0.walked t va
  match s.walk t va with
  | .ok l =>
    let hot := l.tier != 0 && !l.mq && (l.heatR == 3 || l.heatW == 3)
    let s1 := if hot then s.notify t ⟨2, va, false, l.heatW, l.heatR, l.tier, some l.addr⟩ else s
    let bits := s1.mem.nat l.addr 8
    s1.writeLeaf l.addr (bits - (if field bits 8 2 = 0 then 0 else 2 ^ 8) - (if field bits 10 2 = 0 then 0 else 2 ^ 10))
  | _ => s

/-- The sweeper's period in which the part is, counted from module reset. -/
def State.sweepNow (s : State) : Nat := s.halfNs / (oneMicro * s.boot.sweepPeriod)

/-- A tenant's visit of the period has not been made. -/
def State.sweepDue (s : State) (t : Nat) : Bool := (s.tenant t).enable && decide ((s.tenant t).swept < s.sweepNow)

/-- SWEEPER_VISIT of a tenant's leaves, once a period. -/
def execSweeperVisit (t : Nat) (s : State) : Host.Outcome State Fault Refusal :=
  if Config.tenants ≤ t then .fault .noSuchAgent
  else .next (if s.sweepDue t then
      runAll (fun (s : State) va => s.sweepLeaf t va) (s.leafAddrs t) (s.modTenant t (fun x => { x with swept := s.sweepNow }))
    else s)

/-! ## Commands (R210, R211) -/

/-- The page of the migration queue for its commands: of KIND 0, readable and writable (R208). -/
def State.queuePage (s : State) (t : Nat) : Option TlbEntry :=
  let base := (s.tenant t).migqbase.toNat
  if base = 0 then none
  else match s.walkFor t base .store, s.walkFor t base .load with
    | .ok e, .ok _ => if e.kind = 0 then some e else none
    | _, _ => none

def cmdOp (ws : List DWord) : Nat := field (dword ws 0) 0 4
def cmdPage (ws : List DWord) : Nat := field (dword ws 1) 16 38
def cmdCount (ws : List DWord) : Nat := field (dword ws 2) 0 32
def cmdNew (ws : List DWord) : Nat := dword ws 3

/-- The fields of a command (STATUS 2 where they fail). -/
def cmdFieldsOk (ws : List DWord) : Bool :=
  let w := dword ws
  zeroField (w 0) 16 48 && zeroField (w 0) 4 4 && zeroField (w 1) 0 16 && zeroField (w 1) 54 10 && zeroField (w 2) 32 32
    && decide (1 ≤ cmdCount ws) && zeroField (w 4) 17 47 && [5, 6, 7].all (fun i => w i == 0)
    && (if cmdOp ws = 1 then w 3 == 0
        else if cmdOp ws = 2 then zeroField (w 3) 0 1 && zeroField (w 3) 4 10 && zeroField (w 3) 18 45
          && (bitOf (w 3) 63 || zeroField (w 3) 14 4) && !(bitOf (w 3) 2 && bitOf (w 3) 3)
        else cmdOp ws == 3 && zeroField (w 3) 0 6 && zeroField (w 3) 8 12 && zeroField (w 3) 56 8)

/-- The leaves that the pages of a range walk to, each once. -/
def State.rangeLeaves (s : State) (t first n : Nat) : List PxLeaf :=
  ((List.range n).map (· + first)).filterMap (fun p => match s.walk t (p * 65536) with
    | .ok l => if l.large && p % 8192 != 0 && p != first then none
      else some ⟨if l.large then p / 8192 * 8192 else p, l.addr, l.large, BitVec.ofNat 64 l.bits⟩
    | _ => none)

/-- A leaf lies whole in the range: a large page, or the aligned run of a CONTIG leaf (R211). -/
def leafWhole (first n : Nat) (x : PxLeaf) : Bool :=
  if x.large then decide (first ≤ x.page) && decide (x.page + 8192 ≤ first + n)
  else if x.leaf.contig then decide (first ≤ x.page / 32 * 32) && decide (x.page / 32 * 32 + 32 ≤ first + n)
  else true

/-- The node decrement of a command (R211). -/
def State.commandNode (s : State) (t : Nat) (ws : List DWord) (status : Nat) : State :=
  if bitOf (dword ws 4) 16 then s.signal t (field (dword ws 4) 0 16) (status != 1) else s

/-- The end of a command of a queue of this module or of the host: STATUS, the node decrement, CMDHEAD; held accesses try again (R206,
R211). -/
def State.endHere (s : State) (t : Nat) (e : TlbEntry) (ws : List DWord) (status : Nat) : State :=
  let base := (s.tenant t).migqbase.toNat
  let head := ofBytes (s.pageRead e (base + 0x10) 8) % 256
  let s1 := (s.pageWrite .response e (base + 0x8000 + 64 * head + 1) (toBytes 1 status)).commandNode t ws status
  (s1.pageWrite .response e (base + 0x10) (toBytes 8 ((head + 1) % 256))).retryTenant t

/-- The work on the commands of a queue in another module begins anew. -/
def State.quitQueue (s : State) (t : Nat) : State := s.modTenant t (fun x => { x with serving := ⟨[], false, 0⟩, ending := none })

/-- The end of a command of a queue in another module goes on: STATUS is written; when that is acknowledged the node's counter falls
and CMDHEAD is written; when that is, held accesses try again (R206, R211). -/
def State.endThere (s : State) (t : Nat) (e : TlbEntry) (ws : List DWord) (status : Nat) : State :=
  let x := s.tenant t
  let base := x.migqbase.toNat
  if x.serving.owed then s
  else match lineRead x.serving.lines (base + 0x10) 16 with
    | .here bs _ =>
      let head := ofBytes (bs.take 8) % 256
      if x.serving.stage = 0 then s.writeQueue t true e (base + 0x8000 + 64 * head + 1) (toBytes 1 status)
      else if x.serving.stage = 1 then (s.commandNode t ws status).writeQueue t true e (base + 0x10) (toBytes 8 ((head + 1) % 256))
      else (s.quitQueue t).retryTenant t
    | _ => s.quitQueue t

/-- A command ends with a status; in a queue of another module that takes the time of its packets. -/
def State.endCommand (s : State) (t : Nat) (ws : List DWord) (status : Nat) : State :=
  let s1 := s.modTenant t (fun x => { x with service := none, pxLeaves := [], marked := [] })
  match s1.queuePage t with
  | none => s1
  | some e =>
    if e.tier = 2 then (s1.modTenant t (fun x => { x with ending := some (ws, status) })).endThere t e ws status
    else s1.endHere t e ws status

/-- A command is begun: one whose fields fail, or whose range splits a leaf, ends with STATUS 2 (R211). -/
def State.startCommand (s0 : State) (t : Nat) (ws : List DWord) : State :=
  let s := runAll (fun (s : State) (l : PxLeaf) => s.walked t (l.page * 65536)) (if cmdOp ws = 1 || !cmdFieldsOk ws then []
    else s0.rangeLeaves t (cmdPage ws) (cmdCount ws)) s0
  let ls := if cmdOp ws = 1 || !cmdFieldsOk ws then [] else s.rangeLeaves t (cmdPage ws) (cmdCount ws)
  if !cmdFieldsOk ws || !ls.all (leafWhole (cmdPage ws) (cmdCount ws)) then s.endCommand t ws 2
  else s.modTenant t (fun x => { x with service := some (0, ws), pxLeaves := ls, marked := [] })

/-- The next command of a queue of this module or of the host. -/
def State.pollHere (s : State) (t : Nat) (e : TlbEntry) : State :=
  let base := (s.tenant t).migqbase.toNat
  let head := ofBytes (s.pageRead e (base + 0x10) 8) % 256
  let tail := ofBytes (s.pageRead e (base + 0x18) 8) % 256
  if head = tail then s else s.startCommand t (toDwords 8 (s.pageRead e (base + 0x8000 + 64 * head) 64))

/-- The next command of a queue in another module: the line of CMDHEAD and CMDTAIL is asked for once a µs, then the command's line. -/
def State.pollThere (s : State) (t : Nat) (e : TlbEntry) : State :=
  let x := s.tenant t
  let base := x.migqbase.toNat
  match lineRead x.serving.lines (base + 0x10) 16 with
  | .unasked =>
    if x.polled < s.halfNs / oneMicro then
      (s.modTenant t (fun x => { x with polled := s.halfNs / oneMicro })).askQueue t true e (base / 128)
    else s
  | .owed => s
  | .failed _ => s.quitQueue t
  | .here bs _ =>
    let head := ofBytes (bs.take 8) % 256
    if head = ofBytes (bs.drop 8) % 256 then s.quitQueue t
    else match lineRead x.serving.lines (base + 0x8000 + 64 * head) 64 with
      | .unasked => s.askQueue t true e ((base + 0x8000 + 64 * head) / 128)
      | .owed => s
      | .failed _ => s.quitQueue t
      | .here ws _ => s.startCommand t (toDwords 8 ws)

/-- TRANSLATION_SERVICE_POLL: the service reads the next command of a tenant whose command is not in progress; a command that has ended
in a queue of another module is written first. -/
def State.poll (s0 : State) (t : Nat) : State :=
  let s := s0.walked t (s0.tenant t).migqbase.toNat
  match (s.tenant t).service, s.queuePage t with
  | none, some e =>
    match (s.tenant t).ending with
    | some (ws, status) =>
      if e.tier = 2 then s.endThere t e ws status
      else if (s.tenant t).serving.stage = 2 then (s.quitQueue t).retryTenant t
      else (s.quitQueue t).endHere t e ws status
    | none => if e.tier = 2 then s.pollThere t e else s.pollHere t e
  | _, _ => s

def execTranslationServicePoll (t : Nat) (s : State) : Host.Outcome State Fault Refusal :=
  if Config.tenants ≤ t then .fault .noSuchAgent else .next (s.poll t)

/-! ## Shootdowns and leaves -/

/-- A TLB entry meets the pages of a range. -/
def TlbEntry.meets (e : TlbEntry) (t first n : Nat) : Bool :=
  e.tenant == t && decide (e.va < (first + n) * 65536) && decide (first * 65536 < e.va + e.size)

/-- Every TLB drops its entries of the range (R212). -/
def State.shootdown (s : State) (t first n : Nat) : State := s.dropTlb (fun e => e.meets t first n)

/-- A shootdown with fetch use included (R213, R214). -/
def State.shootdownCode (s : State) (t first n : Nat) : State :=
  (s.shootdown t first n).dropCode t (fun a => decide (first ≤ a / 65536) && decide (a / 65536 < first + n))

/-- A leaf without its heat, which alone may change under a command (R216). -/
def coldBits (x : Nat) : Nat := x - field x 8 4 * 2 ^ 8

/-- Bit 13, PX, set or cleared. -/
def setPx (x : Nat) (on : Bool) : Nat := x - field x 13 1 * 2 ^ 13 + b2n on * 2 ^ 13

/-- Leaves rewritten in order by `f` where they lie, each compared first with the value the service last saw; the flag is false where
one differs, and the leaves seen are those written so far and those still to come. -/
def State.rewrite (s : State) (f : Nat → Nat → Nat) : List PxLeaf → State × Bool × List PxLeaf
  | [] => (s, true, [])
  | l :: xs =>
    let bits := s.mem.nat l.addr 8
    if coldBits bits != coldBits l.bits.toNat then (s, false, l :: xs)
    else
      let v := f l.page bits
      let q := (s.writeLeaf l.addr v).rewrite f xs
      (q.1, q.2.1, { l with bits := BitVec.ofNat 64 v } :: q.2.2)

/-- PX leaves every leaf that still carries it (R216). -/
def State.clearPx (s : State) (ls : List PxLeaf) : State :=
  runAll (fun (s : State) (l : PxLeaf) =>
    let bits := s.mem.nat l.addr 8
    if bitOf bits 13 then s.writeLeaf l.addr (setPx bits false) else s) ls s

/-- A conflict: PX is cleared, the shootdown completes, STATUS 3. -/
def State.conflict (s : State) (t : Nat) (ws : List DWord) (ls : List PxLeaf) : State :=
  ((s.clearPx ls).shootdownCode t (cmdPage ws) (cmdCount ws)).endCommand t ws 3

/-- The service goes on to a phase with the leaves it has seen. -/
def State.phase (s : State) (t n : Nat) (ws : List DWord) (ls : List PxLeaf) : State :=
  s.modTenant t (fun x => { x with service := some (n, ws), pxLeaves := ls })

/-! ## INVAL (R212) -/

def execInval (t : Nat) (s : State) : Host.Outcome State Fault Refusal :=
  if Config.tenants ≤ t then .fault .noSuchAgent
  else match (s.tenant t).service with
    | some (_, ws) =>
      .next (if cmdOp ws = 1 then (s.shootdown t (cmdPage ws) (cmdCount ws)).endCommand t ws 1 else s)
    | none => .next s

/-! ## PERM (R213) -/

/-- A leaf with the permissions and, with SETST, the stamp of NEW, PX clear. -/
def permBits (new x : Nat) : Nat :=
  let y := setPx x false - field x 1 3 * 2 + field new 1 3 * 2
  if bitOf new 63 then y - field x 14 4 * 2 ^ 14 + field new 14 4 * 2 ^ 14 else y

/-- PERM: the next step of the command in progress. -/
def State.permStep (s : State) (t phase : Nat) (ws : List DWord) : State :=
  let ls := (s.tenant t).pxLeaves
  if phase = 0 then
    match s.rewrite (fun _ x => setPx x true) ls with
    | (s1, true, ms) => s1.phase t 1 ws ms
    | (s1, false, _) => s1.conflict t ws ls
  else if phase = 1 then (s.shootdownCode t (cmdPage ws) (cmdCount ws)).phase t 2 ws ls
  else if phase = 2 then
    match s.rewrite (fun _ x => permBits (cmdNew ws) x) ls with
    | (s1, true, ms) => s1.phase t 3 ws ms
    | (s1, false, _) => s1.conflict t ws ls
  else (s.shootdownCode t (cmdPage ws) (cmdCount ws)).endCommand t ws 1

def execPerm (t : Nat) (s : State) : Host.Outcome State Fault Refusal :=
  if Config.tenants ≤ t then .fault .noSuchAgent
  else match (s.tenant t).service with
    | some (phase, ws) => .next (if cmdOp ws = 2 then s.permStep t phase ws else s)
    | none => .next s

/-! ## MIGRATE (R215) -/

def newTier (ws : List DWord) : Nat := field (cmdNew ws) 6 2

/-- The new frame of a page: the frames of a range follow one another. -/
def newFrame (ws : List DWord) (page : Nat) : Nat := field (cmdNew ws) 20 36 + (page - cmdPage ws)

/-- A new frame lies in the tenant's windows; none of TIER 2 does. -/
def State.frameOk (s : State) (t tier pfn n : Nat) : Bool :=
  if tier = 0 then decide (pfn * 65536 + n ≤ s.tier1) && s.inWindow t (pfn * 65536) n
  else if tier = 1 then decide (Config.tier2Base ≤ pfn * 65536) && decide (pfn * 65536 + n ≤ Config.tier2End) && s.inWindow t (pfn * 65536) n
  else tier == 3 && s.inHostWindow t (pfn * 65536) n

/-- A line copied from one frame to another, with its poison. -/
def State.copyLine (s : State) (t : Nat) (fromHost toHost : Bool) (src dst : Nat) : State :=
  let r := if fromHost then (s, s.host.read src 128, (granules src 128).filter s.host.poisoned)
    else
      let s1 := s.discover (.tenant_ t src) src 128
      (s1, s1.mem.read src 128, (granules src 128).filter s1.mem.poisoned)
  let put (m : ByteMem) : ByteMem :=
    let m1 := (m.zero dst 128).write dst r.2.1
    runAll (fun (m : ByteMem) g => m.setPoison (dst / 32 + (g - src / 32))) r.2.2 m1
  if toHost then { r.1 with host := put r.1.host } else { r.1 with mem := put r.1.mem }

/-- A page copied whole to its new frame. -/
def State.copyPage (s : State) (t : Nat) (ws : List DWord) (x : PxLeaf) : State :=
  let l := x.leaf
  let src := l.pfn * 65536
  let dst := newFrame ws x.page * 65536
  runAll (fun (s : State) i => s.copyLine t (l.tier == 3) (newTier ws == 3) (src + 128 * i) (dst + 128 * i)) (List.range (l.size / 128)) s

/-- The marked lines of a page are copied again. -/
def State.copyMarked (s : State) (t : Nat) (ws : List DWord) (x : PxLeaf) : State :=
  let l := x.leaf
  let src := l.pfn * 65536
  let dst := newFrame ws x.page * 65536
  runAll (fun (s : State) (k : Bool × Nat) => s.copyLine t k.1 (newTier ws == 3) (128 * k.2) (dst + (128 * k.2 - src)))
    ((s.tenant t).marked.filter (fun k => k.1 == (l.tier == 3) && decide (src ≤ 128 * k.2) && decide (128 * k.2 < src + l.size))) s

/-- Every core writes back and drops its lines of the old frames before it acknowledges the shootdown of step 4. -/
def State.flushFrames (s : State) (frames : List (Nat × Nat)) : State :=
  let mine := s.l1.filter (fun l => frames.any (fun f => decide (f.1 ≤ 128 * l.line) && decide (128 * l.line < f.1 + f.2)))
  runAll (fun (s : State) (l : L1Line) => s.flushLine l.core l.line) mine s

/-- A leaf with its new TIER and PFN, and HEATR, HEATW, MQ and PX zero. -/
def movedBits (ws : List DWord) (page x : Nat) : Nat :=
  let y := x - field x 6 8 * 2 ^ 6 - field x 20 36 * 2 ^ 20
  y + newTier ws * 2 ^ 6 + newFrame ws page % 2 ^ 36 * 2 ^ 20

/-- MIGRATE: the next steps of the command in progress. A page of TIER 2 has no frame here to copy and ends the command with STATUS 4
(assumption 70). -/
def State.migrateStep (s : State) (t phase : Nat) (ws : List DWord) : State :=
  let ls := (s.tenant t).pxLeaves
  if phase = 0 then
    let ok := ls.all (fun x => x.leaf.tier != 2 && s.frameOk t (newTier ws) (newFrame ws x.page) x.leaf.size)
    if !ok then s.endCommand t ws 4
    else runAll (fun (s : State) x => s.copyPage t ws x) ls (s.phase t 1 ws ls)
  else if phase = 1 then
    match s.rewrite (fun _ x => setPx x true) ls with
    | (s1, true, ms) => s1.phase t 2 ws ms
    | (s1, false, _) => s1.conflict t ws ls
  else if phase = 2 then
    ((s.shootdownCode t (cmdPage ws) (cmdCount ws)).flushFrames ((ls.filter (fun x => x.leaf.tier != 3)).map (fun x => (x.leaf.pfn * 65536, x.leaf.size)))).phase t 3 ws ls
  else if phase = 3 then
    let s1 := runAll (fun (s : State) x => s.copyMarked t ws x) ls s
    match s1.rewrite (movedBits ws) ls with
    | (s2, true, ms) => s2.phase t 4 ws ms
    | (s2, false, _) => s2.conflict t ws ls
  else (s.shootdownCode t (cmdPage ws) (cmdCount ws)).endCommand t ws 1

def execMigrate (t : Nat) (s : State) : Host.Outcome State Fault Refusal :=
  if Config.tenants ≤ t then .fault .noSuchAgent
  else match (s.tenant t).service with
    | some (phase, ws) => .next (if cmdOp ws = 3 then s.migrateStep t phase ws else s)
    | none => .next s

end Sys2Proof.Machine
end

