-- ==== Sys2Proof/Machine/Sha.lean ====
section
/-! DEFINITION. SHA-256 (FIPS 180-4), which the spec names for measurements (R34, R101; assumption 11). -/

namespace Sys2Proof.Machine

/-- The 64 round constants. -/
def shaK : List Word :=
  [0x428a2f98, 0x71374491, 0xb5c0fbcf, 0xe9b5dba5, 0x3956c25b, 0x59f111f1, 0x923f82a4, 0xab1c5ed5]
    ++ [0xd807aa98, 0x12835b01, 0x243185be, 0x550c7dc3, 0x72be5d74, 0x80deb1fe, 0x9bdc06a7, 0xc19bf174]
    ++ [0xe49b69c1, 0xefbe4786, 0x0fc19dc6, 0x240ca1cc, 0x2de92c6f, 0x4a7484aa, 0x5cb0a9dc, 0x76f988da]
    ++ [0x983e5152, 0xa831c66d, 0xb00327c8, 0xbf597fc7, 0xc6e00bf3, 0xd5a79147, 0x06ca6351, 0x14292967]
    ++ [0x27b70a85, 0x2e1b2138, 0x4d2c6dfc, 0x53380d13, 0x650a7354, 0x766a0abb, 0x81c2c92e, 0x92722c85]
    ++ [0xa2bfe8a1, 0xa81a664b, 0xc24b8b70, 0xc76c51a3, 0xd192e819, 0xd6990624, 0xf40e3585, 0x106aa070]
    ++ [0x19a4c116, 0x1e376c08, 0x2748774c, 0x34b0bcb5, 0x391c0cb3, 0x4ed8aa4a, 0x5b9cca4f, 0x682e6ff3]
    ++ [0x748f82ee, 0x78a5636f, 0x84c87814, 0x8cc70208, 0x90befffa, 0xa4506ceb, 0xbef9a3f7, 0xc67178f2]

/-- The initial hash value. -/
def shaH : List Word := [0x6a09e667, 0xbb67ae85, 0x3c6ef372, 0xa54ff53a, 0x510e527f, 0x9b05688c, 0x1f83d9ab, 0x5be0cd19]

/-- A word of a list of words. -/
def wordAt (xs : List Word) (i : Nat) : Word := xs[i]?.getD 0

/-- The message with its padding. -/
def shaPad (bs : List Byte) : List Byte :=
  bs ++ [0x80] ++ List.replicate ((119 - bs.length % 64) % 64) 0 ++ (toBytes 8 (8 * bs.length)).reverse

/-- A big-endian word. -/
def beWord (bs : List Byte) : Word := BitVec.ofNat 32 (ofBytes bs.reverse)

/-- The message schedule, latest word first. -/
def shaSchedule : Nat → List Word → List Word
  | 0, ws => ws
  | n + 1, ws =>
    let a := wordAt ws 1
    let b := wordAt ws 14
    let s1 := a.rotateRight 17 ^^^ a.rotateRight 19 ^^^ (a >>> 10)
    let s0 := b.rotateRight 7 ^^^ b.rotateRight 18 ^^^ (b >>> 3)
    shaSchedule n ((s1 + wordAt ws 6 + s0 + wordAt ws 15) :: ws)

/-- One round on the eight working variables. -/
def shaRound (v : List Word) (kw : Word) : List Word :=
  let e := wordAt v 4
  let a := wordAt v 0
  let s1 := e.rotateRight 6 ^^^ e.rotateRight 11 ^^^ e.rotateRight 25
  let ch := (e &&& wordAt v 5) ^^^ (~~~e &&& wordAt v 6)
  let t1 := wordAt v 7 + s1 + ch + kw
  let s0 := a.rotateRight 2 ^^^ a.rotateRight 13 ^^^ a.rotateRight 22
  let maj := (a &&& wordAt v 1) ^^^ (a &&& wordAt v 2) ^^^ (wordAt v 1 &&& wordAt v 2)
  [t1 + (s0 + maj), a, wordAt v 1, wordAt v 2, wordAt v 3 + t1, e, wordAt v 5, wordAt v 6]

/-- One block of 64 bytes. -/
def shaBlock (h : List Word) (bs : List Byte) : List Word :=
  let ws := (List.range 16).map (fun i => beWord ((bs.drop (4 * i)).take 4))
  let all := (shaSchedule 48 ws.reverse).reverse
  let v := (shaK.zip all).foldl (fun v x => shaRound v (x.1 + x.2)) h
  (h.zip v).map (fun x => x.1 + x.2)

def shaBlocks (h : List Word) : Nat → List Byte → List Word
  | 0, _ => h
  | n + 1, bs => if bs.isEmpty then h else shaBlocks (shaBlock h (bs.take 64)) n (bs.drop 64)

/-- The digest of a message. -/
def sha256 (bs : List Byte) : List Byte :=
  let p := shaPad bs
  (shaBlocks shaH (p.length / 64 + 1) p).flatMap (fun w => (toBytes 4 w.toNat).reverse)

/-- A measurement register extended with a digest (R101). -/
def extendMeas (m d : List Byte) : List Byte := sha256 (m ++ d)

end Sys2Proof.Machine
end

