-- ==== Sys2Proof/Machine/Boot.lean ====
section
/-! DEFINITION. Module reset and bring-up, live update, monitors, alarms, meters and the planner (R19 to R35, R74 to R76, R100, R101, R132 to R134). -/

namespace Sys2Proof.Machine

/-! ## Measurements (R101) -/

/-- MEASi extended with a digest. -/
def State.extendMeas (s : State) (i : Nat) (d : List Byte) : State :=
  { s with boot := { s.boot with meas := modifyAt (fun m => Machine.extendMeas m d) s.boot.meas i } }

/-- The 48 bytes of the quad map (R31). -/
def QuadEntry.byte (e : QuadEntry) : Byte := BitVec.ofNat 8 (e.pq.toNat + b2n e.die * 2 ^ 5 + b2n e.ok * 2 ^ 7)
def State.mapBytes (s : State) : List Byte := s.boot.quadMap.map (fun (e : QuadEntry) => QuadEntry.byte e)

/-- MEAS1 covers the map and the repair record. -/
def State.measureMap (s : State) : State := s.extendMeas 1 (sha256 (s.mapBytes ++ s.boot.repairRecord))

/-! ## Repairs (R31 to R33, R130, R131) -/

/-- A repair is done: MEAS1, the log, the record and vector 1 (R33, R101). Rows of R32 count from 1. -/
def State.repairDone (s : State) (row die item : Nat) : State := s.measureMap.repaired row die item

def State.setMap (s : State) (q : Nat) (f : QuadEntry → QuadEntry) : State :=
  { s with boot := { s.boot with quadMap := modifyAt f s.boot.quadMap q } }

/-- The spare of a die is free. -/
def State.spareOn (s : State) (die : Nat) : Bool := if die = 0 then s.boot.spareFree.1 else s.boot.spareFree.2

/-- The spare of a die is taken. -/
def State.takeSpare (s : State) (die : Nat) : State :=
  let b := s.boot
  { s with boot := { b with spareFree := if die = 0 then (false, b.spareFree.2) else (b.spareFree.1, false) } }

/-- A failed quad goes out of service (R32, R33). -/
def State.markOut (s : State) (q : Nat) : State :=
  let s1 := s.setMap q (fun e => { e with ok := false })
  let s2 : State := { s1 with boot := { s1.boot with remapping := dropNat s1.boot.remapping q } }
  s2.repairDone 2 (q / 24) ((s.boot.quadMap[q]?.map (fun (e : QuadEntry) => e.pq.toNat)).getD 0)

/-- With the spare of a die used, the failed quads of the die that wait go out of service, in the order of their faults. -/
def State.settleRepairs (s : State) (die : Nat) : State :=
  if s.spareOn die then s else runAll (fun (s : State) q => s.markOut q) (s.boot.remapping.filter (fun q => q / 24 == die)) s

/-- A quad that no longer responds cannot save its gangs: they are killed with OUTCOME 2 (R124). -/
def State.quadDead (s : State) (q : Nat) : State :=
  runAll (fun (s : State) (b : Block) => s.killGang b.core b.ent) (s.blocks.filter (fun b => quadOf b.core == q)) s

/-- QUAD_FAILURE_REPAIR: the repairs of a die are serialised in the order of their faults. With a free spare the quad's gangs are
pre-empted and a remap follows; else, or when the quad fails during its own remap, its entry is OK = 0. -/
def State.quadFailure (s : State) (q : Nat) : State :=
  if !s.quadOk q then s
  else if s.inRemap q then (s.markOut q).settleRepairs (q / 24)
  else if s.boot.remapping.contains q then s
  else ({ s with boot := { s.boot with remapping := s.boot.remapping ++ [q] } } : State).settleRepairs (q / 24)

def execQuadFailureRepair (quad : QuadFault) (s : State) : Host.Outcome State Fault Refusal :=
  if Config.quads ≤ quad.quad then .fault .noSuchAgent
  else .next ((if quad.responds then s else s.quadDead quad.quad).quadFailure quad.quad)

/-! ## Bring-up (R34) -/

/-- The map that the repair record gives: logical quad `n` on physical quad `n mod 24` of die `n / 24`, but for the quads that
it names, which stay on their die (R31). -/
def loadMap (record : List (Nat × BitVec 5)) : List QuadEntry :=
  runAll (fun (m : List QuadEntry) (x : Nat × BitVec 5) =>
    let taken := (List.range 24).any (fun i => match m[x.1 / 24 * 24 + i]? with
      | some e => e.pq == x.2
      | none => false)
    if decide (24 < x.2.toNat) || taken then m else modifyAt (fun e => { e with pq := x.2 }) m x.1) record Boot.reset.quadMap

/-- No quad of a die has been repaired: physical quad 24 is its free spare (R31). -/
def spareOf (m : List QuadEntry) (die : Nat) : Bool :=
  (List.range 24).all (fun i => match m[24 * die + i]? with
    | some e => e.pq.toNat == i && e.ok
    | none => false)

/-- The image that verifies: the main one, else the alternate, tried once. -/
def firmwareOf (r : BootReport) : Option Firmware :=
  if Config.verifyImage r.main.image r.main.signature then some r.main
  else if Config.verifyImage r.alt.image r.alt.signature then some r.alt
  else none

/-- A quad that fails its test of step 5 takes its R32 repair: nothing runs on it yet, so its entry takes the free spare at
once; a spare that fails is not free. -/
def State.testedBad (s : State) (die : Bool) (pq : BitVec 5) : State :=
  let d := b2n die
  match (List.range 24).find? (fun i => match s.boot.quadMap[24 * d + i]? with
      | some e => e.pq == pq && e.ok
      | none => false) with
  | some i =>
    let q := 24 * d + i
    if s.spareOn d then ((s.setMap q (fun e => { e with pq := 24 })).takeSpare d).repairDone 1 d 24 else s.markOut q
  | none => if pq = 24 then s.takeSpare d else s

/-- The lanes of a port that step 6 retires. -/
def State.trainPort (s : State) (i : Nat) (l : BitVec 8) : State :=
  let s1 : State := { s with fabric := { s.fabric with ports := modifyAt (fun x => { x with up := l != 0, lanes := l }) s.fabric.ports i } }
  runAll (fun (s : State) (_ : Nat) => s.repairDone 5 0 i) ((List.range 8).filter (fun k => !l.getLsbD k)) s1

/-- A bring-up step that has failed: BOOTFAIL, and no further step. -/
def State.bootFail (s : State) : State := { s with boot := { s.boot with fail := true, report := none } }

/-- A bring-up step is complete; the next one ends after a time that the spec leaves open. -/
def State.bootDone (s : State) (k : Nat) : State :=
  { s with boot := { s.boot with step := k, due := s.halfNs + Config.bringUpTime (k + 1) } }

/-- Bring-up takes its next step: 1 loads the repair record; 2 verifies the image; 3 extends MEAS0; 4 reads the process monitors,
trains the memories and applies spares; 5 loads the L registers and tests the quads; 6 trains the ports; 7 enables the physical
function. -/
def State.bringUp (s : State) (r : BootReport) : State :=
  match s.boot.step with
  | 0 => if r.romOk then ({ s with boot := { s.boot with repairRecord := r.repairRecord } } : State).bootDone 1 else s.bootFail
  | 1 => if (firmwareOf r).isSome then s.bootDone 2 else s.bootFail
  | 2 => match firmwareOf r with
    | some fw => (({ s with boot := { s.boot with fevar := fw.version } } : State).extendMeas 0 (sha256 fw.image)).bootDone 3
    | none => s
  | 3 =>
    let s1 : State := { s with
      boot := { s.boot with absent := runAll addNat r.absentStacks [] }
      power := { s.power with process := r.process } }
    (runAll (fun (s : State) k => s.repairDone 3 (k / 4) k) r.spares s1).bootDone 4
  | 4 =>
    let m := loadMap r.record
    let s1 : State := { s with boot := { s.boot with quadMap := m, spareFree := (spareOf m 0, spareOf m 1) } }
    (runAll (fun (s : State) (x : Bool × BitVec 5) => s.testedBad x.1 x.2) r.badQuads s1.measureMap).bootDone 5
  | 5 =>
    let s1 : State := { s with boot := { s.boot with routes := r.routes, self := r.self, sweepPeriod := r.sweep } }
    (runAll (fun (s : State) i => s.trainPort i (r.laneOk[i]?.getD 0)) (List.range Config.ports) s1).bootDone 6
  | 6 => State.raise (fn := 0) (v := 2) { s with boot := { s.boot with step := 7, report := none } }
  | _ => s

/-- MODULE_RESET: every register at its reset value, and bring-up begins; the host's memory and its record of past reads and
messages are not the module's (assumption 31). -/
def State.moduleReset (s : State) (r : BootReport) : State :=
  { State.reset with
    host := s.host, messages := s.messages, reads := s.reads, agenda := s.agenda
    boot := { Boot.reset with report := some r, due := Config.bringUpTime 1 } }

def execModuleReset (r : BootReport) (s : State) : Host.Outcome State Fault Refusal := .next (s.moduleReset r)

/-- LINK_TRAINING: the widest width and the highest rate that both ends support, this end's being 16 lanes and the sixth rate
above the lowest (R74, R75). -/
def execLinkTraining (width rate : Nat) (s : State) : Host.Outcome State Fault Refusal :=
  .next { s with boot := { s.boot with linkWidth := if width < 16 then width else 16, linkRate := if rate < 6 then rate else 6 } }

/-- UNSUPPORTED_REQUEST (R74): the completion that the host receives. -/
def execUnsupportedRequest (fn : Nat) (_ : HostRequest) (s : State) : Host.Outcome State Fault Refusal :=
  if 16 < fn then .fault .noSuchAgent else .next { s with reads := ⟨[], false, true⟩ :: s.reads }

/-- UPDST takes a status; vector 2 tells of a BOOTSTAT that has changed (R77, R87). -/
def State.setUpdst (s : State) (n : Nat) : State :=
  if s.boot.updst = n then s else ({ s with boot := { s.boot with updst := n } } : State).raise 0 2

/-- LIVE_FIRMWARE_UPDATE (R35): a verified image is measured and takes over, binding being paused for 2 ms, as the repair of row 6
of R32; another is refused. The spec does not say what an update asked for before bring-up step 7 does; the model's choice is
that nothing answers it (assumption 78). -/
def execLiveFirmwareUpdate (fw : Firmware) (s : State) : Host.Outcome State Fault Refusal :=
  if s.boot.step < 7 then .next s
  else if Config.verifyImage fw.image fw.signature then
    let s1 := s.extendMeas 2 (sha256 fw.image)
    .next ((({ s1 with boot := { s1.boot with fevar := fw.version, pausedUntil := s.halfNs + 4000000 } } : State).setUpdst 1).repairDone
      6 0 0)
  else .next (s.setUpdst 2)

/-! ## Monitors and the power alarm (R25 to R28) -/

/-- The hottest die or HBM sensor, in quarters of a degree. The part has such sensors (R25); a sample that lists none reads as
-250 °C, the model's choice (assumption 79). -/
def hottest : List Int → Int
  | [] => -1000
  | x :: xs => if hottest xs < x then x else hottest xs

/-- TMAX: whole degrees, rounded down, as an 8-bit field. R28 gives no value for a hottest sensor below 0 °C or above 255 °C; the
model's choice is the nearest value that the field holds (assumption 79). -/
def tmaxOf (t : Int) : Nat := (clampInt (t / 4) 0 255).toNat

/-- 100 µs and 1 ms in half nanoseconds. -/
def hundredMicro : Nat := 200000
def oneMilli : Nat := 2000000
/-- 10 µs and 1 s: the periods of the meters and of the process monitors (R25, R29). -/
def tenMicro : Nat := 20000
def oneSecond : Nat := 2000000000

/-- The temperature condition of R26, which holds until every sensor reads below 92 °C. -/
def hotNow (was : Bool) (t : Int) : Bool := decide (380 ≤ t) || (was && decide (368 ≤ t))

/-- The coolant condition of R22. -/
def coolantBad (m : Sample) : Bool := decide (180 < m.coolIn) || decide (80 < m.coolOut - m.coolIn)

/-- The arithmetic clock is to be lowered, or to return: at once, or once the passes in progress have ended (R27). -/
def State.tune (s : State) (low : Bool) : State :=
  if s.power.retune.getD s.power.trip = low then s.retuned
  else ({ s with power := { s.power with retune := some low } } : State).retuned

/-- A sample of the monitors. -/
def State.sample (s : State) (m : Sample) : State :=
  let p := s.power
  let t := hottest m.temps
  let hot := hotNow p.hot t
  let droop := !m.droops.isEmpty
  let cond := decide (p.limit * 105 < m.power10 * 100) || droop || hot || coolantBad m
  let s0 : State := { s with power := { p with
    sample := some m
    samples := s.halfNs / oneMicro
    power := m.power1000
    tmax := tmaxOf t
    hot := hot
    therm := hot || coolantBad m
    condition := cond
    alarm := p.alarm || cond
    lastCondition := if cond then s.halfNs else p.lastCondition
    droop := droop || (p.droop && decide (s.halfNs < p.lastDroop + hundredMicro))
    lastDroop := if droop then s.halfNs else p.lastDroop
    lastHot := if 400 ≤ t then s.halfNs else p.lastHot } }
  let s1 := if 420 ≤ t then s0.tune true else s0
  if decide (460 ≤ t) && !p.stopped then s1.emergency.raise 0 0 else s1

/-- MONITOR_SAMPLE: one sample in each µs of timebase. -/
def execMonitorSample (m : Sample) (s : State) : Host.Outcome State Fault Refusal :=
  .next (if s.power.samples < s.halfNs / oneMicro then s.sample m else s)

/-- POWER_ALARM_CLEAR: no condition has held for 100 µs. -/
def execPowerAlarmClear (s : State) : Host.Outcome State Fault Refusal :=
  .next (if s.power.alarm && !s.power.condition && decide (s.power.lastCondition + hundredMicro ≤ s.halfNs) then
    { s with power := { s.power with alarm := false } } else s)

/-- THERMAL_TRIP_END: every sensor has read below 100 °C for 1 ms. -/
def execThermalTripEnd (s : State) : Host.Outcome State Fault Refusal :=
  .next (if s.power.trip && decide (s.power.lastHot + oneMilli ≤ s.halfNs) then s.tune false else s)

/-- PROCESS_MONITOR_READ: once in each second of timebase, after the read of bring-up step 4 (R25, R34). -/
def execProcessMonitorRead (counts : List Nat) (s : State) : Host.Outcome State Fault Refusal :=
  .next (if decide (4 ≤ s.boot.step) && decide (s.power.processReads < s.halfNs / oneSecond) then
    { s with power := { s.power with process := counts, processReads := s.halfNs / oneSecond } } else s)

/-! ## Energy (R29, R30, R134) -/

def sumOf (xs : List (Nat × Nat)) : Nat := xs.foldl (fun n x => n + x.2) 0

/-- Meters with the energies of an update added. -/
def addMeters (ms : List (Nat × Nat)) (xs : List (Nat × Nat)) : List (Nat × Nat) :=
  runAll (fun ms (x : Nat × Nat) => insertNat ms x.1 (lookupNat 0 ms x.1 + x.2)) xs ms

/-- Energy charged to a grid's blocks, in µJ; at the first update where ENERGY, in whole mJ, reaches ECAP the node ends with
OUTCOME 3 (R134). -/
def State.chargeGrid (s : State) (g : Nat × BitVec 16) (e : Nat) : State :=
  let x := s.node g.1
  if x.gen != g.2 || x.event || !(x.st == .running || x.st == .ending) then s
  else
    let sum := x.micro + e
    let total := if x.energy + sum / 1000 < 2 ^ 32 then x.energy + sum / 1000 else 2 ^ 32 - 1
    let s1 := s.modNode g.1 (fun y => { y with energy := total, micro := sum % 1000 })
    if x.ecap != 0 && decide (x.energy < x.ecap) && decide (x.ecap ≤ total) then (s1.endNode g.1 3).raise (x.tenant + 1) 4 else s1

/-- The energy of a unit on the accounts that used it since the latest update, in proportion to the slots, passes or requests
used, rounded down (assumption 80). -/
def sharesOf (us : List Usage) (unit : Nat) (x : Nat × Nat) : List (Usage × Nat) :=
  let mine := us.filter (fun u => u.unit == unit && u.num == x.1)
  let total := mine.foldl (fun n u => n + u.count) 0
  mine.map (fun u => (u, x.2 * u.count / total))

/-- What an update charges (R30): idle and leakage energy is on no account. -/
def State.charges (s : State) (e : EnergyReport) : List (Usage × Nat) :=
  e.cores.flatMap (sharesOf s.power.used 0) ++ e.engines.flatMap (sharesOf s.power.used 1)
    ++ e.requests.flatMap (sharesOf s.power.used 2)

/-- A tenant and its grid are charged. -/
def State.charge (s : State) (u : Usage) (e : Nat) : State :=
  let s1 := s.modTenant u.tenant (fun t => { t with energy := t.energy + e, spent := t.spent + e })
  match u.grid with
  | some g => s1.chargeGrid g e
  | none => s1

/-- ENERGY_METER_UPDATE: the module meter is never less than the sum of the tenants' (R30). -/
def State.meterUpdate (s : State) (e : EnergyReport) : State :=
  let p := s.power
  let cs := s.charges e
  let sum := cs.foldl (fun n x => n + x.2) 0
  let whole := if e.module < sum then sum else e.module
  let s1 : State := { s with power := { p with
    coreMeters := addMeters p.coreMeters (e.cores.filter (fun x => decide (x.1 < Config.cores)))
    engineMeters := addMeters p.engineMeters (e.engines.filter (fun x => decide (x.1 < Config.quads)))
    module := p.module + whole
    spent := p.spent + whole
    meterTime := s.time
    updates := s.halfNs / tenMicro
    used := [] } }
  runAll (fun (s : State) (x : Usage × Nat) => s.charge x.1 x.2) cs s1

/-- ENERGY_METER_UPDATE: one update in each 10 µs of timebase (R29). -/
def execEnergyMeterUpdate (e : EnergyReport) (s : State) : Host.Outcome State Fault Refusal :=
  .next (if s.power.updates < s.halfNs / tenMicro then s.meterUpdate e else s)

/-! ## The planner (R24, R132, R133) -/

/-- Work of a tenant: a READY, RUNNING or ENDING grid. -/
def Node.works (x : Node) : Bool := !x.event && (x.st == .ready || x.st == .running || x.st == .ending)
def State.active (s : State) (t : Nat) : Bool := s.nodes.any (fun x => x.tenant == t && x.works)

/-- G of a tenant: none for one that is not enabled (assumption 81). -/
def State.share (s : State) (sum t : Nat) : Nat :=
  let x := s.tenant t
  if !x.enable then 0 else if sum ≤ s.power.limit then x.tbudget else x.tbudget * s.power.limit / sum

/-- The enabled tenants. -/
def State.enabled (s : State) : List Nat := (List.range Config.tenants).filter (fun t => (s.tenant t).enable)

/-- The new account of a tenant. -/
def nextBudget (b g h : Int) (e : Nat) : Int :=
  let x := b + g + h - e
  if 10 * (g + h) < x then 10 * (g + h) else x

/-- A tenant starts an interval with its new account; going negative it is paced, and vector 4 tells it. -/
def State.setBudget (s : State) (t : Nat) (b : Int) : State :=
  let was := (s.tenant t).paced
  let now := decide (b < 0)
  let s1 := s.modTenant t (fun x => { x with budget := b, spent := 0, paced := now })
  let s2 : State := { s1 with nodes := s1.nodes.map (fun x =>
    if x.tenant == t && x.works then { x with paced := now } else if x.tenant == t && !now then { x with paced := false } else x) }
  if now && !was then s2.raise (t + 1) 4 else s2

/-- A planning interval starts: a new LIMIT takes effect, then the accounts are computed in whole mJ. -/
def State.plan (s : State) : State :=
  let s0 : State := { s with power := { s.power with
    limit := s.power.newLimit.getD s.power.limit, newLimit := none, interval := s.halfNs / oneMilli } }
  let ts := List.range Config.tenants
  let sum := s0.enabled.foldl (fun n t => n + (s0.tenant t).tbudget) 0
  let gs := ts.foldl (fun n t => n + s0.share sum t) 0
  let charged := ts.foldl (fun n t => n + (s0.tenant t).spent) 0
  let idle := (s0.power.spent - charged) / 1000
  let head := if s0.power.alarm then 0 else s0.power.limit - idle - gs
  let act := (ts.filter s0.active).length
  let s1 := runAll (fun (s : State) t =>
    let h := if s0.active t && act != 0 then head / act else 0
    s.setBudget t (nextBudget (s0.tenant t).budget (s0.share sum t) h ((s0.tenant t).spent / 1000))) ts s0
  { s1 with power := { s1.power with spent := 0 } }

/-- PLANNING_INTERVAL: Fevar's planner starts one interval at each ms of timebase (R24, R132). -/
def execPlanningInterval (s : State) : Host.Outcome State Fault Refusal :=
  .next (if decide (7 ≤ s.boot.step) && decide (s.power.interval < s.halfNs / oneMilli) then s.plan else s)

/-- PWRLIM_WRITE by the physical function: LIMIT, held to 1,400 to 2,200, from the next interval on (R23, R24). -/
def State.writeLimit (s : State) (v : Nat) : State :=
  let l := field v 0 12
  { s with power := { s.power with newLimit := some (if l < Config.powerMin then Config.powerMin else if Config.powerMax < l then Config.powerMax else l) } }
def execPwrlimWrite (v : Word) (s : State) : Host.Outcome State Fault Refusal :=
  .next (if s.boot.step < 7 then s else s.writeLimit v.toNat)

/-! ## Remaps and other repairs (R32, R130) -/

/-- Gangs saved for the remap of a quad come back to their cores. -/
def State.bringBack (s : State) (q : Nat) : State :=
  let mine := s.allWork.filter (fun w => w.restore && w.members.any (fun m => match m.image with
    | some i => i.remap && quadOf i.core == q
    | none => false))
  runAll (fun (s : State) (w : Work) =>
    let p := w.members.filterMap (fun m => m.image.map (fun i => (m, i.core)))
    match (s.node w.node).launch with
    | some l => if p.all (fun y => s.quadOk (quadOf y.2) && (s.roomFor l s.blocks y.2 y.1).isSome) && s.banksFit q (w.members.filter (fun m => m.role != .secondary))
        then s.restoreGang w p else s
    | none => s) mine s

/-- QUAD_REMAP: once every gang on the quad is saved, its entry takes the die's spare, which is physical quad 24 (R31, R130); the
spare's tile starts zeroed. The repairs that waited for this one follow (R33). -/
def State.remap (s : State) (q : Nat) (pq : BitVec 5) : State :=
  let die := q / 24
  if !s.inRemap q || !s.spareOn die || pq != 24 || s.blocks.any (fun b => quadOf b.core == q) then s
  else
    let s1 := (s.setMap q (fun e => { e with pq := pq })).takeSpare die
    let s2 : State := { s1 with
      boot := { s1.boot with remapping := dropNat s1.boot.remapping q }
      bstore := s1.bstore.zero (q * Config.tileBytes) Config.tileBytes }
    (((s2.setTile q 0 (s2.tile q).2).repairDone 1 die pq.toNat).bringBack q).settleRepairs die

def execQuadRemap (quad : Nat) (pq : BitVec 5) (s : State) : Host.Outcome State Fault Refusal :=
  if Config.quads ≤ quad then .fault .noSuchAgent else .next (s.remap quad pq)

/-- HBM_ROW_SPARE: contents and addresses stay as they are. -/
def execHbmRowSpare (stack : Nat) (s : State) : Host.Outcome State Fault Refusal :=
  if 8 ≤ stack then .fault .noSuchAgent else .next (s.repairDone 3 (stack / 4) stack)

/-- The leaves of a tenant that map a tier-1 frame, by their page's address. -/
def State.mappings (s : State) (t frame : Nat) : List (Nat × Leaf) :=
  (s.leafAddrs t).filterMap (fun va => match s.walk t va with
    | .ok l => if l.tier == 0 && decide (l.pfn ≤ frame) && decide (frame < l.pfn + l.size / 65536) then
        some (va + (frame - l.pfn) * 65536, l) else none
    | _ => none)

/-- The HBM stack of a tier-1 frame (R17, R184). -/
def stackOf (frame : Nat) : Nat := frame * 65536 / Config.stackBytes

/-- HBM_PAGE_RETIRE: the tenants that map a retired page are told with TYPE 4; the log names each stack that loses pages. -/
def execHbmPageRetire (frames : List Nat) (s : State) : Host.Outcome State Fault Refusal :=
  let s1 : State := { s with boot := { s.boot with retired := runAll addNat frames s.boot.retired } }
  let s2 := runAll (fun (s : State) f => runAll (fun (s : State) t => runAll (fun (s : State) (x : Nat × Leaf) =>
    s.notify t ⟨4, x.1, false, x.2.heatW, x.2.heatR, x.2.tier, none⟩) (s.mappings t f) s) (List.range Config.tenants) s) frames s1
  .next (runAll (fun (s : State) k => s.repairDone 4 (k / 4) k) (runAll addNat (frames.map stackOf) []) s2)

/-- FABRIC_LANE_RETIRE: the port runs on; with no working lane it is down (R34). -/
def execFabricLaneRetire (port lane : Nat) (s : State) : Host.Outcome State Fault Refusal :=
  if decide (Config.ports ≤ port) || decide (8 ≤ lane) then .fault .noSuchAgent
  else
    let s1 := s.modPort port (fun x =>
      let l := x.lanes &&& ~~~(BitVec.ofNat 8 (2 ^ lane))
      { x with lanes := l, up := x.up && l != 0 })
    .next (s1.repairDone 5 0 port)

/-- MODULE_HOT_SWAP: the communicators with a member on the module fail (R60). -/
def execModuleHotSwap (module : BitVec 11) (s : State) : Host.Outcome State Fault Refusal :=
  let cs := s.coll.comms.filter (fun c => c.ranks.any (fun r => r.1 == module.toNat))
  .next ((runAll (fun (s : State) (c : Comm) => s.failComm c.id true) cs s).repairDone 7 0 0)

/-! ## Errors that no access finds (R284, R285, R290) -/

/-- MEMORY_SCRUB: every uncorrectable granule is poisoned, with a record of the physical function. -/
def execMemoryScrub (s : State) : Host.Outcome State Fault Refusal :=
  .next (runAll (fun (s : State) (l : Latent) => s.found Reader.none l) s.latent s)

/-- A gang's images go, and LIVE falls by its blocks. -/
def State.dropImages (s : State) (node first : Nat) : State :=
  let x := s.node node
  let mine (i : Image) : Bool := i.rec_.node == node && i.rec_.gen == x.gen && i.rec_.block - i.rec_.rank == first
  let n := ((s.images.filter mine).filter (fun i => i.verify != .secondary)).length
  { s.modNode node (fun y => { y with live := y.live - n }) with images := s.images.filter (fun i => !mine i) }

/-- HIDDEN_STRUCTURE_ERROR (R285, R128). -/
def State.hiddenError (s : State) (place : HiddenPlace) (synd : Nat) : State :=
  match place with
  | .slotEntry core ent => match s.block? core ent with
    | some b => (s.tenantRecord b.tenant (b.record { kind := 0x32, sev := 2, src := 12, synd := synd })).killGang core ent
    | none => s
  | .image node block => match s.images.find? (fun i => i.rec_.node == node && i.rec_.block == block) with
    | some i =>
      let r : ErrRec := {
        kind := 0x32, sev := 2, src := 12, core := i.core, synd := synd, gen := i.rec_.gen.toNat, node := node, block := block }
      ((s.tenantRecord i.rec_.tenant r).dropImages node (i.rec_.block - i.rec_.rank)).endNode node 2
    | none => s
  | .imageHeader node block format lanes =>
    { s with images := s.images.map (fun i =>
        if i.rec_.node == node && i.rec_.block == block then { i with format := format, lanes := lanes } else i) }
  | .nodeEntry n =>
    let x := s.node n
    if x.st == .free then s
    else
      let gangs := (s.blocks.filter (fun b => b.rec_.node == n && b.rec_.gen == x.gen)).map Block.gang
      let s1 := runAll (fun (s : State) g => s.stopGang g) gangs s
      let gone := s1.images.filter (fun i => i.rec_.node == n && i.rec_.gen == x.gen)
      let s2 : State := { s1.modNode n (fun y => { y with live := y.live - (gone.filter (fun i => i.verify != .secondary)).length }) with
        images := s1.images.filter (fun i => !gone.contains i) }
      s2.retire n 2 nodeFuel
  | .unattributed =>
    let z : State := { s.emergency with power := s.power }
    z.pfRecord { kind := 0x40, sev := 3, src := 12, synd := synd }

def execHiddenStructureError (place : HiddenPlace) (syndrome : Word) (s : State) : Host.Outcome State Fault Refusal :=
  .next (s.hiddenError place syndrome.toNat)

/-- CORRECTED_ERROR of a unit of R292: a record of KIND 0x30; further errors of the unit in the millisecond after it are merged into the next one. -/
def State.corrected (s : State) (c : Corrected) : State :=
  let unit := c.src.toNat * 4096 + c.core % 4096
  match s.merged.find? (fun x => x.1 == unit) with
  | some (_, since, n) =>
    if s.halfNs < since + oneMilli then
      { s with merged := (unit, since, if n < 65535 then n + 1 else n) :: s.merged.filter (fun x => x.1 != unit) }
    else record n
  | none => record 0
where
  record (n : Nat) : State :=
    let unit := c.src.toNat * 4096 + c.core % 4096
    let z : State := { s with merged := (unit, s.halfNs, 0) :: s.merged.filter (fun x => x.1 != unit) }
    z.pfRecord
      { kind := 0x30, sev := 0, src := c.src.toNat, core := c.core % 4096, paddr := c.paddr.toNat, synd := c.syndrome.toNat + n * 2 ^ 16 }

def execCorrectedError (c : Corrected) (s : State) : Host.Outcome State Fault Refusal :=
  .next (if c.src.toNat ≤ 13 then s.corrected c else s)

end Sys2Proof.Machine
end

