-- ==== Sys2Proof/Machine/Control.lean ====
section
/-! DEFINITION. Control flow: NOP, BRA, BRX, CALL, CALLX, RET, EXIT, DEMOTE, YIELD, TRAP, TRET, LOOP, BKPT (R343 to R354). -/

namespace Sys2Proof.Machine

/-! ## Transfers (R344, R345) -/

/-- The target of a block offset. -/
def Ctx.blockTarget (c : Ctx) (off : Word) : CodeAddr :=
  BitVec.ofInt 54 ((blockOfPc c.th.pc.toNat : Int) + 64 * off.toInt)

/-- The checks of R323 on a target, made at the transferring instruction. -/
def transfer (s : State) (c : Ctx) (t : CodeAddr) (entry : Bool) (k : State → IBlock → LaneOut) : LaneOut :=
  match s.reach c.id c.blk.tenant t.toNat c.th.pc.toNat entry false with
  | (s1, .ok b) => k s1 b
  | (s1, .hold) => .hold t.toNat false s1
  | (s1, .lines) => .wait .lines s1
  | (s1, .trap n info) => .trap { kind := n, addr := t.toNat, info := info } s1

/-- A taken branch. -/
def branchTo (s : State) (c : Ctx) (t : CodeAddr) : LaneOut := transfer s c t false (fun s1 _ => .jump (t + 4) s1)

/-- A register target: poison is consumed, and a misaligned or oversized one takes the alignment trap (R344, R347). -/
def registerTarget (s : State) (c : Ctx) (a : Src) (imm : Word) (k : State → CodeAddr → LaneOut) : LaneOut :=
  let x := c.src s imm true a
  if x.poison && !c.th.dem then c.poisoned s 0x02 0 0
  else if field x.nat 54 10 != 0 || x.nat % 64 != 0 then .trap { kind := 0x01, addr := x.nat } s
  else k s (BitVec.ofNat 54 x.nat)

/-- `CALL` and `CALLX` with slide `n` (R152). -/
def callTo (s : State) (c : Ctx) (n : Nat) (t : CodeAddr) : LaneOut :=
  if c.th.depth == 255 then .trap { kind := 0x04 } s
  else transfer s c t true (fun s1 k =>
    if c.blk.rec_.frame < c.th.fbase + n + k.frame then .trap { kind := 0x05 } s1
    else match s1.pushLink c.id (c.th.depth + 1) (BitVec.ofNat 54 (blockOfPc c.th.pc.toNat + 68)) n c.th.frame with
      | (s2, .hold va) => .hold va true s2
      | (s2, .killed) => .gone s2
      | (s2, .ready) =>
        .jump (t + 4) (s2.modThread c.id (fun th =>
          { th with fbase := th.fbase + n, depth := th.depth + 1, frame := k.frame })))

/-- A call outside the last slot of its block is illegal (R322, R325). -/
def callMisplaced (s : State) (c : Ctx) : Bool :=
  match s.ibufFind c.id c.blk.tenant (blockOfPc c.th.pc.toNat) with
  | some k => slotOfPc c.th.pc.toNat + 1 != k.nslot
  | none => false

/-- The outcome of a call. -/
def callOutcome (i : Instr) (body : State → Ctx → LaneOut) (s : State) : Host.Outcome State Fault Refusal :=
  match useOf i with
  | some u => .next (runShedWith u callMisplaced (fun _ => body) s)
  | none => .next s

/-! ## RET, TRET, EXIT -/

/-- `RET` (R153, R349): the return block is checked before anything is popped. -/
def retLane (s : State) (c : Ctx) : LaneOut :=
  if c.th.depth = 0 then .trap { kind := 0x04 } s
  else match s.readLink c.id c.th.depth c.th.pc.toNat with
    | (s1, .hold va, _) => .hold va false s1
    | (s1, .killed, _) => .gone s1
    | (s1, .ready, pc, n, size) =>
      transfer s1 c (BitVec.ofNat 54 (blockOfPc pc)) false (fun s2 _ =>
        .jump (BitVec.ofNat 54 pc) (s2.modThread c.id (fun th => th.popFrame n size th.pc)))

/-- `TRET` (R354). -/
def tretLane (s : State) (c : Ctx) : LaneOut :=
  let x := c.src s 0 true (.v 2)
  if x.poison && !c.th.dem then c.poisoned s 0x02 0 0
  else if c.th.depth = 0 then .trap { kind := 0x04 } s
  else if field x.nat 54 10 != 0 || !([4, 16, 28, 40, 52].contains (x.nat % 64)) then .trap { kind := 0x01, addr := x.nat } s
  else transfer s c (BitVec.ofNat 54 (blockOfPc x.nat)) false (fun s1 k =>
    if k.nslot ≤ slotOfPc x.nat then .trap { kind := 0x01, addr := x.nat } s1
    else match s1.readLink c.id c.th.depth c.th.pc.toNat with
      | (s2, .hold va, _) => .hold va false s2
      | (s2, .killed, _) => .gone s2
      | (s2, .ready, _, n, size) =>
        .jump (BitVec.ofNat 54 x.nat) ((s2.modThread c.id (fun th => th.popFrame n size th.pc)).clearLatches c.id))

/-- A thread that has exited (R141, R351): its registers are free, its loads in flight discarded. -/
def Thread.exit (th : Thread) : Thread :=
  { th with status := .exited, regs := [], spills := [], pend := [], loads := [], chain := none, wait := none,
            trapNext := none, traps := [], yieldLeft := 0 }

/-- `EXIT` (R141, R307, R351): the token is left without a holder, the latches are invalid, and a rendezvous that waited
for this thread alone executes. -/
def exitLane (s : State) (c : Ctx) : LaneOut :=
  c.compare s (fun s =>
    let s1 := (s.modThread c.id Thread.exit).modBlock c.id.core c.id.ent (fun b =>
      { b with token := if b.token == some c.id.tid then none else b.token })
    .gone ((s1.clearLatches c.id).tryMeet c.id))

/-! ## DEMOTE, YIELD, TRAP, BKPT, LOOP -/

/-- `DEMOTE` (R168): an `ELECT` of block scope that waited for this thread alone executes (R170). -/
def demoteLane (s : State) (c : Ctx) : LaneOut :=
  .done ((s.modThread c.id (fun th => { th with dem := true })).tryElect c.id.core c.id.ent)

/-- `YIELD` (R174): held in a `DET` grid; elsewhere not ready for the next 32 free cycles of the partition, the cycle of
this issue being counted before them. -/
def yieldLane (s : State) (c : Ctx) : LaneOut :=
  if c.blk.flag 0 then .park .yield (s.seqPc c) s
  else .done (s.modThread c.id (fun th => { th with yieldLeft := 33 }))

/-- `TRAP n` (R353): the restart PC is the next one, or the chain's first inside a chain. -/
def trapLane (n : Nat) (s : State) (c : Ctx) : LaneOut :=
  if c.th.chain.isSome then .trap { kind := 0x20 + n } s
  else .gone ((s.modThread c.id (fun th => { th with pc := s.seqPc c })).takeTrap c.id { kind := 0x20 + n } false c.th.pc.toNat)

/-- `LOOP` (R350). -/
def loopLane (p : Loop) (s : State) (c : Ctx) : LaneOut :=
  let n := c.src s 0 false (.v p.reg)
  if n.poison && !c.th.dem then c.poisoned s 0x02 0 0
  else if n.nat = 0 then .done s
  else
    let wr (s : State) : State := s.writeVec c.id ⟨false, false, 0, p.reg⟩ false ⟨BitVec.ofNat 64 (n.nat - 1), n.poison⟩ true
    if n.nat = 1 then .done (wr s)
    else
      let t := c.blockTarget p.off
      transfer s c t false (fun s1 _ => .jump (t + 4) (wr s1))

/-! ## The instructions -/

def execNop (p : Plain) (s : State) : Host.Outcome State Fault Refusal := instr (.nop p) (fun s _ => .done s) s
def execBra (p : Branch) (s : State) : Host.Outcome State Fault Refusal :=
  instr (.bra p) (fun s c => branchTo s c (c.blockTarget p.off)) s
def execBrx (p : BranchX) (s : State) : Host.Outcome State Fault Refusal :=
  instr (.brx p) (fun s c => registerTarget s c p.a p.imm (fun s t => branchTo s c t)) s
def execCall (p : Call) (s : State) : Host.Outcome State Fault Refusal :=
  callOutcome (.call p) (fun s c => callTo s c p.n.toNat (c.blockTarget p.off)) s
def execCallx (p : CallX) (s : State) : Host.Outcome State Fault Refusal :=
  callOutcome (.callx p) (fun s c => registerTarget s c p.a p.imm (fun s t => callTo s c p.n.toNat t)) s
def execRet (p : Plain) (s : State) : Host.Outcome State Fault Refusal := instr (.ret p) retLane s
def execExit (p : Plain) (s : State) : Host.Outcome State Fault Refusal := instr (.exit p) exitLane s
def execDemote (p : Plain) (s : State) : Host.Outcome State Fault Refusal :=
  instr (.demote p) demoteLane s
def execYield (p : Plain) (s : State) : Host.Outcome State Fault Refusal := instr (.yield p) yieldLane s
def execTrap (p : TrapN) (s : State) : Host.Outcome State Fault Refusal := instr (.trap p) (trapLane p.n.toNat) s
def execTret (p : Plain) (s : State) : Host.Outcome State Fault Refusal := instr (.tret p) tretLane s
def execLoop (p : Loop) (s : State) : Host.Outcome State Fault Refusal := instr (.loop p) (loopLane p) s
def execBkpt (p : Bkpt) (s : State) : Host.Outcome State Fault Refusal := instr (.bkpt p) (fun s _ => .trap { kind := 0x15 } s) s

end Sys2Proof.Machine
end

