-- ==== Sys2Proof/Machine/FloatOps.lean ====
section
/-! DEFINITION. Floating-point, packed, conversion, quantisation and special-function instructions (R375 to R393). -/

namespace Sys2Proof.Machine

/-! ## One lane of each operand form -/

/-- A result of `wide` or narrow width, with flags for a condition register and for `FPSTAT`. -/
def Ctx.fpResult (c : Ctx) (s : State) (d : Dst) (wide poison : Bool) (r : Nat × BitVec 5) (fl : Option Flags) : LaneOut :=
  .done ((s.writeDst c d wide ⟨BitVec.ofNat 64 r.1, poison⟩ fl).raiseFP c r.2)

/-- VSUB of the block's contract (R259). -/
def Ctx.flush (c : Ctx) : Bool := c.blk.contract.vsub

def fp1 (p : Fp1) (f : Ctx → Nat → Nat × BitVec 5) (s : State) (c : Ctx) : LaneOut :=
  let a := c.src s p.imm p.ty.wide p.a
  c.fpResult s p.d p.ty.wide a.poison (f c a.nat) none

/-- Two sources of the type's width. -/
def fp2 (p : Fp2) (f : Ctx → Nat → Nat → Nat × BitVec 5) (s : State) (c : Ctx) : LaneOut :=
  let a := c.src s p.imm p.ty.wide p.a
  let b := c.src s p.imm p.ty.wide p.b
  c.fpResult s p.d p.ty.wide (a.poison || b.poison) (f c a.nat b.nat) none

def fp3 (p : Fp3) (f : Ctx → Nat → Nat → Nat → Nat × BitVec 5) (s : State) (c : Ctx) : LaneOut :=
  let a := c.src s 0 p.ty.wide p.a
  let b := c.src s 0 p.ty.wide p.b
  let q := c.src s 0 p.ty.wide p.c
  c.fpResult s p.d p.ty.wide (a.poison || b.poison || q.poison) (f c a.nat b.nat q.nat) none

/-! ## Scalars (R377 to R381) -/

def faddR (f : Fmt) (md : Rnd) (c : Ctx) (a b : Nat) : Nat × BitVec 5 := f.addR md c.flush (f.read c.flush a) (f.read c.flush b)
def fsubR (f : Fmt) (md : Rnd) (c : Ctx) (a b : Nat) : Nat × BitVec 5 :=
  f.addR md c.flush (f.read c.flush a) (f.read c.flush b).negate
def fmulR (f : Fmt) (md : Rnd) (c : Ctx) (a b : Nat) : Nat × BitVec 5 := f.mulR md c.flush (f.read c.flush a) (f.read c.flush b)
def ffmaR (f : Fmt) (md : Rnd) (c : Ctx) (a b q : Nat) : Nat × BitVec 5 :=
  f.fmaR md c.flush c.blk.contract.vfma (f.read c.flush a) (f.read c.flush b) (f.read c.flush q)

def execFadd (p : Fp2) (s : State) : Host.Outcome State Fault Refusal := instr (.fadd p) (fp2 p (faddR (tyFmt p.ty) p.rnd)) s
def execFsub (p : Fp2) (s : State) : Host.Outcome State Fault Refusal := instr (.fsub p) (fp2 p (fsubR (tyFmt p.ty) p.rnd)) s
def execFmul (p : Fp2) (s : State) : Host.Outcome State Fault Refusal := instr (.fmul p) (fp2 p (fmulR (tyFmt p.ty) p.rnd)) s
def execFfma (p : Fp3) (s : State) : Host.Outcome State Fault Refusal := instr (.ffma p) (fp3 p (ffmaR (tyFmt p.ty) p.rnd)) s
def execFmin (p : Fp2) (s : State) : Host.Outcome State Fault Refusal :=
  instr (.fmin p) (fp2 p (fun c a b => ((tyFmt p.ty).minmax c.flush false a b, 0))) s
def execFmax (p : Fp2) (s : State) : Host.Outcome State Fault Refusal :=
  instr (.fmax p) (fp2 p (fun c a b => ((tyFmt p.ty).minmax c.flush true a b, 0))) s

/-- `FCMP` (R379): the result tells whether the comparison holds, the flags tell the relation. -/
def fcmpLane (p : Fcmp) (s : State) (c : Ctx) : LaneOut :=
  let a := c.src s p.imm p.ty.wide p.a
  let b := c.src s p.imm p.ty.wide p.b
  let r := (tyFmt p.ty).relation c.flush a.nat b.nat
  c.fpResult s p.d false (a.poison || b.poison) (if fcmpHolds p.cmp r then 2 ^ 32 - 1 else 0, 0) (some r)
def execFcmp (p : Fcmp) (s : State) : Host.Outcome State Fault Refusal := instr (.fcmp p) (fcmpLane p) s

def execFrnd (p : Fp1) (s : State) : Host.Outcome State Fault Refusal :=
  instr (.frnd p) (fp1 p (fun c a => (tyFmt p.ty).integral p.rnd c.flush a)) s

/-- `FCLS` (R381): raw bits, no flush. -/
def fclsLane (p : Fp2) (s : State) (c : Ctx) : LaneOut :=
  let a := c.src s p.imm p.ty.wide p.a
  let b := c.src s p.imm false p.b
  let r := 2 ^ (tyFmt p.ty).cls a.nat &&& b.nat
  c.fpResult s p.d false (a.poison || b.poison) (r, 0) (some ⟨false, r == 0, false, false⟩)
def execFcls (p : Fp2) (s : State) : Host.Outcome State Fault Refusal := instr (.fcls p) (fclsLane p) s

/-- `FSCL` (R380). -/
def fsclLane (p : Fp2) (s : State) (c : Ctx) : LaneOut :=
  let a := c.src s p.imm p.ty.wide p.a
  let b := c.src s p.imm false p.b
  c.fpResult s p.d p.ty.wide (a.poison || b.poison) ((tyFmt p.ty).scale p.rnd c.flush a.nat (signedOf 32 b.nat)) none
def execFscl (p : Fp2) (s : State) : Host.Outcome State Fault Refusal := instr (.fscl p) (fsclLane p) s

/-! ## Packed pairs (R382, R383) -/

/-- Both halves of packed operands. -/
def pairwise (f : Nat → Nat → Nat → Nat × BitVec 5) (a b q : Nat) : Nat × BitVec 5 :=
  let lo := f (field a 0 16) (field b 0 16) (field q 0 16)
  let hi := f (field a 16 16) (field b 16 16) (field q 16 16)
  (lo.1 + hi.1 * 2 ^ 16, lo.2 ||| hi.2)

def execHadd2 (p : Fp2) (s : State) : Host.Outcome State Fault Refusal :=
  instr (.hadd2 p) (fp2 p (fun c a b => pairwise (fun x y _ => faddR (tyFmt p.ty) p.rnd c x y) a b 0)) s
def execHmul2 (p : Fp2) (s : State) : Host.Outcome State Fault Refusal :=
  instr (.hmul2 p) (fp2 p (fun c a b => pairwise (fun x y _ => fmulR (tyFmt p.ty) p.rnd c x y) a b 0)) s
def execHfma2 (p : Fp3) (s : State) : Host.Outcome State Fault Refusal :=
  instr (.hfma2 p) (fp3 p (fun c a b q => pairwise (ffmaR (tyFmt p.ty) p.rnd c) a b q)) s

def hmnmxLane (p : Hmnmx) (s : State) (c : Ctx) : LaneOut :=
  let a := c.src s p.imm false p.a
  let b := c.src s p.imm false p.b
  c.fpResult s p.d false (a.poison || b.poison)
    (pairwise (fun x y _ => ((tyFmt p.ty).minmax c.flush p.max x y, 0)) a.nat b.nat 0) none
def execHmnmx2 (p : Hmnmx) (s : State) : Host.Outcome State Fault Refusal := instr (.hmnmx2 p) (hmnmxLane p) s

/-- The flags of a dot product from its result's bits (R383). -/
def dotFlags (special infinite : Bool) (r : Nat) (inexact : Bool) : BitVec 5 :=
  let ex := field r 23 8
  flagIf (ex == 255 && field r 0 23 != 0 && !special) fNV ||| flagIf (ex == 255 && field r 0 23 == 0 && !infinite) fOF
    ||| flagIf inexact fNX ||| flagIf (inexact && ex == 0 && field r 0 23 != 0) fUF

/-- `HDOT2` (R383). -/
def hdot2R (f : Fmt) (c : Contract) (a b q : Nat) : Nat × BitVec 5 :=
  let as := [f.read false (field a 0 16), f.read false (field a 16 16)]
  let bs := [f.read false (field b 0 16), f.read false (field b 16 16)]
  let acc := F32.read false q
  let r := dotContract c f as bs acc
  let out := F32.round .rne false r.1
  let inputs := acc :: (as ++ bs)
  (out.1, dotFlags (inputs.any Num.isNaN) (inputs.any Num.isInf) out.1 (r.2 || out.2 &&& fNX != 0))
def execHdot2 (p : Fp3) (s : State) : Host.Outcome State Fault Refusal :=
  instr (.hdot2 p) (fp3 p (fun c => hdot2R (tyFmt p.ty) c.blk.contract)) s

/-! ## Conversions (R386, R387) -/

/-- A converted result widened to its register: I8 and I16 by sign, the others by zeros (R386). -/
def cvtWiden (t : Ty) (x : Nat) : Nat :=
  match t with
  | .i8 => lowBits 32 (signedOf 8 x)
  | .i16 => lowBits 32 (signedOf 16 x)
  | _ => x

/-- `CVT` (R386): VSUB flushes floating sources and results, never F4. -/
def cvtR (p : Cvt) (flush : Bool) (x : Nat) : Nat × BitVec 5 :=
  let v := readNum p.sty flush x
  let r := convertNum p.dty p.rnd flush (convertZero p.sty p.rnd v.1)
  (cvtWiden p.dty r.1, v.2 ||| r.2)

def cvtLane (p : Cvt) (s : State) (c : Ctx) : LaneOut :=
  let a := c.src s p.imm p.sty.wide p.a
  c.fpResult s p.d p.dty.wide a.poison (cvtR p c.flush a.nat) none
def execCvt (p : Cvt) (s : State) : Host.Outcome State Fault Refusal := instr (.cvt p) (cvtLane p) s

/-- Element `i` of a word replaced. -/
def putElem (w i q code : Nat) : Nat := q - field q (w * i) w * 2 ^ (w * i) + code * 2 ^ (w * i)

def cvtpPLane (p : CvtpP) (s : State) (c : Ctx) : LaneOut :=
  let a := c.src s 0 false p.a
  let q := c.src s 0 false p.q
  let r := efConvert p.ef p.rnd c.flush (F32.read c.flush a.nat)
  c.fpResult s p.d false (a.poison || q.poison) (putElem (efWidth p.ef) p.i.toNat q.nat r.1, r.2) none
def execCvtpP (p : CvtpP) (s : State) : Host.Outcome State Fault Refusal := instr (.cvtpP p) (cvtpPLane p) s

/-- Element `i` of a word, as a value. -/
def elemOf (ef : EF) (flush : Bool) (q i : Nat) : Num × BitVec 5 := efRead ef flush (field q (efWidth ef * i) (efWidth ef))

def cvtpULane (p : CvtpU) (s : State) (c : Ctx) : LaneOut :=
  let q := c.src s 0 false p.q
  let v := elemOf p.ef c.flush q.nat p.i.toNat
  c.fpResult s p.d false q.poison ((F32.round .rne false v.1).1, v.2) none
def execCvtpU (p : CvtpU) (s : State) : Host.Outcome State Fault Refusal := instr (.cvtpU p) (cvtpULane p) s

/-! ## Quantisation (R388 to R390) -/

def qscaleLane (p : Qscale) (s : State) (c : Ctx) : LaneOut :=
  let a := c.src s p.imm false p.a
  let r := qscaleCode (F32.read c.flush a.nat) (efQmax p.ef)
  c.fpResult s p.d false a.poison (r.1, 0) (some ⟨false, r.1 == 0, r.2.1, r.2.2⟩)
def execQscale (p : Qscale) (s : State) : Host.Outcome State Fault Refusal := instr (.qscale p) (qscaleLane p) s

/-- The element of `QNT` (R389). -/
def qntR (ef : EF) (md : Rnd) (flush : Bool) (a s : Nat) : Nat × BitVec 5 :=
  let x := F32.read flush a
  if s = 255 then ((efConvert ef md flush .nan).1, fNV)
  else if s = 0 then (0, match x with | .fin _ m _ => flagIf (m != 0) fNX | _ => fNV)
  else efConvert ef md flush (divScale x s)

def qntLane (p : Qnt) (s : State) (c : Ctx) : LaneOut :=
  let a := c.src s 0 false p.a
  let sc := c.src s 0 false p.s
  let q := c.src s 0 false p.q
  let r := qntR p.ef p.rnd c.flush a.nat (sc.nat % 256)
  c.fpResult s p.d false (a.poison || sc.poison || q.poison) (putElem (efWidth p.ef) p.i.toNat q.nat r.1, r.2) none
def execQnt (p : Qnt) (s : State) : Host.Outcome State Fault Refusal := instr (.qnt p) (qntLane p) s

/-- `DQNT` (R390). -/
def dqntR (ef : EF) (md : Rnd) (flush : Bool) (q i s : Nat) : Nat × BitVec 5 :=
  let v := elemOf ef flush q i
  if s = 255 then (F32.nanBits, v.2 ||| fNV)
  else if s = 0 then (0, v.2)
  else
    let r := F32.round md flush (v.1.mul (.fin false (scaleValue s).1 (scaleValue s).2)).1
    (r.1, v.2 ||| r.2)

def dqntLane (p : Dqnt) (s : State) (c : Ctx) : LaneOut :=
  let q := c.src s 0 false p.q
  let sc := c.src s 0 false p.s
  c.fpResult s p.d false (q.poison || sc.poison) (dqntR p.ef p.rnd c.flush q.nat p.i.toNat (sc.nat % 256)) none
def execDqnt (p : Dqnt) (s : State) : Host.Outcome State Fault Refusal := instr (.dqnt p) (dqntLane p) s

/-! ## Special functions (R391 to R393) -/

def sfu (f : Sfu) (c : Ctx) (a : Nat) : Nat × BitVec 5 := f.run c.blk.contract a

def execRcp (p : Fp1) (s : State) : Host.Outcome State Fault Refusal := instr (.rcp p) (fp1 p (sfu .rcp)) s
def execRsq (p : Fp1) (s : State) : Host.Outcome State Fault Refusal := instr (.rsq p) (fp1 p (sfu .rsq)) s
def execSqrt (p : Fp1) (s : State) : Host.Outcome State Fault Refusal := instr (.sqrt p) (fp1 p (sfu .sqrt)) s
def execExp2 (p : Fp1) (s : State) : Host.Outcome State Fault Refusal := instr (.exp2 p) (fp1 p (sfu .exp2)) s
def execLog2 (p : Fp1) (s : State) : Host.Outcome State Fault Refusal := instr (.log2 p) (fp1 p (sfu .log2)) s
def execSinpi (p : Fp1) (s : State) : Host.Outcome State Fault Refusal := instr (.sinpi p) (fp1 p (sfu .sinpi)) s
def execCospi (p : Fp1) (s : State) : Host.Outcome State Fault Refusal := instr (.cospi p) (fp1 p (sfu .cospi)) s
def execTanh (p : Fp1) (s : State) : Host.Outcome State Fault Refusal := instr (.tanh p) (fp1 p (sfu .tanh)) s

end Sys2Proof.Machine
end

