-- ==== Sys2Proof/Machine/HostPort.lean ====
section
/-! DEFINITION. What the host sees and does: registers, launch windows, attestation, resets and the aperture (R11, R12, R37, R74 to R103, R145). -/

namespace Sys2Proof.Machine

/-! ## Functions -/

/-- A function answers: the physical one from the start, a virtual one when it is enabled after bring-up step 7 (R34, R76).
Function 0 is the physical one, function `n` serves tenant `n - 1`. -/
def State.vfOpen (s : State) (t : Nat) : Bool := decide (7 ≤ s.boot.step) && (s.tenant t).vfOn
def State.fnOpen (s : State) (fn : Nat) : Bool := if fn = 0 then decide (7 ≤ s.boot.step) else s.vfOpen (fn - 1)

/-- SRIOV_VF_ENABLE: virtual functions 1 to `n` are enabled, the others disabled. R76 does not say what disabling one does to its
tenant's running work and registers: here both stay as they are (assumption 86). -/
def execSriovVfEnable (n : Nat) (s : State) : Host.Outcome State Fault Refusal :=
  if 16 < n then .fault .noSuchAgent
  else if s.boot.step < 7 then .next s
  else
    let each (i : Nat) : Tenant := { s.tenant i with vfOn := decide (i < n) }
    .next { s with boot := { s.boot with numVfs := n }, tenants := (List.range Config.tenants).map each }

/-! ## The launch window (R91 to R95, R98) -/

def Tenant.slot (x : Tenant) (k : Nat) : LaunchSlot := x.slots[k]?.getD LaunchSlot.reset
def State.modSlot (s : State) (t k : Nat) (f : LaunchSlot → LaunchSlot) : State :=
  s.modTenant t (fun x => { x with slots := modifyAt f x.slots k })

/-- Word 15 as read. -/
def LaunchSlot.status (x : LaunchSlot) : DWord :=
  BitVec.ofNat 64 (x.expseq.toNat + x.code * 2 ^ 40 + (if x.code = 1 then x.node * 2 ^ 48 else 0))

/-- The next EXPSEQ: zero is skipped. -/
def nextSeq (x : Word) : Word := if x + 1 = 0 then 1 else x + 1

/-- A write lies in one slot. -/
def inSlot (off n : Nat) : Bool := decide (1 ≤ n) && decide (off % 128 + n ≤ 128) && decide (off + n ≤ 4096)

/-- A write covers the whole commit word of its slot. -/
def commits (off n : Nat) : Bool := decide (off % 128 ≤ 120) && decide (128 ≤ off % 128 + n)

/-- A refused commit: CODE, and vector 2. -/
def State.refuseCommit (s : State) (t k code : Nat) : State :=
  (s.modSlot t k (fun x => { x with code := code, node := 0 })).raise (t + 1) 2

/-- A commit is evaluated on the slot's words. -/
def State.commit (s : State) (t k : Nat) : State :=
  let ws := toDwords 16 ((s.tenant t).slot k).bytes
  let slot := (s.tenant t).slot k
  if BitVec.ofNat 32 (dword ws 15) != slot.expseq then s.refuseCommit t k 0x10
  else
    let s1 := s.modSlot t k (fun x => { x with expseq := nextSeq x.expseq })
    if !zeroField (dword ws 15) 32 32 then s1.refuseCommit t k 0x11
    else match s1.checkLaunch t (ws.take 15) with
      | (s2, .error c) => s2.refuseCommit t k c
      | (s2, .ok l) =>
        let r := s2.createGrid t 0 (dword ws 8) l
        r.1.modSlot t k (fun x => { x with code := 1, node := r.2 })

/-- Bytes written to a slot. -/
def State.slotBytes (s : State) (t off : Nat) (bs : List Byte) : State :=
  s.modSlot t (off / 128) (fun x => { x with bytes := overwrite x.bytes (off % 128) bs })

/-- A write to the launch window: one that crosses a slot boundary is ignored in full (R79). -/
def State.windowWrite (s : State) (t off : Nat) (bs : List Byte) : State :=
  if !s.vfOpen t || !inSlot off bs.length then s
  else
    let s1 := s.slotBytes t off bs
    if commits off bs.length then s1.commit t (off / 128) else s1

/-- LAUNCH_SLOT_WRITE: a write that does not commit. -/
def execLaunchSlotWrite (vf off : Nat) (bytes : List Byte) (s : State) : Host.Outcome State Fault Refusal :=
  if Config.tenants ≤ vf then .fault .noSuchAgent
  else .next (if commits off bytes.length then s else s.windowWrite vf off bytes)

/-- LAUNCH_COMMIT: a write that covers bytes 120 to 127 of a slot. -/
def execLaunchCommit (vf off : Nat) (bytes : List Byte) (s : State) : Host.Outcome State Fault Refusal :=
  if Config.tenants ≤ vf then .fault .noSuchAgent
  else .next (if commits off bytes.length then s.windowWrite vf off bytes else s)

/-- A host read and its value. -/
def State.answerHost (s : State) (bs : List Byte) (poison : Bool) : State := { s with reads := ⟨bs, poison, false⟩ :: s.reads }

/-- SLOT_STATUS_READ. -/
def execSlotStatusRead (vf slot : Nat) (s : State) : Host.Outcome State Fault Refusal :=
  if decide (Config.tenants ≤ vf) || decide (32 ≤ slot) then .fault .noSuchAgent
  else .next (if s.vfOpen vf then s.answerHost (toBytes 8 ((s.tenant vf).slot slot).status.toNat) false else s)

/-! ## Tenant configuration pages (R80, R81) -/

/-- TCFG as read, without TENANT. -/
def Tenant.tcfg (x : Tenant) : Nat := b2n x.enable + x.maxprio * 2 ^ 8 + x.nodecnt * 2 ^ 16 + x.nodefirst * 2 ^ 48

def Tenant.pathcfg (x : Tenant) : Nat := x.paths + x.portmask.toNat * 2 ^ 16

/-- The 64-bit register at an offset of a configuration page. -/
def Tenant.cfgReg (x : Tenant) (off : Nat) : Nat :=
  if off = 0x000 then x.tcfg
  else if off = 0x008 then x.tbudget
  else if off = 0x010 then x.agemax
  else if off = 0x018 then x.pathcfg
  else if 0x040 ≤ off && off < 0x080 then dword x.twin ((off - 0x040) / 8)
  else if off = 0x080 then x.hostBase.toNat
  else if off = 0x088 then x.hostSize.toNat
  else if 0x100 ≤ off && off < 0x300 then dword x.peers ((off - 0x100) / 8)
  else 0

/-- MEAS3 covers every write to a configuration page (R101). -/
def State.measureWrite (s : State) (t off : Nat) (v : DWord) : State :=
  s.extendMeas 3 (sha256 (toBytes 4 (off + t * 2 ^ 16) ++ toBytes 8 v.toNat))

/-- The value of a write to TCFG (R81). -/
def Tenant.writeTcfg (x : Tenant) (v : Nat) : Tenant :=
  let first := field v 48 16
  let cnt := field v 16 17
  let kept := if 65536 < first + cnt then 65536 - first else cnt
  let y := if x.enable then x else { x with nodefirst := first, nodecnt := kept }
  let z := { y with enable := bitOf v 0, maxprio := field v 8 8 }
  if bitOf v 0 && !x.enable then { z with budget := 0, fxovf := false } else z

/-- AGEMAX is at least 64 (R145). -/
def ageOf (v : Nat) : Nat := if field v 0 16 < 64 then 64 else field v 0 16

/-- A 64-bit write to a configuration page: the register takes its RW fields (R12). -/
def Tenant.writeCfg (x : Tenant) (off v : Nat) : Tenant :=
  if off = 0x000 then x.writeTcfg v
  else if off = 0x008 then { x with tbudget := field v 0 12 }
  else if off = 0x010 then { x with agemax := ageOf v }
  else if off = 0x018 then { x with paths := field v 0 4, portmask := BitVec.ofNat 16 (field v 16 16) }
  else if 0x040 ≤ off && off < 0x080 then
    { x with twin := modifyAt (fun _ => BitVec.ofNat 64 (field v 0 1 + field v 3 61 * 2 ^ 3)) x.twin ((off - 0x040) / 8) }
  else if off = 0x080 then { x with hostBase := BitVec.ofNat 64 (field v 16 48 * 2 ^ 16) }
  else if off = 0x088 then { x with hostSize := BitVec.ofNat 64 (field v 0 40) }
  else if 0x100 ≤ off && off < 0x300 then
    let e := field v 0 3 + field v 4 4 * 2 ^ 4 + field v 16 11 * 2 ^ 16 + field v 32 11 * 2 ^ 32
    { x with peers := modifyAt (fun _ => BitVec.ofNat 64 e) x.peers ((off - 0x100) / 8) }
  else x

/-- A write of the physical function to a configuration page: window registers drop the tenant's TLB entries first (R81). -/
def State.cfgWrite (s : State) (t off : Nat) (v : DWord) : State :=
  if s.boot.step < 7 then s
  else
    let s1 := if 0x040 ≤ off && off < 0x090 then s.dropTenantTlb t else s
    (s1.modTenant t (fun x => x.writeCfg off v.toNat)).measureWrite t off v

def execTcfgWrite (t : Nat) (v : DWord) (s : State) : Host.Outcome State Fault Refusal :=
  if Config.tenants ≤ t then .fault .noSuchAgent else .next (s.cfgWrite t 0x000 v)
/-- MEMORY_WINDOW_WRITE: TWIN0 to TWIN7, HOSTBASE, HOSTSIZE by their offset. -/
def execMemoryWindowWrite (t off : Nat) (v : DWord) (s : State) : Host.Outcome State Fault Refusal :=
  if Config.tenants ≤ t then .fault .noSuchAgent
  else .next (if 0x040 ≤ off && off < 0x090 && off % 8 == 0 then s.cfgWrite t off v else s)
def execPeerEntryWrite (t e : Nat) (v : DWord) (s : State) : Host.Outcome State Fault Refusal :=
  if decide (Config.tenants ≤ t) || decide (64 ≤ e) then .fault .noSuchAgent else .next (s.cfgWrite t (0x100 + 8 * e) v)
def execPathcfgWrite (t : Nat) (v : DWord) (s : State) : Host.Outcome State Fault Refusal :=
  if Config.tenants ≤ t then .fault .noSuchAgent else .next (s.cfgWrite t 0x018 v)
def execAgemaxWrite (t : Nat) (v : DWord) (s : State) : Host.Outcome State Fault Refusal :=
  if Config.tenants ≤ t then .fault .noSuchAgent else .next (s.cfgWrite t 0x010 v)

/-! ## Attestation (R84, R102, R103) -/

def State.attest (s : State) (fn : Nat) : Attest := if fn = 0 then s.pf.att else (s.tenant (fn - 1)).att
def State.modAttest (s : State) (fn : Nat) (f : Attest → Attest) : State :=
  if fn = 0 then { s with pf := { s.pf with att := f s.pf.att } } else s.modTenant (fn - 1) (fun x => { x with att := f x.att })

/-- OP written to ATTCTL: a request with the nonce and address captured; ignored while BUSY, and for a code that names no request. -/
def State.askAttest (s : State) (fn op : Nat) : State :=
  let a := s.attest fn
  if !s.fnOpen fn || a.busy then s
  else if op = 1 || op = 2 then
    { s.modAttest fn (fun a => { a with op := op, busy := true }) with requests := s.requests ++ [⟨fn, op, a.addr, a.nonce⟩] }
  else s.modAttest fn (fun a => { a with op := op })

def execAttestationReport (fn : Nat) (s : State) : Host.Outcome State Fault Refusal :=
  if 16 < fn then .fault .noSuchAgent else .next (s.askAttest fn 1)
def execAttestationCertificate (fn : Nat) (s : State) : Host.Outcome State Fault Refusal :=
  if 16 < fn then .fault .noSuchAgent else .next (s.askAttest fn 2)

/-- Bytes of an opaque value. -/
def opaqueBytes (f : Nat → Byte) (n : Nat) : List Byte := (List.range n).map f

/-- The bytes of a configuration page from 0x000 to 0x2FF. -/
def Tenant.cfgBytes (x : Tenant) : List Byte := (List.range 96).flatMap (fun i => toBytes 8 (x.cfgReg (8 * i)))

/-- The report of a function, up to its signature. -/
def State.reportHead (s : State) (fn : Nat) (nonce : List Byte) : List Byte :=
  toBytes 8 (1 + 16544 * 2 ^ 32 + (if fn = 0 then 2 ^ 52 else (fn - 1) * 2 ^ 48)) ++ toBytes 8 s.time
    ++ opaqueBytes Config.moduleSerial 16 ++ nonce ++ s.boot.meas.flatMap id
    ++ (if fn = 0 then zeroBytes 32 else (s.tenant (fn - 1)).tmeas)
    ++ sha256 (if fn = 0 then s.tenants.flatMap Tenant.cfgBytes else (s.tenant (fn - 1)).cfgBytes)
    ++ opaqueBytes Config.identityKey 48 ++ toBytes 8 s.boot.fevar.toNat ++ zeroBytes 8

/-- The bytes of an SLH-DSA-SHA2-192s signature (R102, R103). -/
def signatureBytes : Nat := 16224

/-- The output of a request: a report, or the certificate. -/
def State.attestOutput (s : State) (r : AttestReq) : List Byte :=
  if r.op = 1 then
    let h := s.reportHead r.fn r.nonce
    h ++ opaqueBytes (Config.identitySign h) signatureBytes
  else
    let k := opaqueBytes Config.identityKey 48 ++ opaqueBytes Config.moduleSerial 16
    k ++ opaqueBytes (Config.stakelSignature k) signatureBytes

def attestLength (op : Nat) : Nat := if op = 1 then 16544 else 16288

/-- ATTESTATION_REQUEST_END: the oldest request ends: refused outside a tenant's host window, else written, unless the bus
refuses the write. R102 does not say whether the window is that of the OP write or of the end: here it is the window at the end
(assumption 86). -/
def State.endAttest (s : State) (written : Bool) : State :=
  match s.requests with
  | [] => s
  | r :: rs =>
    let s0 : State := { s with requests := rs }
    let outside := r.fn != 0 && !s.inHostWindow (r.fn - 1) r.addr.toNat (attestLength r.op)
    let st := if outside then 2 else if written then 1 else 3
    let s1 : State := if st = 1 then { s0 with host := s0.host.write r.addr.toNat (s.attestOutput r) } else s0
    (s1.modAttest r.fn (fun a => { a with busy := false, st := st })).raise r.fn 3

def execAttestationRequestEnd (written : Bool) (s : State) : Host.Outcome State Fault Refusal := .next (s.endAttest written)

/-! ## MSI-X (R88) -/

def State.vectorsOf (s : State) (fn : Nat) : List Vector := if fn = 0 then s.pf.vectors else (s.tenant (fn - 1)).vectors
def State.modVector (s : State) (fn v : Nat) (f : Vector → Vector) : State :=
  if fn = 0 then { s with pf := { s.pf with vectors := modifyAt f s.pf.vectors v } }
  else s.modTenant (fn - 1) (fun x => { x with vectors := modifyAt f x.vectors v })

/-- The mask of a vector is written: unmasking sends the merged message that is pending. -/
def State.maskVector (s : State) (fn v : Nat) (masked : Bool) : State :=
  match (s.vectorsOf fn)[v]? with
  | none => s
  | some x =>
    if !masked && x.pending then
      let s1 := s.modVector fn v (fun x => { x with masked := false, pending := false })
      { s1 with messages := s1.messages ++ [⟨fn, v, x.addr, x.data⟩] }
    else s.modVector fn v (fun x => { x with masked := masked })

def execMsixUnmask (fn vec : Nat) (s : State) : Host.Outcome State Fault Refusal :=
  if decide (16 < fn) || decide ((if fn = 0 then 8 else 64) ≤ vec) then .fault .noSuchAgent
  else .next (if s.fnOpen fn then s.maskVector fn vec false else s)

/-- A 32-bit register of a vector's table entry: address, upper address, data, control (PCI Express; assumption 5). -/
def Vector.reg (x : Vector) (i : Nat) : Nat :=
  if i = 0 then field x.addr.toNat 0 32 else if i = 1 then field x.addr.toNat 32 32 else if i = 2 then x.data.toNat else b2n x.masked

def State.writeVector (s : State) (fn v i w : Nat) : State :=
  if i = 3 then s.maskVector fn v (bitOf w 0)
  else s.modVector fn v (fun x =>
    if i = 0 then { x with addr := BitVec.ofNat 64 (field x.addr.toNat 32 32 * 2 ^ 32 + field w 2 30 * 4) }
    else if i = 1 then { x with addr := BitVec.ofNat 64 (w % 2 ^ 32 * 2 ^ 32 + field x.addr.toNat 0 32) }
    else { x with data := BitVec.ofNat 32 w })

/-- The pending-bit array. -/
def State.pendingBits (s : State) (fn : Nat) : Nat :=
  ((s.vectorsOf fn).filter (·.pending)).foldl (fun n x => n + 2 ^ x.num) 0

/-! ## Reading BAR 0 (R77 to R79) -/

/-- `PWRSTAT` (R28); DROOP holds for 100 µs after a report. -/
def State.pwrstat (s : State) : Nat :=
  let p := s.power
  b2n p.therm + b2n (p.droop && decide (s.halfNs < p.lastDroop + hundredMicro)) * 2 + b2n p.alarm * 4 + b2n p.trip * 8 + p.tmax * 2 ^ 8
    + p.power % 65536 * 2 ^ 16

def State.bootstat (s : State) : Nat := s.boot.step + b2n s.boot.fail * 2 ^ 4 + s.boot.updst * 2 ^ 8

/-- `FLINK` of a port (R37). -/
def State.flink (s : State) (port : Nat) : Nat :=
  match s.fabric.ports[port]? with
  | some x => x.lanes.toNat + b2n x.up * 2 ^ 8 + x.crcerr * 2 ^ 16 + x.proterr * 2 ^ 24
  | none => 0

/-- Four bytes of a byte list as a register. -/
def bytesReg (bs : List Byte) (o : Nat) : Nat := ofBytes ((bs.drop o).take 4)

/-- A 64-bit value's half at an offset. -/
def half (v off : Nat) : Nat := if off % 8 = 0 then field v 0 32 else field v 32 32

/-- The repair log as bytes (R77). -/
def Repair.bytes (r : Repair) : List Byte := toBytes 8 r.time.toNat ++ toBytes 8 r.word1.toNat ++ toBytes 8 r.seq.toNat ++ zeroBytes 8

/-- The module-control page (R77), 32 bits at an offset. -/
def State.controlPage (s : State) (o : Nat) : Nat :=
  if o = 0x000 then s.power.limit
  else if o = 0x004 then s.pwrstat
  else if o = 0x008 then s.bootstat
  else if 0x100 ≤ o && o < 0x130 then bytesReg s.mapBytes (o - 0x100)
  else if 0x200 ≤ o && o < 0x240 then s.flink ((o - 0x200) / 4)
  else if 0x400 ≤ o && o < 0xC00 then bytesReg (s.boot.repairs.flatMap Repair.bytes) (o - 0x400)
  else 0

/-- The energy-meter page (R77). -/
def State.energyPage (s : State) (o : Nat) : Nat :=
  let v := if o < 0x600 then lookupNat 0 s.power.coreMeters (o / 8)
    else if o < 0x780 then lookupNat 0 s.power.engineMeters ((o - 0x600) / 8)
    else if o < 0x800 then 0
    else if o < 0x880 then (s.tenant ((o - 0x800) / 8)).energy
    else if o < 0x900 then 0
    else if o < 0x908 then s.power.module
    else if o < 0x910 then s.power.meterTime
    else 0
  half (v % 2 ^ 64) o

/-- ATTCTL as read. -/
def Attest.ctl (a : Attest) : Nat := a.op + b2n a.busy * 2 ^ 8 + a.st * 2 ^ 12

/-- The registers that the physical function's page shares with a tenant's: error queue and attestation. -/
def sharedPage (q : ErrQueue) (a : Attest) (o : Nat) : Nat :=
  if o / 8 = 0x080 / 8 then half q.base.toNat o
  else if o = 0x088 then q.head
  else if o = 0x08C then q.tail
  else if o / 8 = 0x0A0 / 8 then half a.addr.toNat o
  else if o = 0x0A8 then a.ctl
  else if 0x0C0 ≤ o && o < 0x0E0 then bytesReg a.nonce (o - 0x0C0)
  else 0

/-- The tenant control page (R84). -/
def State.tenantPage (s : State) (t o : Nat) : Nat :=
  let x := s.tenant t
  if o < 0x008 then half (x.tcfg + t * 2 ^ 4) o
  else if o < 0x010 then half x.ptroot.toNat o
  else if o < 0x018 then half x.seed.toNat o
  else if o < 0x020 then half x.aperbase.toNat o
  else if o < 0x028 then half (x.energy % 2 ^ 64) o
  else if o = 0x028 then x.mismatch
  else if o = 0x02C then x.sigref
  else if o = 0x030 then x.migdrop
  else if o = 0x034 then x.apererr
  else if o = 0x038 then x.errq.lost
  else if 0x040 ≤ o && o < 0x080 then lookupNat 0 ((List.range 16).zip x.stamps) ((o - 0x040) / 4)
  else if 0x090 ≤ o && o < 0x098 then half x.migqbase.toNat o
  else if 0x100 ≤ o && o < 0x120 then bytesReg x.tmeas (o - 0x100)
  else if 0x140 ≤ o && o < 0x180 then half (dword x.twin ((o - 0x140) / 8)) o
  else if 0x180 ≤ o && o < 0x188 then half x.hostBase.toNat o
  else if 0x188 ≤ o && o < 0x190 then half x.hostSize.toNat o
  else sharedPage x.errq x.att o

/-- A table entry of MSI-X, 32 bits at an offset of the table. -/
def State.msixTable (s : State) (fn o : Nat) : Nat :=
  match (s.vectorsOf fn)[o / 16]? with
  | some x => x.reg (o % 16 / 4)
  | none => 0

/-- 32 bits of BAR 0 of a function at an aligned offset. -/
def State.reg32 (s : State) (fn o : Nat) : Nat :=
  if fn = 0 then
    if s.boot.step < 7 then (if o = 0x008 then s.bootstat else 0)
    else if o < 0x1000 then s.controlPage o
    else if o < 0x2000 then
      if 0x1100 ≤ o && o < 0x1180 then bytesReg (s.boot.meas.flatMap id) (o - 0x1100) else sharedPage s.pf.errq s.pf.att (o - 0x1000)
    else if o < 0x2400 then s.msixTable 0 (o - 0x2000)
    else if 0x3000 ≤ o && o < 0x3008 then half (s.pendingBits 0) o
    else if 0x4000 ≤ o && o < 0x5000 then s.energyPage (o - 0x4000)
    else if 0x10000 ≤ o && o < 0x20000 then half ((s.tenant ((o - 0x10000) / 0x1000)).cfgReg (o % 0x1000 / 8 * 8)) o
    else 0
  else if !s.vfOpen (fn - 1) then 0
  else if o < 0x1000 then s.controlPage o
  else if o < 0x2000 then s.tenantPage (fn - 1) (o - 0x1000)
  else if o < 0x3000 then
    if o % 128 / 8 = 15 then half ((s.tenant (fn - 1)).slot ((o - 0x2000) / 128)).status.toNat o else 0
  else if o < 0x3400 then s.msixTable fn (o - 0x3000)
  else if 0x3800 ≤ o && o < 0x3808 then half (s.pendingBits fn) o
  else 0

/-- A read of BAR 0: of 4 or 8 bytes, aligned; of any other size or alignment, zero (R79). -/
def State.bar0Read (s : State) (fn off size : Nat) : Nat :=
  if size = 4 && off % 4 == 0 then s.reg32 fn off
  else if size = 8 && off % 8 == 0 then s.reg32 fn off + s.reg32 fn (off + 4) * 2 ^ 32
  else 0

/-- FLINK_READ: a read by the physical function clears the counters (R37). -/
def execFlinkRead (fn port : Nat) (s : State) : Host.Outcome State Fault Refusal :=
  if decide (16 < fn) || decide (Config.ports ≤ port) then .fault .noSuchAgent
  else
    let s1 := s.answerHost (toBytes 4 (s.bar0Read fn (0x200 + 4 * port) 4)) false
    .next (if fn = 0 && decide (7 ≤ s.boot.step) then s1.modPort port (fun x => { x with proterr := 0, crcerr := 0 }) else s1)

/-! ## Writing BAR 0 -/

def State.modErrq (s : State) (fn : Nat) (f : ErrQueue → ErrQueue) : State :=
  if fn = 0 then { s with pf := { s.pf with errq := f s.pf.errq } } else s.modTenant (fn - 1) (fun x => { x with errq := f x.errq })

/-- PTROOT: every TLB entry of the tenant goes (R84). -/
def State.writePtroot (s : State) (t : Nat) (v : DWord) : State :=
  (s.modTenant t (fun x => { x with ptroot := BitVec.ofNat 64 (field v.toNat 16 36 * 2 ^ 16) })).dropTenantTlb t
def execPtrootWrite (vf : Nat) (v : DWord) (s : State) : Host.Outcome State Fault Refusal :=
  if Config.tenants ≤ vf then .fault .noSuchAgent else .next (if s.vfOpen vf then s.writePtroot vf v else s)

/-- STAMPi: entry 0 is read-only (R84, R85). -/
def State.writeStamp (s : State) (t i : Nat) (v : Nat) : State :=
  if i = 0 then s else s.modTenant t (fun x => { x with stamps := modifyAt (fun _ => field v 0 16) x.stamps i })
def execStampWrite (vf i : Nat) (v : Word) (s : State) : Host.Outcome State Fault Refusal :=
  if decide (Config.tenants ≤ vf) || decide (16 ≤ i) then .fault .noSuchAgent
  else .next (if s.vfOpen vf then s.writeStamp vf i v.toNat else s)

/-- TMEASIN: the write of its last eight bytes extends TMEAS with the digest (R84, R101). -/
def State.writeTmeasin (s : State) (t : Nat) (v : DWord) : State :=
  s.modTenant t (fun x =>
    let d := overwrite x.tmeasin 24 (toBytes 8 v.toNat)
    { x with tmeasin := d, tmeas := Machine.extendMeas x.tmeas d })
def execTmeasinWrite (vf : Nat) (v : DWord) (s : State) : Host.Outcome State Fault Refusal :=
  if Config.tenants ≤ vf then .fault .noSuchAgent else .next (if s.vfOpen vf then s.writeTmeasin vf v else s)

/-- 64-bit registers of the tenant control page and of the physical function's page. -/
def wideReg (fn o : Nat) : Bool :=
  if fn = 0 then decide (0x10000 ≤ o) || [0x1080, 0x10A0].contains o
  else [0x1000, 0x1008, 0x1010, 0x1018, 0x1020, 0x1080, 0x1090, 0x10A0].contains o

/-- A 64-bit register is written. -/
def State.writeWide (s : State) (fn o : Nat) (v : DWord) : State :=
  let n := v.toNat
  if fn = 0 && decide (0x10000 ≤ o) then s.cfgWrite ((o - 0x10000) / 0x1000) (o % 0x1000) v
  else if o = 0x1080 then s.modErrq fn (fun q => { q with base := BitVec.ofNat 64 (if fn = 0 then field n 14 50 * 2 ^ 14 else field n 14 40 * 2 ^ 14) })
  else if o = 0x10A0 then s.modAttest fn (fun a => { a with addr := BitVec.ofNat 64 (field n 12 52 * 2 ^ 12) })
  else if fn = 0 then s
  else
    let t := fn - 1
    if o = 0x1008 then s.writePtroot t v
    else if o = 0x1010 then s.modTenant t (fun x => { x with seed := v })
    else if o = 0x1018 then s.modTenant t (fun x => { x with aperbase := BitVec.ofNat 64 (field n 34 20 * 2 ^ 34) })
    else if o = 0x1090 then s.modTenant t (fun x => { x with migqbase := BitVec.ofNat 64 (field n 16 38 * 2 ^ 16) })
    else s

/-- A 32-bit register is written; read-only and reserved offsets ignore it. -/
def State.writeNarrow (s : State) (fn o v : Nat) : State :=
  let p := o - 0x1000
  if o = 0x000 && fn == 0 then s.writeLimit v
  else if o < 0x1000 then s
  else if o < 0x2000 then
    if p = 0x08C then s.modErrq fn (fun q => { q with tail := field v 0 8 })
    else if p = 0x0A8 then s.askAttest fn (field v 0 2)
    else if 0x0C0 ≤ p && p < 0x0E0 then s.modAttest fn (fun a => { a with nonce := overwrite a.nonce (p - 0x0C0) (toBytes 4 v) })
    else if fn = 0 then s
    else if 0x0E0 ≤ p && p < 0x100 then s.modTenant (fn - 1) (fun x => { x with tmeasin := overwrite x.tmeasin (p - 0x0E0) (toBytes 4 v) })
    else if 0x040 ≤ p && p < 0x080 then s.writeStamp (fn - 1) ((p - 0x040) / 4) v
    else s
  else if fn = 0 then (if o < 0x2080 then s.writeVector 0 ((o - 0x2000) / 16) (o % 16 / 4) v else s)
  else if 0x3000 ≤ o && o < 0x3400 then s.writeVector fn ((o - 0x3000) / 16) (o % 16 / 4) v
  else s

/-- The value of a 64-bit register before a write to one half of it. -/
def State.wideNow (s : State) (fn o : Nat) : Nat := s.reg32 fn o + s.reg32 fn (o + 4) * 2 ^ 32

/-- A write to BAR 0 outside the launch window (R79): of 4 or 8 bytes, aligned. A write to one half of a 64-bit register keeps the
other half. R84 says that a write of bytes 0x0F8 to 0x0FF extends TMEAS: one write of all eight does, two writes of four do not
(assumption 86). -/
def State.bar0Write (s : State) (fn off size : Nat) (v : DWord) : State :=
  if size = 8 && off % 8 == 0 then
    if wideReg fn off then s.writeWide fn off v
    else if fn != 0 && off == 0x10F8 then s.writeTmeasin (fn - 1) v
    else (s.writeNarrow fn off (field v.toNat 0 32)).writeNarrow fn (off + 4) (field v.toNat 32 32)
  else if size = 4 && off % 4 == 0 then
    let b := off / 8 * 8
    if wideReg fn b then
      let old := s.wideNow fn b
      s.writeWide fn b (BitVec.ofNat 64 (if off = b then field old 32 32 * 2 ^ 32 + field v.toNat 0 32
        else field v.toNat 0 32 * 2 ^ 32 + field old 0 32))
    else s.writeNarrow fn off (field v.toNat 0 32)
  else s

/-- REGISTER_WRITE: a write to a function's BAR 0; one to the launch window may have any size (R79). -/
def execRegisterWrite (fn off size : Nat) (v : DWord) (s : State) : Host.Outcome State Fault Refusal :=
  if 16 < fn then .fault .noSuchAgent
  else .next (
    if !s.fnOpen fn then s
    else if fn != 0 && decide (0x2000 ≤ off) && decide (off < 0x3000) then s.windowWrite (fn - 1) (off - 0x2000) (toBytes size v.toNat)
    else s.bar0Write fn off size v)

/-! ## Function Level Reset (R90) -/

/-- The tenant control page, its energy meter with it, and the launch window at their reset values; the count of error records
goes on (assumption 72). -/
def Tenant.resetPage (x : Tenant) : Tenant :=
  { x with
    ptroot := 0, seed := 0, aperbase := 0, mismatch := 0, sigref := 0, migdrop := 0, apererr := 0, stamps := List.replicate 16 0
    errq := { ErrQueue.reset with seq := x.errq.seq }
    migqbase := 0, att := Attest.reset, tmeasin := zeroBytes 32, tmeas := zeroBytes 32, slots := List.replicate 32 LaunchSlot.reset
    energy := 0, fxovf := false, service := none, pxLeaves := [], marked := [], notified := []
    notices := [], posting := ⟨[], false, 0⟩, serving := ⟨[], false, 0⟩, ending := none }

/-- The tenant's work is gone: every grid ends failed without retirement, its blocks, images, commands, chains and log entries go. -/
def State.endTenant (s : State) (t : Nat) : State :=
  let bs := s.blocks.filter (fun b => b.tenant == t)
  { s with
    nodes := s.nodes.map (fun x => if x.tenant == t && x.st != .free then { x with st := .free, outcome := 8, live := 0 } else x)
    blocks := s.blocks.filter (fun b => b.tenant != t)
    images := s.images.filter (fun i => i.rec_.tenant != t)
    cores := s.cores.map (fun c => { c with
      sideLog := c.sideLog.filter (fun e => e.tenant != t)
      control := c.control.filter (fun e => !bs.any (fun b => b.core == c.num && b.ent == e)) })
    engines := s.engines.map (fun e => runAll (fun (e : Engine) (b : Block) => if quadOf b.core == e.quad then e.drop b.gang else e) bs e)
    fabric := { s.fabric with
      cmds := s.fabric.cmds.filter (fun k => (s.node k.owner.node).tenant != t || (s.node k.owner.node).gen != k.owner.gen)
      unacked := s.fabric.unacked.filter (fun u => u.packet.sten.toNat != t || (match u.origin with | .response => true | .marker _ => true | _ => false)) }
    coll := { s.coll with
      chains := s.coll.chains.filter (fun h => h.tenant != t) } }

def State.flr (s : State) (t : Nat) : State :=
  let comms := s.coll.comms.filter (fun c => c.tenant == t)
  let s1 := runAll (fun (s : State) (c : Comm) => s.failComm c.id true) comms s
  let s2 := (s1.endTenant t).dropTenantTlb t
  { s2.modTenant t Tenant.resetPage with requests := s2.requests.filter (fun r => r.fn != t + 1) }

/-- FUNCTION_LEVEL_RESET of the virtual function of a tenant. -/
def execFunctionLevelReset (vf : Nat) (s : State) : Host.Outcome State Fault Refusal :=
  if Config.tenants ≤ vf then .fault .noSuchAgent else .next (if s.vfOpen vf then s.flr vf else s)

/-! ## The aperture (R83) -/

/-- The pages of an aperture access admit it: valid, of TIER 0 or 1, with the permission. -/
def State.aperOk (s : State) (t : Nat) (a : Acc) : List (Nat × Nat) → Bool
  | [] => true
  | (va, _) :: xs => (match s.walkFor t va a with | .ok e => decide (e.tier < 2) | _ => false) && s.aperOk t a xs

/-- The spans of an access by the pieces of 32 bytes that the home slices serve. -/
def aperSpans (va n : Nat) : List (Nat × Nat) := pieces32 va (n + 1) n
where
  pieces32 (a : Nat) : Nat → Nat → List (Nat × Nat)
    | 0, _ => []
    | fuel + 1, n =>
      if n = 0 then []
      else
        let k := if n < 32 - a % 32 then n else 32 - a % 32
        (a, k) :: pieces32 (a + k) fuel (n - k)

def State.aperError (s : State) (t : Nat) : State := s.modTenant t (fun x => { x with apererr := satInc x.apererr })

/-- An access of BAR 2 lies in its 16 GiB. -/
def inBar2 (off n : Nat) : Bool := decide (1 ≤ n) && decide (off + n ≤ 2 ^ 34)

/-- APERTURE_READ: at the home slices, or all ones. -/
def execApertureRead (vf off size : Nat) (s : State) : Host.Outcome State Fault Refusal :=
  if Config.tenants ≤ vf then .fault .noSuchAgent
  else if !s.vfOpen vf || !inBar2 off size then .next s
  else
    let spans := aperSpans ((s.tenant vf).aperbase.toNat + off) size
    let s1 := runAll (fun (s : State) (x : Nat × Nat) => s.walked vf x.1) spans s
    if s1.aperOk vf .load spans then
      let r := s1.destReadAll vf 0 spans
      .next (r.1.answerHost r.2.1 (!r.2.2.isEmpty))
    else .next ((s1.aperError vf).answerHost (List.replicate size 0xFF) false)

/-- APERTURE_WRITE: at the home slices, or discarded. -/
def execApertureWrite (vf off : Nat) (bytes : List Byte) (s : State) : Host.Outcome State Fault Refusal :=
  if Config.tenants ≤ vf then .fault .noSuchAgent
  else if !s.vfOpen vf || !inBar2 off bytes.length then .next s
  else
    let va := (s.tenant vf).aperbase.toNat + off
    let spans := aperSpans va bytes.length
    let s1 := runAll (fun (s : State) (x : Nat × Nat) => s.walked vf x.1) spans s
    if s1.aperOk vf .store spans then
      .next (runAll (fun (s : State) (x : Nat × Nat) =>
        (if firstOfLine va x.1 then s.destCount vf x.1 .store else s).destStore vf (x.1, (bytes.drop (x.1 - va)).take x.2, false)) spans s1)
    else .next (s1.aperError vf)

end Sys2Proof.Machine
end

