-- ==== Sys2Proof/Machine/Opportunity.lean ====
section
/-! DEFINITION. Errors found outside physical memory and ISSUE_OPPORTUNITY (R146, R284, R286, R290, R298). -/

namespace Sys2Proof.Machine

/-! ## The accesses of a shed (R290) -/

/-- What a memory instruction asks of each lane. -/
def wantedBy : Instr → Option Want
  | .ld p => some (wantOf p.m (tySize p.ty) .load 1)
  | .ldfx p => some (wantOf p.m 16 .load 1)
  | .st p => some (wantOf p.m (tySize p.ty) .store 2)
  | .atfx p => some (wantOf p.m 16 .red 2)
  | .atom p => some (wantOf p.m (tySize p.ty) .atom 3)
  | .red p => some (wantOf p.m (tySize p.ty) .red 2)
  | .cas p => some (wantOf p.m (tySize p.ty) .atom 3)
  | .sld p => some ⟨p.rcd, p.x, p.off.toInt, if p.wide then 8 else 4, .load, 1⟩
  | _ => none

/-- The places that a shed's lanes ask for, in ascending lane order: the lane, the place and its bytes. -/
def State.shedPlaces (s : State) (sh : Shed) : List (Ctx × Formed × Nat) :=
  match s.fetched sh with
  | .ok i => match wantedBy i, useOf i with
    | some w, some u => (u.active s (s.ctxs sh.members)).map (fun c => (c, c.form s w, w.z))
    | _, _ => []
  | .error _ => []

/-- The lane whose bytes of a scratchpad granule the shed asks for first. -/
def State.scratchNames (s : State) (sh : Shed) (g : Nat) : Option ThreadId :=
  ((s.shedPlaces sh).find? (fun x => match x.2.1 with
    | .scr m o => match x.1.scrBlock s m with
      | some b => (granules (b.scrAddr o) x.2.2).contains g
      | none => false
    | _ => false)).map (fun x => x.1.id)

/-- The lane whose bytes of a granule of an L1 line the shed asks for first, else the first that asks for the line. -/
def State.lineNames (s : State) (sh : Shed) (l : L1Line) (g : Nat) : Option ThreadId :=
  let asks (n a : Nat) : Option (Ctx × Formed × Nat) := (s.shedPlaces sh).find? (fun x => x.1.blk.tenant == l.tenant && (match x.2.1 with
    | .va v => decide (v < a + n) && decide (a < v + x.2.2)
    | _ => false))
  match asks 32 (128 * l.vline + 32 * g) with | some x => some x.1.id | none => (asks 128 (128 * l.vline)).map (fun x => x.1.id)

/-! ## Creations outside physical memory (R284, R286, R290, R298) -/

/-- A creation with the thread whose access caused it, if any, else with its block, which keeps its granule: one outside physical memory
has no physical address (assumption 94). -/
def State.created (s : State) (b : Block) (id : Option ThreadId) (r : ErrRec) : State :=
  let r1 : ErrRec := { r with kind := 0x01, sev := 1, origin := r.paddr }
  match id with
  | some x => (s.modBlock x.core x.ent (fun b => { b with origin := r.paddr })).threadRec x
      { r1 with pc := ((s.thread? x).map (·.pc.toNat)).getD 0 }
  | none => (s.modBlock b.core b.ent (fun b => { b with origin := r.paddr })).tenantRecord b.tenant (b.record r1)

/-- An error of a block's registers, latches or scratchpad: under `SNAP` the block rolls back instead of being poisoned (R298). -/
def State.poisonOrRoll (s : State) (b : Block) (poison : State → State) : State :=
  if b.snap.isSome then s.startRollback b.core b.ent else poison s

/-- The block whose scratchpad holds a granule. -/
def State.scratchOwner (s : State) (core g : Nat) : Option Block :=
  s.blocks.find? (fun b => b.core == core && decide (b.scrAddr 0 ≤ 32 * g) && decide (32 * g < b.scrAddr 0 + b.alloc))

/-- An error that a shed finds poisons where it lies, with a KIND 0x01 record. -/
def State.findError (s : State) (sh : Shed) (x : Found) : State :=
  let synd := x.syndrome.toNat
  let ofLane (lane : Nat) (poison : ThreadId → State → State) : State :=
    match sh.members.find? (fun id => laneOf id.tid == lane) with
    | some id => match s.block? id.core id.ent with
      | some b => (s.created b (some id) { kind := 0x01, sev := 1, src := 0, synd := synd }).poisonOrRoll b (poison id)
      | none => s
    | none => s
  match x.error with
  | .vreg lane i => ofLane lane (fun id s => s.modThread id (fun th =>
      if th.regs.any (fun r => r.1 == th.fbase + i) then th.setReg (th.fbase + i) ⟨(th.reg (th.fbase + i)).val, true⟩ else th))
  | .creg lane k => ofLane lane (fun id s => s.modThread id (fun th => { th with ccs := th.ccs.set k { th.ccs.get k with poison := true } }))
  | .latch lane k => ofLane lane (fun id s => s.setLane ((s.laneFor id).spoil k))
  | .ureg i => match sh.members with
    | id :: _ => ofLane (laneOf id.tid) (fun id s => s.modBlock id.core id.ent (fun b => b.setUni (i % 256) ⟨(b.uni (i % 256)).val, true⟩))
    | [] => s
  | .scratch g =>
    let k := sh.core * 16384 + g % 16384
    match s.scratchOwner sh.core k with
    | some b => (s.created b (s.scratchNames sh k) { kind := 0x01, sev := 1, src := 1, vaddr := 32 * k - b.scrAddr 0, synd := synd }).poisonOrRoll b
        (fun s => { s with scratch := s.scratch.setPoison k })
    | none => s
  | .l1 line g => match s.l1Line? sh.core line with
    | some l =>
      let r : ErrRec := { kind := 0x01, sev := 1, src := 1, vaddr := 128 * l.vline + 32 * (g % 4), paddr := 128 * line + 32 * (g % 4), synd := synd }
      let s1 := match s.lineNames sh l (g % 4) with
        | some id => match s.block? id.core id.ent with
          | some b => s.created b (some id) r
          | none => s
        | none => s.tenantRecord l.tenant { r with core := sh.core, origin := r.paddr }
      { s1 with l1 := s1.l1.map (fun l => if l.is sh.core line then { l with poison := l.poison ||| BitVec.ofNat 4 (2 ^ (g % 4)) } else l) }
    | none => s
  | .memory g l2 => if s.latent.any (fun l => l.granule == g) then s else { s with latent := ⟨g, l2, x.syndrome⟩ :: s.latent }

/-! ## ISSUE_OPPORTUNITY -/

/-- One issue opportunity of a partition: the heddle forms a shed, whose instruction the next step runs. -/
def State.opportunity (s : State) (core part : Nat) (e : CycleEnv) : State :=
  let s1 := (s.environment core e).passControl core
  let busy := (lookupNat (0, 0) (s1.core core).busy part).2
  if s1.power.stopped || s1.shed.isSome || decide (s1.cycle < busy) then s1
  else
    let cs := s1.candidates core part
    let shed := heddle cs
    match shed with
    | [] => s1
    | w :: _ =>
      let ids := shed.map (fun c => c.blk.idOf c.th.tid)
      let sh0 : Shed := ⟨core, part, w.th.pc, ids, e.twinLane⟩
      let s2 := runAll (fun (s : State) f => s.findError sh0 f) e.found (s1.age cs shed)
      let r := s2.admitAll (ids.filter (fun id => match s2.block? id.core id.ent with | some b => !b.stopped | none => false))
      let s3 := runAll (fun (s : State) id => s.modThread id (fun th =>
        { th with wait := none, released := th.released || th.wait == some (.release true) })) r.2 r.1
      let sh : Shed := { sh0 with members := r.2 }
      let s4 := match s2.ibufFind (w.blk.idOf w.th.tid) w.blk.tenant (blockOfPc w.th.pc.toNat) with
        | some k => s3.ibufPut core k
        | none => s3
      if r.2.isEmpty then s4.occupy sh 1 else { s4 with shed := some sh }

def execIssueOpportunity (core part : Nat) (env : CycleEnv) (s : State) : Host.Outcome State Fault Refusal :=
  if decide (core < Config.cores) && decide (part < Config.partitions) then .next (s.opportunity core part env)
  else .fault .noSuchAgent

end Sys2Proof.Machine
end

