-- ==== Sys2Proof/Machine/Sync.lean ====
section
/-! DEFINITION. Barriers, phase boundaries, fences and WAITA (R226 to R230, R241 to R248, R411 to R416). -/

namespace Sys2Proof.Machine

/-! ## Objects in scratchpad (R411, R416) -/

/-- The access to an object of `z` bytes through a record of one of `spaces`: outside the limit is a bounds trap
whatever OOB holds. -/
def Ctx.formObj (c : Ctx) (s : State) (m : MemOp) (z need : Nat) (spaces : List Nat) : Formed :=
  let r := c.record m.rcd
  let idx := c.src s 0 false m.x
  let o := r.offset idx.low m.off.toInt
  if (c.blk.record4 m.rcd).2 || idx.poison then .poison
  else if !r.ok c.blk.rec_.gsize || !spaces.contains r.space then .trap { kind := 0x14 }
  else if !r.allows need then .trap { kind := 0x0B }
  else if !(0 ≤ o && decide (o + z ≤ r.lim c.blk.alloc)) then .trap { kind := 0x09, addr := lowBits 64 (r.base + o) }
  else match r.inside o.toNat z with
    | .at_ a => .scr (if r.space = 1 then none else some r.member) a
    | .misaligned a => .trap { kind := 0x0A, addr := a }
    | _ => .trap { kind := 0x09, addr := lowBits 64 (r.base + o) }

/-- The scope of a barrier instruction. -/
def barScope (gang : Bool) : Scope := if gang then .gang else .blk
def barSpaces (gang : Bool) : List Nat := if gang then [1, 2] else [1]

/-- A barrier instruction in a lane: its object is formed and its reserved bits are checked (R242). A gang member's
object whose block has ended does not exist: the step has no effect there (assumption 25). -/
def Ctx.barrier (c : Ctx) (s : State) (gang : Bool) (m : MemOp) (zero : LaneOut)
    (k : State → Block → Option Nat → Nat → BarObj → LaneOut) : LaneOut :=
  if c.th.dem then zero
  else match c.formObj s m 16 3 (barSpaces gang) with
    | .poison => c.poisoned s 0x02 0 0
    | .trap t => .trap t s
    | .scr mem off => match c.scrBlock s mem with
      | none => zero
      | some b =>
        let o := s.barObj b off
        if o.reserved then .trap { kind := 0x12, addr := off } s else k s b mem off o
    | _ => zero

/-- A step on a gang member's object is an effect of TYPE 7 (R299), which the secondary copy does not perform (R306): `unit` is what
its CRC takes. -/
def Ctx.barEffect (c : Ctx) (s : State) (mem : Option Nat) (unit : Nat × Nat) (r : DWord) (step : State → State)
    (k : State → DWord → LaneOut) : LaneOut :=
  match mem with
  | none => k (step s) r
  | some _ => c.effect s 7 false [unit] (fun s => .done r (if c.blk.verify == .secondary then s else step s)) (fun s e => k s e.result)

/-! ## INIT and EXPECT (R412) -/

def barInitLane (p : BarV) (s : State) (c : Ctx) : LaneOut :=
  c.barrier s p.gang p.m (.done s) (fun s b mem off _ =>
    let v := c.src s 0 true p.c
    if v.poison then c.poisoned s 0x03 0 0
    else if field v.nat 48 16 != 0 then .trap { kind := 0x12, addr := off } s
    else c.barEffect s mem (crcUnit 80 off v.nat) 0 (fun s => s.setBar b off (BarObj.init (BitVec.ofNat 32 v.nat) (field v.nat 32 16)))
      (fun s _ => .done s))
def execBarInit (p : BarV) (s : State) : Host.Outcome State Fault Refusal := instr (.barInit p) (barInitLane p) s

def barExpectLane (p : BarV) (s : State) (c : Ctx) : LaneOut :=
  c.barrier s p.gang p.m (.done s) (fun s b mem off o =>
    let v := c.src s 0 false p.c
    if v.poison then c.poisoned s 0x03 0 0
    else if bitOf v.nat 31 then .trap { kind := 0x12, addr := off } s
    else c.barEffect s mem (crcUnit 81 off v.nat) 0 (fun s => s.stepBar b off (o.expect (BitVec.ofNat 32 v.nat)) []) (fun s _ => .done s))
def execBarExpect (p : BarV) (s : State) : Host.Outcome State Fault Refusal := instr (.barExpect p) (barExpectLane p) s

/-! ## ARRIVE, WAIT and ARRWAIT (R412, R413) -/

/-- The object that a lane arrives at: its block and offset. -/
def Ctx.arrivesAt (c : Ctx) (s : State) (gang : Bool) (m : MemOp) : Option (Nat × Nat × Nat) :=
  match c.formObj s m 16 3 (barSpaces gang) with
  | .scr mem off => (c.scrBlock s mem).map (fun b => (b.core, b.ent, off))
  | _ => none

/-- The lane would pass its release now, and its arrival, where a log holds it (R299), is not one of a replay. -/
def Ctx.arrives (c : Ctx) (s : State) (gang : Bool) (m : MemOp) : Bool :=
  (match c.release s (barScope gang) .done with
  | .done _ => true
  | _ => false)
    && (match c.formObj s m 16 3 (barSpaces gang) with
      | .scr (some _) _ => (c.blk.snap.bind (·.entry c.id.tid c.th.effects)).isNone
      | _ => true)

/-- The lanes of a shed that form one `Arrive` with a lane: those that name its object. -/
def Peers.group (ps : Peers) (gang : Bool) (m : MemOp) (c : Ctx) : List Ctx :=
  ps.lanes.filter (fun x => (x.arrivesAt ps.before gang m).isSome
    && x.arrivesAt ps.before gang m == c.arrivesAt ps.before gang m && x.arrives ps.before gang m)

/-- An arrival: the group's lowest lane performs the step for all; every lane receives the PHASE before it. -/
def arriveStep (gang : Bool) (m : MemOp) (ps : Peers) (zero : LaneOut) (s : State) (c : Ctx)
    (k : State → Block → Option Nat → Nat → Bool → LaneOut) : LaneOut :=
  c.barrier s gang m zero (fun s b mem off _ =>
    c.release s (barScope gang) (fun s =>
      let g := ps.group gang m c
      let o := ps.before.barObj b off
      let first := match g with | x :: _ => x.id == c.id | [] => true
      let own := b.core == c.id.core && b.ent == c.id.ent
      match o.arrive (Nat.max 1 g.length) with
      | none => .trap { kind := 0x13, addr := off } s
      | some o' =>
        c.barEffect s mem (crcUnit 82 off 1) (BitVec.ofNat 64 (b2n o.phase))
          (fun s => if first then s.stepBar b off o' (if own then g.map (·.id.tid) else []) else s)
          (fun s r => k s b mem off (r != 0))))

/-- The PHASE as a result, with the poison of its granule. -/
def Ctx.phaseResult (c : Ctx) (s : State) (d : Dst) (b : Block) (off : Nat) (p : Bool) : State :=
  s.writeDst c d false (word32 (b2n p) (s.scratch.anyPoison (b.scrAddr off) 16)) none

def barArriveLane (p : BarD) (ps : Peers) (s : State) (c : Ctx) : LaneOut :=
  arriveStep p.gang p.m ps (.done (s.writeDst c p.d false ⟨0, false⟩ none)) s c
    (fun s b _ off ph => .done (c.phaseResult s p.d b off ph))
def execBarArrive (p : BarD) (s : State) : Host.Outcome State Fault Refusal := instrWith (.barArrive p) (barArriveLane p) s

/-- A wait against a token: at once when PHASE differs, with the acquire of its scope; else held (R413). -/
def Ctx.awaitPhase (c : Ctx) (s : State) (gang : Bool) (b : Block) (mem : Option Nat) (off : Nat) (token : Bool) : LaneOut :=
  if (s.barObj b off).phase != token then .done (c.acquire s (barScope gang))
  else .park (.bar ⟨b.rec_.rank, off + 4⟩ token mem.isSome gang) (s.seqPc c) s

def barWaitLane (p : BarV) (s : State) (c : Ctx) : LaneOut :=
  c.barrier s p.gang p.m (.done s) (fun s b mem off _ =>
    let v := c.src s 0 false p.c
    if v.poison then c.poisoned s 0x03 0 0 else c.awaitPhase s p.gang b mem off (bitOf v.nat 0))
def execBarWait (p : BarV) (s : State) : Host.Outcome State Fault Refusal := instr (.barWait p) (barWaitLane p) s

def barArrwaitLane (p : BarD) (ps : Peers) (s : State) (c : Ctx) : LaneOut :=
  arriveStep p.gang p.m ps (.done (s.writeDst c p.d false ⟨0, false⟩ none)) s c
    (fun s b mem off ph => c.awaitPhase (c.phaseResult s p.d b off ph) p.gang b mem off ph)
def execBarArrwait (p : BarD) (s : State) : Host.Outcome State Fault Refusal := instrWith (.barArrwait p) (barArrwaitLane p) s

/-! ## PHASE and FENCE (R226 to R229, R236, R415) -/

/-- `PHASE.ACQ`: the thread's loads have returned before the acquisition point. -/
def Ctx.phaseAcquire (c : Ctx) (s : State) (sc : Scope) : LaneOut :=
  if c.th.dem || sc == .blk then .done s
  else if (c.now s).loads.isEmpty then .done (c.acquire s sc)
  else .wait .loads s

def phaseAcqLane (p : Scoped) (s : State) (c : Ctx) : LaneOut := c.phaseAcquire s p.sc
def execPhaseAcq (p : Scoped) (s : State) : Host.Outcome State Fault Refusal := instr (.phaseAcq p) (phaseAcqLane p) s
def phaseRelLane (p : Scoped) (s : State) (c : Ctx) : LaneOut := c.release s p.sc .done
def execPhaseRel (p : Scoped) (s : State) : Host.Outcome State Fault Refusal := instr (.phaseRel p) (phaseRelLane p) s
def phaseArLane (p : Scoped) (s : State) (c : Ctx) : LaneOut := c.release s p.sc (fun s => c.phaseAcquire s p.sc)
def execPhaseAr (p : Scoped) (s : State) : Host.Outcome State Fault Refusal := instr (.phaseAr p) (phaseArLane p) s

/-- `FENCE`: this model's accesses perform at their places in program order already, but for those in the side log, which a fence
wider than `.BLK` waits for: of `.GANG` the stores, of `.DEV` and `.SYS` all (R204, R226, R249). -/
def fenceLane (p : Scoped) (s : State) (c : Ctx) : LaneOut :=
  if c.th.dem || p.sc == .blk || s.fenceClear c.blk (p.sc == .gang) then .done s else .wait (.fence (p.sc == .gang)) s
def execFence (p : Scoped) (s : State) : Host.Outcome State Fault Refusal := instr (.fence p) (fenceLane p) s

/-! ## WAITA (R248, R416) -/

def waitaLane (p : Waita) (s : State) (c : Ctx) : LaneOut :=
  if c.th.dem then .done (s.writeDst c p.d false ⟨0, false⟩ none)
  else match c.formObj s p.m 4 1 [1] with
    | .poison => c.poisoned s 0x02 0 0
    | .trap t => .trap t s
    | .scr _ off =>
      let w : ScrWord := ⟨c.blk.rec_.rank, off⟩
      .park (.waita w (s.scrWord c.blk w) p.d (s.seqPc c)) c.th.pc s
    | _ => .done s
def execWaita (p : Waita) (s : State) : Host.Outcome State Fault Refusal := instr (.waita p) (waitaLane p) s

end Sys2Proof.Machine
end

