-- ==== Sys2Proof/Machine/Dispatch.lean ====
section
/-! DEFINITION. Which meaning each instruction and device event has: one arm per constructor. -/

namespace Sys2Proof.Machine

/-- The meaning of an instruction or event in a state. -/
def exec (i : Instr) (s : State) : Host.Outcome State Fault Refusal :=
  match i with
  | .moduleReset r => Sys2Proof.Machine.execModuleReset r s
  | .linkTraining width rate => Sys2Proof.Machine.execLinkTraining width rate s
  | .unsupportedRequest fn q => Sys2Proof.Machine.execUnsupportedRequest fn q s
  | .liveFirmwareUpdate fw => Sys2Proof.Machine.execLiveFirmwareUpdate fw s
  | .monitorSample m => Sys2Proof.Machine.execMonitorSample m s
  | .powerAlarmClear => Sys2Proof.Machine.execPowerAlarmClear s
  | .thermalTripEnd => Sys2Proof.Machine.execThermalTripEnd s
  | .processMonitorRead counts => Sys2Proof.Machine.execProcessMonitorRead counts s
  | .energyMeterUpdate e => Sys2Proof.Machine.execEnergyMeterUpdate e s
  | .planningInterval => Sys2Proof.Machine.execPlanningInterval s
  | .pwrlimWrite v => Sys2Proof.Machine.execPwrlimWrite v s
  | .quadFailureRepair quad => Sys2Proof.Machine.execQuadFailureRepair quad s
  | .quadRemap quad pq => Sys2Proof.Machine.execQuadRemap quad pq s
  | .hbmRowSpare stack => Sys2Proof.Machine.execHbmRowSpare stack s
  | .hbmPageRetire frames => Sys2Proof.Machine.execHbmPageRetire frames s
  | .fabricLaneRetire port lane => Sys2Proof.Machine.execFabricLaneRetire port lane s
  | .moduleHotSwap module => Sys2Proof.Machine.execModuleHotSwap module s
  | .memoryScrub => Sys2Proof.Machine.execMemoryScrub s
  | .hiddenStructureError place syndrome => Sys2Proof.Machine.execHiddenStructureError place syndrome s
  | .correctedError c => Sys2Proof.Machine.execCorrectedError c s
  | .launchSlotWrite vf off bytes => Sys2Proof.Machine.execLaunchSlotWrite vf off bytes s
  | .launchCommit vf off bytes => Sys2Proof.Machine.execLaunchCommit vf off bytes s
  | .slotStatusRead vf slot => Sys2Proof.Machine.execSlotStatusRead vf slot s
  | .tcfgWrite t v => Sys2Proof.Machine.execTcfgWrite t v s
  | .memoryWindowWrite t off v => Sys2Proof.Machine.execMemoryWindowWrite t off v s
  | .peerEntryWrite t e v => Sys2Proof.Machine.execPeerEntryWrite t e v s
  | .pathcfgWrite t v => Sys2Proof.Machine.execPathcfgWrite t v s
  | .agemaxWrite t v => Sys2Proof.Machine.execAgemaxWrite t v s
  | .ptrootWrite vf v => Sys2Proof.Machine.execPtrootWrite vf v s
  | .stampWrite vf idx v => Sys2Proof.Machine.execStampWrite vf idx v s
  | .tmeasinWrite vf v => Sys2Proof.Machine.execTmeasinWrite vf v s
  | .attestationReport fn => Sys2Proof.Machine.execAttestationReport fn s
  | .attestationCertificate fn => Sys2Proof.Machine.execAttestationCertificate fn s
  | .attestationRequestEnd written => Sys2Proof.Machine.execAttestationRequestEnd written s
  | .registerWrite fn off size v => Sys2Proof.Machine.execRegisterWrite fn off size v s
  | .flinkRead fn port => Sys2Proof.Machine.execFlinkRead fn port s
  | .msixUnmask fn vec => Sys2Proof.Machine.execMsixUnmask fn vec s
  | .functionLevelReset vf => Sys2Proof.Machine.execFunctionLevelReset vf s
  | .apertureRead vf off size => Sys2Proof.Machine.execApertureRead vf off size s
  | .apertureWrite vf off bytes => Sys2Proof.Machine.execApertureWrite vf off bytes s
  | .flitLinkCheckFailure port => Sys2Proof.Machine.execFlitLinkCheckFailure port s
  | .writePacket port p => Sys2Proof.Machine.execWritePacket port p s
  | .writeWithSignalPacket port p => Sys2Proof.Machine.execWriteWithSignalPacket port p s
  | .readRequestPacket port p => Sys2Proof.Machine.execReadRequestPacket port p s
  | .readResponsePacket port p => Sys2Proof.Machine.execReadResponsePacket port p s
  | .atomicRequestPacket port p => Sys2Proof.Machine.execAtomicRequestPacket port p s
  | .atomicResponsePacket port p => Sys2Proof.Machine.execAtomicResponsePacket port p s
  | .flushMarkerPacket port p => Sys2Proof.Machine.execFlushMarkerPacket port p s
  | .markerAckPacket port p => Sys2Proof.Machine.execMarkerAckPacket port p s
  | .deliveryAckPacket port p => Sys2Proof.Machine.execDeliveryAckPacket port p s
  | .deliveryRefusalPacket port p => Sys2Proof.Machine.execDeliveryRefusalPacket port p s
  | .packetResendTimeout dmod sten dten seq => Sys2Proof.Machine.execPacketResendTimeout dmod sten dten seq s
  | .remoteHoldTimeout smod sten dten seq => Sys2Proof.Machine.execRemoteHoldTimeout smod sten dten seq s
  | .stepReadyPacket port p => Sys2Proof.Machine.execStepReadyPacket port p s
  | .stepDataPacket port p => Sys2Proof.Machine.execStepDataPacket port p s
  | .barrierArrivalPacket port p => Sys2Proof.Machine.execBarrierArrivalPacket port p s
  | .barrierReleasePacket port p => Sys2Proof.Machine.execBarrierReleasePacket port p s
  | .commSetupComplete comm others => Sys2Proof.Machine.execCommSetupComplete comm others s
  | .commSetupTimeout e => Sys2Proof.Machine.execCommSetupTimeout e s
  | .stepMatchTimeout chain => Sys2Proof.Machine.execStepMatchTimeout chain s
  | .exchr chain => Sys2Proof.Machine.execExchr chain s
  | .exchc chain => Sys2Proof.Machine.execExchc chain s
  | .send chain => Sys2Proof.Machine.execSend chain s
  | .recv chain => Sys2Proof.Machine.execRecv chain s
  | .rscat chain => Sys2Proof.Machine.execRscat chain s
  | .allred chain => Sys2Proof.Machine.execAllred chain s
  | .agath chain => Sys2Proof.Machine.execAgath chain s
  | .barrier chain => Sys2Proof.Machine.execBarrier chain s
  | .collStepComplete chain => Sys2Proof.Machine.execCollStepComplete chain s
  | .gangBind => Sys2Proof.Machine.execGangBind s
  | .gangStart quad node => Sys2Proof.Machine.execGangStart quad node s
  | .gangPreempt core ent => Sys2Proof.Machine.execGangPreempt core ent s
  | .gangRestore node block => Sys2Proof.Machine.execGangRestore node block s
  | .blockEnd core ent => Sys2Proof.Machine.execBlockEnd core ent s
  | .issueOpportunity core part env => Sys2Proof.Machine.execIssueOpportunity core part env s
  | .gapElapsed core ent tid => Sys2Proof.Machine.execGapElapsed core ent tid s
  | .yieldWake core ent tid => Sys2Proof.Machine.execYieldWake core ent tid s
  | .loadDataReturn core ent tid => Sys2Proof.Machine.execLoadDataReturn core ent tid s
  | .fetchBlockFill core ent tid => Sys2Proof.Machine.execFetchBlockFill core ent tid s
  | .granuleFill core ent tid g => Sys2Proof.Machine.execGranuleFill core ent tid g s
  | .pageWalk core t va write => Sys2Proof.Machine.execPageWalk core t va write s
  | .walkRetry t => Sys2Proof.Machine.execWalkRetry t s
  | .sideLogReplay core => Sys2Proof.Machine.execSideLogReplay core s
  | .sweeperVisit t => Sys2Proof.Machine.execSweeperVisit t s
  | .translationServicePoll t => Sys2Proof.Machine.execTranslationServicePoll t s
  | .inval t => Sys2Proof.Machine.execInval t s
  | .perm t => Sys2Proof.Machine.execPerm t s
  | .migrate t => Sys2Proof.Machine.execMigrate t s
  | .copyComplete core ent idx => Sys2Proof.Machine.execCopyComplete core ent idx s
  | .fabricCommandComplete id => Sys2Proof.Machine.execFabricCommandComplete id s
  | .matrixGrant quad => Sys2Proof.Machine.execMatrixGrant quad s
  | .matrixPass quad env => Sys2Proof.Machine.execMatrixPass quad env s
  | .matrixComplete quad => Sys2Proof.Machine.execMatrixComplete quad s
  | .snapshotPoint core ent => Sys2Proof.Machine.execSnapshotPoint core ent s
  | .rollback core ent => Sys2Proof.Machine.execRollback core ent s
  | .verifyTimeout core ent tid => Sys2Proof.Machine.execVerifyTimeout core ent tid s
  | .nop p => Sys2Proof.Machine.execNop p s
  | .bra p => Sys2Proof.Machine.execBra p s
  | .brx p => Sys2Proof.Machine.execBrx p s
  | .call p => Sys2Proof.Machine.execCall p s
  | .callx p => Sys2Proof.Machine.execCallx p s
  | .ret p => Sys2Proof.Machine.execRet p s
  | .exit p => Sys2Proof.Machine.execExit p s
  | .demote p => Sys2Proof.Machine.execDemote p s
  | .yield p => Sys2Proof.Machine.execYield p s
  | .trap p => Sys2Proof.Machine.execTrap p s
  | .tret p => Sys2Proof.Machine.execTret p s
  | .loop p => Sys2Proof.Machine.execLoop p s
  | .bkpt p => Sys2Proof.Machine.execBkpt p s
  | .iadd p => Sys2Proof.Machine.execIadd p s
  | .isub p => Sys2Proof.Machine.execIsub p s
  | .iadc p => Sys2Proof.Machine.execIadc p s
  | .isbc p => Sys2Proof.Machine.execIsbc p s
  | .imul p => Sys2Proof.Machine.execImul p s
  | .imulh p => Sys2Proof.Machine.execImulh p s
  | .imad p => Sys2Proof.Machine.execImad p s
  | .imadw p => Sys2Proof.Machine.execImadw p s
  | .imin p => Sys2Proof.Machine.execImin p s
  | .imax p => Sys2Proof.Machine.execImax p s
  | .iabs p => Sys2Proof.Machine.execIabs p s
  | .isad p => Sys2Proof.Machine.execIsad p s
  | .icmp p => Sys2Proof.Machine.execIcmp p s
  | .sel p => Sys2Proof.Machine.execSel p s
  | .iadd3 p => Sys2Proof.Machine.execIadd3 p s
  | .idivQ p => Sys2Proof.Machine.execIdivQ p s
  | .idivR p => Sys2Proof.Machine.execIdivR p s
  | .and p => Sys2Proof.Machine.execAnd p s
  | .or p => Sys2Proof.Machine.execOr p s
  | .xor p => Sys2Proof.Machine.execXor p s
  | .andn p => Sys2Proof.Machine.execAndn p s
  | .bool3 p => Sys2Proof.Machine.execBool3 p s
  | .shl p => Sys2Proof.Machine.execShl p s
  | .shr p => Sys2Proof.Machine.execShr p s
  | .sar p => Sys2Proof.Machine.execSar p s
  | .rotL p => Sys2Proof.Machine.execRotL p s
  | .rotR p => Sys2Proof.Machine.execRotR p s
  | .fshfL p => Sys2Proof.Machine.execFshfL p s
  | .fshfR p => Sys2Proof.Machine.execFshfR p s
  | .bfx p => Sys2Proof.Machine.execBfx p s
  | .bfi p => Sys2Proof.Machine.execBfi p s
  | .popc p => Sys2Proof.Machine.execPopc p s
  | .clz p => Sys2Proof.Machine.execClz p s
  | .brev p => Sys2Proof.Machine.execBrev p s
  | .permb p => Sys2Proof.Machine.execPermb p s
  | .mov p => Sys2Proof.Machine.execMov p s
  | .movi p => Sys2Proof.Machine.execMovi p s
  | .sset p => Sys2Proof.Machine.execSset p s
  | .ssetLo p => Sys2Proof.Machine.execSsetLo p s
  | .ssetHi p => Sys2Proof.Machine.execSsetHi p s
  | .sadd p => Sys2Proof.Machine.execSadd p s
  | .sld p => Sys2Proof.Machine.execSld p s
  | .rdsr p => Sys2Proof.Machine.execRdsr p s
  | .wrsr p => Sys2Proof.Machine.execWrsr p s
  | .rand p => Sys2Proof.Machine.execRand p s
  | .electWv p => Sys2Proof.Machine.execElectWv p s
  | .electBlk p => Sys2Proof.Machine.execElectBlk p s
  | .fadd p => Sys2Proof.Machine.execFadd p s
  | .fsub p => Sys2Proof.Machine.execFsub p s
  | .fmul p => Sys2Proof.Machine.execFmul p s
  | .ffma p => Sys2Proof.Machine.execFfma p s
  | .fmin p => Sys2Proof.Machine.execFmin p s
  | .fmax p => Sys2Proof.Machine.execFmax p s
  | .fcmp p => Sys2Proof.Machine.execFcmp p s
  | .frnd p => Sys2Proof.Machine.execFrnd p s
  | .fcls p => Sys2Proof.Machine.execFcls p s
  | .fscl p => Sys2Proof.Machine.execFscl p s
  | .hadd2 p => Sys2Proof.Machine.execHadd2 p s
  | .hmul2 p => Sys2Proof.Machine.execHmul2 p s
  | .hfma2 p => Sys2Proof.Machine.execHfma2 p s
  | .hmnmx2 p => Sys2Proof.Machine.execHmnmx2 p s
  | .hdot2 p => Sys2Proof.Machine.execHdot2 p s
  | .cvt p => Sys2Proof.Machine.execCvt p s
  | .cvtpP p => Sys2Proof.Machine.execCvtpP p s
  | .cvtpU p => Sys2Proof.Machine.execCvtpU p s
  | .qscale p => Sys2Proof.Machine.execQscale p s
  | .qnt p => Sys2Proof.Machine.execQnt p s
  | .dqnt p => Sys2Proof.Machine.execDqnt p s
  | .rcp p => Sys2Proof.Machine.execRcp p s
  | .rsq p => Sys2Proof.Machine.execRsq p s
  | .sqrt p => Sys2Proof.Machine.execSqrt p s
  | .exp2 p => Sys2Proof.Machine.execExp2 p s
  | .log2 p => Sys2Proof.Machine.execLog2 p s
  | .sinpi p => Sys2Proof.Machine.execSinpi p s
  | .cospi p => Sys2Proof.Machine.execCospi p s
  | .tanh p => Sys2Proof.Machine.execTanh p s
  | .xshf p => Sys2Proof.Machine.execXshf p s
  | .xred p => Sys2Proof.Machine.execXred p s
  | .xscan p => Sys2Proof.Machine.execXscan p s
  | .xvote p => Sys2Proof.Machine.execXvote p s
  | .xcmx p => Sys2Proof.Machine.execXcmx p s
  | .meet p => Sys2Proof.Machine.execMeet p s
  | .ld p => Sys2Proof.Machine.execLd p s
  | .st p => Sys2Proof.Machine.execSt p s
  | .atom p => Sys2Proof.Machine.execAtom p s
  | .red p => Sys2Proof.Machine.execRed p s
  | .cas p => Sys2Proof.Machine.execCas p s
  | .atfx p => Sys2Proof.Machine.execAtfx p s
  | .ldfx p => Sys2Proof.Machine.execLdfx p s
  | .pref p => Sys2Proof.Machine.execPref p s
  | .barInit p => Sys2Proof.Machine.execBarInit p s
  | .barExpect p => Sys2Proof.Machine.execBarExpect p s
  | .barArrive p => Sys2Proof.Machine.execBarArrive p s
  | .barWait p => Sys2Proof.Machine.execBarWait p s
  | .barArrwait p => Sys2Proof.Machine.execBarArrwait p s
  | .phaseAcq p => Sys2Proof.Machine.execPhaseAcq p s
  | .phaseRel p => Sys2Proof.Machine.execPhaseRel p s
  | .phaseAr p => Sys2Proof.Machine.execPhaseAr p s
  | .fence p => Sys2Proof.Machine.execFence p s
  | .waita p => Sys2Proof.Machine.execWaita p s
  | .cpyLin p => Sys2Proof.Machine.execCpyLin p s
  | .cpyGath p => Sys2Proof.Machine.execCpyGath p s
  | .cpytG2s p => Sys2Proof.Machine.execCpytG2s p s
  | .cpytS2g p => Sys2Proof.Machine.execCpytS2g p s
  | .put p => Sys2Proof.Machine.execPut p s
  | .puts p => Sys2Proof.Machine.execPuts p s
  | .get p => Sys2Proof.Machine.execGet p s
  | .collStep p => Sys2Proof.Machine.execCollStep p s
  | .collSetup p => Sys2Proof.Machine.execCollSetup p s
  | .collFree p => Sys2Proof.Machine.execCollFree p s
  | .launch p => Sys2Proof.Machine.execLaunch p s
  | .nsigArm p => Sys2Proof.Machine.execNsigArm p s
  | .nsigDec p => Sys2Proof.Machine.execNsigDec p s
  | .nsigCan p => Sys2Proof.Machine.execNsigCan p s
  | .nsigQry p => Sys2Proof.Machine.execNsigQry p s
  | .mxop p => Sys2Proof.Machine.execMxop p s
  | .mxldb p => Sys2Proof.Machine.execMxldb p s
  | .mxaccZero p => Sys2Proof.Machine.execMxaccZero p s
  | .mxaccLd p => Sys2Proof.Machine.execMxaccLd p s
  | .mxaccSt p => Sys2Proof.Machine.execMxaccSt p s
  | .mxaccFree p => Sys2Proof.Machine.execMxaccFree p s
  | .mxstat p => Sys2Proof.Machine.execMxstat p s
  | .mxstatClr p => Sys2Proof.Machine.execMxstatClr p s
  | .sriovVfEnable numVfs => Sys2Proof.Machine.execSriovVfEnable numVfs s
  | .chainStepReadTimeout chain => Sys2Proof.Machine.execChainStepReadTimeout chain s

end Sys2Proof.Machine
end

