-- ==== Sys2Proof/Machine/Schedule.lean ====
section
/-! DEFINITION. What happens next when the agenda names nothing: the device's own events in a fixed order (assumption 1). -/

namespace Sys2Proof.Machine

/-- The arrival of a packet by its kind; one of another kind reaches a port as a write and is counted there (R37). -/
def arrivalOf (p : Packet) : Instr :=
  if p.kind = 0x02 then .writeWithSignalPacket 0 p
  else if p.kind = 0x03 then .readRequestPacket 0 p
  else if p.kind = 0x04 then .readResponsePacket 0 p
  else if p.kind = 0x05 then .atomicRequestPacket 0 p
  else if p.kind = 0x06 then .atomicResponsePacket 0 p
  else if p.kind = 0x10 then .flushMarkerPacket 0 p
  else if p.kind = 0x11 then .markerAckPacket 0 p
  else if p.kind = 0x20 then .stepReadyPacket 0 p
  else if p.kind = 0x21 then .stepDataPacket 0 p
  else if p.kind = 0x30 then .barrierArrivalPacket 0 p
  else if p.kind = 0x31 then .barrierReleasePacket 0 p
  else if p.kind = 0x40 then .deliveryAckPacket 0 p
  else if p.kind = 0x41 then .deliveryRefusalPacket 0 p
  else .writePacket 0 p

/-- Packets of the module to itself. -/
def State.selfEvents (s : State) : List Instr :=
  (s.fabric.out.filter (fun p => p.dmod == s.boot.self)).map arrivalOf

/-- What a thread waits for beside its turn: a load's data, its fetch block, a granule, control after a `YIELD`. -/
def State.threadEvents (s : State) (b : Block) (th : Thread) : List Instr :=
  (if th.loads.isEmpty then [] else [.loadDataReturn b.core b.ent th.tid])
    ++ (match th.status with
      | .run => match s.nextInstr b th with
        | none => [.fetchBlockFill b.core b.ent th.tid]
        | some i => match nextUse i with
          | some u => (th.absent u).map (fun g => .granuleFill b.core b.ent th.tid g)
          | none => []
      | .yield => [.yieldWake b.core b.ent th.tid]
      | _ => th.spills.map (fun x => .granuleFill b.core b.ent th.tid x.g))

/-- Events of a block. -/
def Block.events (b : Block) : List Instr :=
  (b.threads.filter (fun th => match th.wait with | some (.verify _) => true | _ => false)).map (fun th =>
      .verifyTimeout b.core b.ent th.tid)
    ++ (List.range b.copies.length).map (fun i => .copyComplete b.core b.ent i)
    ++ (if b.snap.isSome then [.snapshotPoint b.core b.ent, .rollback b.core b.ent] else [])
    ++ [.gangPreempt b.core ⟨b.ent, false⟩, .blockEnd b.core b.ent]

/-- Events of a chain of collective steps. -/
def chainEvents (h : Chain) : List Instr :=
  [.collStepComplete h.id, .exchr h.id, .exchc h.id, .send h.id, .recv h.id, .rscat h.id, .allred h.id, .agath h.id,
   .barrier h.id, .stepMatchTimeout h.id, .chainStepReadTimeout h.id]

/-- Events of the engines and of the fabric. -/
def State.engineEvents (s : State) : List Instr :=
  s.fabric.cmds.map (fun k => .fabricCommandComplete k.id)
    ++ s.fabric.unacked.map (fun u => .packetResendTimeout u.packet.dmod u.packet.sten u.packet.dten u.packet.seq)
    ++ s.fabric.held.map (fun h => .remoteHoldTimeout h.packet.smod h.packet.sten h.packet.dten h.packet.seq)
    ++ s.coll.chains.flatMap chainEvents
    ++ s.coll.comms.flatMap (fun c =>
      (if c.size = 1 then [.commSetupComplete (BitVec.ofNat 8 c.id) []] else []) ++ [.commSetupTimeout ⟨BitVec.ofNat 8 c.id, false⟩])

/-- What the matrix engines do next: a grant by an idle one, and the end of a phase of a running operation (R451). -/
def State.matrixEvents (s : State) : List Instr :=
  s.engines.flatMap (fun e =>
    if e.running.isNone then (if e.table.isEmpty then [] else [.matrixGrant e.quad])
    else if e.due ≤ s.cycle then [.matrixPass e.quad ⟨false, [], []⟩, .matrixComplete e.quad]
    else [])

/-- Events of Fevar's scheduler. -/
def State.fevarEvents (s : State) : List Instr :=
  (if s.nodes.isEmpty then [] else [.gangBind])
    ++ s.images.map (fun i => .gangRestore i.rec_.node i.gang.2.2)
    ++ (s.blocks.filter (fun b => !b.started)).map (fun b => .gangStart (quadOf b.core) b.rec_.node)

/-- Events of translation: replays, held accesses tried again, and the command of a tenant. -/
def State.translationEvents (s : State) : List Instr :=
  (s.cores.filter (fun c => !c.sideLog.isEmpty)).map (fun c => .sideLogReplay c.num)
    ++ (List.range Config.tenants).flatMap (fun t =>
      if (s.tenant t).enable then [.walkRetry t, .inval t, .perm t, .migrate t, .translationServicePoll t] else [])

/-- The first partition with a ready thread and a free issue. -/
def State.issueEvents (s : State) : List Instr :=
  ((s.blocks.flatMap (fun b => (b.threads.filter (fun th => s.ready b th)).map (fun th => (b.core, partOf th.tid)))).find?
    (fun x => decide ((lookupNat (0, 0) (s.core x.1).busy x.2).2 ≤ s.cycle))).toList.map
      (fun x => .issueOpportunity x.1 x.2 ⟨[], [], none, []⟩)

/-! ## What falls due with the timebase (R25, R29, R34, R132, R218) -/

/-- The monitors' readings of a sample (assumption 79). -/
def ownSample (n : Nat) : Sample where
  quads := (List.range 50).map (Config.temperature n)
  edges := (List.range 96).map (fun i => Config.temperature n (50 + i))
  hbm := (List.range 8).map (fun i => Config.temperature n (146 + i))
  coolIn := Config.temperature n 154
  coolOut := Config.temperature n 155
  droops := (List.range Config.cores).filter (Config.dips n)
  rails := Config.railPower n
  power1000 := Config.modulePower n

/-- The energy of a meter update (assumption 80). -/
def ownEnergy (n : Nat) : EnergyReport where
  cores := (List.range Config.cores).map (fun i => (i, Config.coreEnergy n i))
  engines := (List.range Config.quads).map (fun i => (i, Config.engineEnergy n i))
  requests := (List.range 3).map (fun i => (i, Config.requestEnergy n i))
  module := Config.moduleEnergy n

/-- The periodic event that is due: samples, then meters, which the planner reads, then the planner, then the process monitors and
the sweeper. -/
def State.dueEvent (s : State) : Option Instr :=
  if s.power.samples < s.halfNs / oneMicro then some (.monitorSample (ownSample (s.halfNs / oneMicro)))
  else if s.power.updates < s.halfNs / tenMicro then some (.energyMeterUpdate (ownEnergy (s.halfNs / tenMicro)))
  else if 7 ≤ s.boot.step ∧ s.power.interval < s.halfNs / oneMilli then some .planningInterval
  else if 4 ≤ s.boot.step ∧ s.power.processReads < s.halfNs / oneSecond then
    some (.processMonitorRead ((List.range 51).map (Config.oscillator (s.halfNs / oneSecond))))
  else if 7 ≤ s.boot.step then ((List.range Config.tenants).find? s.sweepDue).map .sweeperVisit
  else none

/-- What is due before more time passes: a step of bring-up, or a periodic event. -/
def State.duty (s : State) : Option (Host.Outcome State Fault Refusal) :=
  match s.boot.report with
  | some r => if s.boot.due ≤ s.halfNs then some (.next (s.bringUp r)) else s.dueEvent.map (fun ev => exec ev s)
  | none => s.dueEvent.map (fun ev => exec ev s)

/-- Cycles that may pass before the next µs of timebase, at which alone the periodic events fall due, and before the end of a step
of bring-up; none while something is due. -/
def State.room (s : State) : Nat :=
  let cyclesTo (t : Nat) : Nat := ceilDiv (t - s.halfNs) s.cycleTime
  if s.duty.isSome then 0
  else
    let n := cyclesTo ((s.halfNs / oneMicro + 1) * oneMicro)
    if s.boot.report.isSome && decide (cyclesTo s.boot.due < n) then cyclesTo s.boot.due else n

/-- Events of the threads and of the matrix arrays, which may take place in any cycle. -/
def State.fastEvents (s : State) : List Instr :=
  s.selfEvents ++ s.matrixEvents ++ s.blocks.flatMap (fun b => b.threads.flatMap (s.threadEvents b)) ++ s.issueEvents

/-- Events of the engines, of Fevar and of translation. -/
def State.slowEvents (s : State) : List Instr :=
  s.blocks.flatMap Block.events ++ s.engineEvents ++ s.fevarEvents ++ s.translationEvents
    ++ (if s.requests.isEmpty then [] else [Instr.attestationRequestEnd true]) ++ [Instr.powerAlarmClear, Instr.thermalTripEnd]

/-- Cycles between two turns of the engines: the time that they take is open (assumption 1). -/
def enginePace : Nat := 64

/-- The device's own events of a cycle, in order. -/
def State.ownEvents (s : State) : List Instr := s.fastEvents ++ (if s.cycle % enginePace = 0 then s.slowEvents else [])

/-- The end of every step: the blocks of `DET` grids that it parked pass control (R174), and threads that have left a shot-down fetch
block no longer use it (R214). -/
def endStep : Host.Outcome State Fault Refusal → Host.Outcome State Fault Refusal
  | .next s => .next s.settleControl.trimCode
  | r => r

/-- An event changes the state. -/
def State.moves (s : State) (ev : Instr) : Bool :=
  match exec ev s with
  | .next t => decide (t ≠ s)
  | _ => false

/-- The event that the device performs next of itself; none lets a cycle pass. -/
def State.choose (s : State) : Option Instr := s.ownEvents.find? s.moves

end Sys2Proof.Machine
end

