-- ==== Sys2Proof/Machine/Step.lean ====
section
/-! DEFINITION. One step of the machine, and the placing of a word where the next step fetches. -/

namespace Sys2Proof.Machine

/-- One step: a shed that has been formed executes the instruction at its PC; else the next occasion of the agenda
takes place, but what falls due before its time comes first; with an empty agenda, what is due, the device's own next event, or a
cycle passes. Blocks of `DET` grids that the step parks pass control in it (R174). -/
def step (s : State) : Host.Outcome State Fault Refusal :=
  endStep (match s.shed with
  | some sh =>
    match s.fetched sh with
    | .ok i => exec i s
    | .error _ => .next (illegalShed s sh (s.shedWord sh))
  | none =>
    match s.agenda with
    | o :: os =>
      if o.dt ≤ s.room then exec o.ev (({ s with agenda := os } : State).pass o.dt)
      else match s.duty with
        | some r => r
        | none => .next (({ s with agenda := { o with dt := o.dt - s.room } :: os } : State).pass s.room)
    | [] =>
      match s.duty with
      | some r => r
      | none => match s.choose with
        | some ev => exec ev s
        | none => .next (s.pass 1))

/-- The word of `nbits` bits placed in the instruction buffer of core 0 as the only slot of a block, a block of one
thread bound there and its shed formed at the word: the next step runs exactly it (assumption 2). -/
def State.withFetchWord (s : State) (nbits w : Nat) : State :=
  ({ s with
    blocks := fetchBlock :: s.blocks.filter (fun b => !(b.core == 0 && b.ent == 0))
    shed := some ⟨0, 0, 0x1004, [⟨0, 0, 0⟩], none⟩ } : State).ibufPut 0 (fetchIBlock (BitVec.ofNat 96 (w % 2 ^ nbits)))

end Sys2Proof.Machine
end

