-- ==== Sys2Proof/Safety.lean ====
section
/-! DEFINITION. What the statements speak of: the invariant of the memories, a shed of one thread that executes, and what such an instruction leaves. -/

namespace Sys2Proof.Machine

/-- The memories of a state are in canonical form. -/
def State.wf (s : State) : Bool := s.mem.wf && s.host.wf && s.scratch.wf && s.bstore.wf

/-! ## A shed of one thread -/

/-- The granules that the destination of an instruction needs beyond those its thread has fit into the lane's 64
(R156). -/
def State.hasRoom (s : State) (u : Use) (c : Ctx) : Bool :=
  let gs := runAll addNat (u.writes.flatMap (fun r => regGranules (c.th.fbase + r.1) r.2)) []
  let new := gs.filter (fun g => !c.th.granules.contains g)
  new.isEmpty || decide (s.laneGranules c.id + new.length ≤ 64)

/-- The state once a shed is taken: its partition is busy and the lane's latches are those the thread sees. -/
def State.begun (s : State) (sh : Shed) (u : Use) (c : Ctx) : State :=
  (({ s with shed := none } : State).occupy sh (u.shedCycles [c])).setLane c.ln

/-- The shed of a state holds one thread, which may begin the instruction: it has not exited, its block does not run a
differing twin issue, and its chain is not too long. -/
structure Begins (s : State) (sh : Shed) (u : Use) (c : Ctx) : Prop where
  shed : s.shed = some sh
  members : sh.members = [c.id]
  ctx : ({ s with shed := none } : State).ctx c.id = some c
  twin : sh.twinCtx [c] = none
  chain : u.chainTooLong c = false
  live : c.th.exited = false

/-- The thread executes the instruction's own effect: its guard is true and unpoisoned, its operands lie in the frame,
its latches are valid and its destination has room. -/
structure Solo (s : State) (sh : Shed) (u : Use) (c : Ctx) : Prop extends Begins s sh u c where
  guard : guardTrue u.head c.th.ccs = true
  clean : u.guardPoison c = false
  frame : u.beyondFrame c.th.frame = false
  latches : u.latchBad c = false
  room : s.hasRoom u c = true

/-- The PC in sequence after the thread's instruction. -/
def State.after (s : State) (sh : Shed) (u : Use) (c : Ctx) : CodeAddr := (s.begun sh u c).seqPc c

/-- How the instruction of a shed of one thread ends, from how its lane ends. -/
def State.ends (s : State) (sh : Shed) (u : Use) (c : Ctx) (o : LaneOut) : State := finishLane u c (s.after sh u c) o

/-! ## What an instruction leaves -/

/-- A block without its threads. -/
def Block.bare (b : Block) : Block := { b with threads := [] }

/-- What every completed issue does to its thread, whose own effect has made it `th`: last-use marks, chain, gap and
pending result, and the next PC. -/
def Ctx.completed (c : Ctx) (s : State) (u : Use) (pc : CodeAddr) (th : Thread) : Thread :=
  { th.issued u c s.cycle true with pc := pc }

/-- `t` is `s` after the instruction of a shed of one thread that left that thread as `th`: no other thread, no block
beside its threads, no memory, no line of a cache, no other lane and no register of the part has changed; its partition
is busy, its slots are counted for the meters (R30) and the instruction buffer may have reordered. -/
structure Ended (s t : State) (c : Ctx) (th : Thread) : Prop where
  thread : t.thread? c.id = some th
  others : ∀ id, id ≠ c.id → t.thread? id = s.thread? id
  blocks : ∀ core ent, (t.block? core ent).map Block.bare = (s.block? core ent).map Block.bare
  rest : t = { s with shed := none, blocks := t.blocks, cores := t.cores, lanes := t.lanes, power := t.power }
  power : { t.power with used := [] } = { s.power with used := [] }
  cores : ∀ n, { t.core n with busy := [], ibuf := [] } = { s.core n with busy := [], ibuf := [] }
  lanes : ∀ core part lane, ¬ (core = c.id.core ∧ part = partOf c.id.tid ∧ lane = laneOf c.id.tid) →
    t.lane core part lane = s.lane core part lane

/-- A thread with a result in its destination: the register or pair unless NWB, and flags in the condition register
that CCE names, all with the result's poison (R287, R314, R339). -/
def Thread.writes (th : Thread) (d : Dst) (wide : Bool) (v : UVal) (fl : Option Flags) : Thread :=
  let i := th.fbase + d.reg.toNat
  let a := if d.nwb then th
    else if wide then (th.setReg i ⟨v.val.extractLsb' 0 32, v.poison⟩).setReg (i + 1) ⟨v.val.extractLsb' 32 32, v.poison⟩
    else th.setReg i ⟨v.val.extractLsb' 0 32, v.poison⟩
  match fl with
  | some f => if d.cce then { a with ccs := a.ccs.set d.cct ⟨f, v.poison⟩ } else a
  | none => a

/-- What an instruction with a vector destination leaves: result, flags, raised `FPSTAT` flags, the shifted latches,
and the instruction buffer as it was. -/
structure Wrote (s t : State) (sh : Shed) (u : Use) (c : Ctx) (d : Dst) (wide : Bool) (v : UVal) (fl : Option Flags)
    (fp : BitVec 5) : Prop where
  ended : Ended s t c (c.completed s u (s.after sh u c)
    { c.th.writes d wide v fl with fpstat := c.th.fpstat ||| fp })
  latches : t.laneFor c.id = c.ln.shift v
  ibuf : ∀ n, (t.core n).ibuf = (s.core n).ibuf

/-- An instruction executes its own effect in every shed of one thread and leaves a result in its destination. -/
def Writes (i : Instr) (d : Dst) (wide : Bool) (val : State → Ctx → UVal) (fl : State → Ctx → Option Flags)
    (fp : State → Ctx → BitVec 5) : Prop :=
  ∀ s sh u c, useOf i = some u → Solo s sh u c →
    ∃ t, exec i s = .next t ∧ Wrote s t sh u c d wide (val s c) (fl s c) (fp s c)

/-- An instruction executes its own effect in every shed of one thread that meets `cond`, and ends its lane with
`eff`. -/
def Does (i : Instr) (cond : State → Ctx → Prop) (eff : State → Ctx → LaneOut) : Prop :=
  ∀ s sh u c, useOf i = some u → Solo s sh u c → cond (s.begun sh u c) c →
    exec i s = .next (s.ends sh u c (eff (s.begun sh u c) c))

/-! ## Integers as the spec writes them (R339, R342) -/

/-- `ext` of R342: an operand of an integer type as an integer. -/
def valueOf (t : Ty) (x : DWord) : Int :=
  match t with
  | .i32 => (x.extractLsb' 0 32).toInt
  | .i64 => x.toInt
  | .n64 => x.toNat
  | _ => (x.extractLsb' 0 32).toNat

/-- Least and greatest values of an integer type (R263, R342). -/
def leastOf (t : Ty) : Int :=
  match t with
  | .i32 => -2 ^ 31
  | .i64 => -2 ^ 63
  | _ => 0
def greatestOf (t : Ty) : Int :=
  match t with
  | .i32 => 2 ^ 31 - 1
  | .i64 => 2 ^ 63 - 1
  | .n64 => 2 ^ 64 - 1
  | _ => 2 ^ 32 - 1

/-- The result of an exact value: clamped to the type under SAT, else its low `w` bits. -/
def cutTo (t : Ty) (sat : Bool) (e : Int) : DWord :=
  let v := if sat then max (leastOf t) (min e (greatestOf t)) else e
  if t.wide then BitVec.ofInt 64 v else (BitVec.ofInt 32 v).zeroExtend 64

/-- A value lies outside a type. -/
def outside (t : Ty) (e : Int) : Bool := decide (e < leastOf t) || decide (greatestOf t < e)

/-- The flags of a result of an integer type (R342). -/
def flagsOf (wide : Bool) (r : DWord) (c v : Bool) : Flags := ⟨r.getLsbD (if wide then 63 else 31), r == 0, c, v⟩

/-- The signed and the unsigned type of a type's width. -/
def signedTy (t : Ty) : Ty := if t.wide then .i64 else .i32
def unsignedTy (t : Ty) : Ty := if t.wide then .n64 else .n32

/-- Some source of a list is poisoned. -/
def anyPoison (us : List UVal) : Bool := us.any (·.poison)

/-- An instruction writes a result, with flags C and V beside the N and Z of the result, and the poison of its sources
(R287, R342). -/
def WritesInt (i : Instr) (d : Dst) (wide : Bool) (sources : State → Ctx → List UVal) (r : State → Ctx → DWord)
    (c v : State → Ctx → Bool) : Prop :=
  Writes i d wide (fun s x => ⟨r s x, anyPoison (sources s x)⟩) (fun s x => some (flagsOf wide (r s x) (c s x) (v s x)))
    (fun _ _ => 0)

/-- Width of an integer type. -/
def tyWidth (t : Ty) : Nat := if t.wide then 64 else 32

/-- Every well-formed instruction of two sources, the second of 32 bits where `b32`, writes `r`. -/
def Alu2Writes (mk : Alu2 → Instr) (b32 : Bool) (r : Alu2 → DWord → DWord → DWord) (c v : Alu2 → DWord → DWord → Bool) :
    Prop :=
  ∀ p : Alu2, (mk p).wf = true →
    let a := fun (s : State) (x : Ctx) => x.src s p.imm p.ty.wide p.a
    let b := fun (s : State) (x : Ctx) => x.src s p.imm (p.ty.wide && !b32) p.b
    WritesInt (mk p) p.d p.ty.wide (fun s x => [a s x, b s x]) (fun s x => r p (a s x).val (b s x).val)
      (fun s x => c p (a s x).val (b s x).val) (fun s x => v p (a s x).val (b s x).val)

/-- The same of three sources; the flags say for each type which operands are pairs. -/
def Alu3Writes (mk : Alu3 → Instr) (dw aw bw qw : Ty → Bool) (r : Alu3 → DWord → DWord → DWord → DWord)
    (c v : Alu3 → DWord → DWord → DWord → Bool) : Prop :=
  ∀ p : Alu3, (mk p).wf = true →
    let a := fun (s : State) (x : Ctx) => x.src s 0 (aw p.ty) p.a
    let b := fun (s : State) (x : Ctx) => x.src s 0 (bw p.ty) p.b
    let q := fun (s : State) (x : Ctx) => x.src s 0 (qw p.ty) p.c
    WritesInt (mk p) p.d (dw p.ty) (fun s x => [a s x, b s x, q s x])
      (fun s x => r p (a s x).val (b s x).val (q s x).val) (fun s x => c p (a s x).val (b s x).val (q s x).val)
      (fun s x => v p (a s x).val (b s x).val (q s x).val)

/-- The same of one source; a 32-bit result where `d32`. -/
def Alu1Writes (mk : Alu1 → Instr) (d32 : Bool) (r : Alu1 → DWord → DWord) (v : Alu1 → DWord → Bool) : Prop :=
  ∀ p : Alu1, (mk p).wf = true →
    let a := fun (s : State) (x : Ctx) => x.src s p.imm p.ty.wide p.a
    WritesInt (mk p) p.d (p.ty.wide && !d32) (fun s x => [a s x]) (fun s x => r p (a s x).val) (fun _ _ => false)
      (fun s x => v p (a s x).val)

/-- The dword whose bit `i` below `w` is `f i`, as a property. -/
def IsBits (w : Nat) (f : Nat → Bool) (r : DWord) : Prop := ∀ i, r.getLsbD i = (decide (i < w) && f i)

/-- Every well-formed instruction of two sources writes the value with these bits, and these flags C. -/
def Alu2Bits (mk : Alu2 → Instr) (b32 : Bool) (f : Alu2 → DWord → DWord → Nat → Bool) (c : Alu2 → DWord → DWord → Bool) :
    Prop :=
  ∃ r, (∀ p a b, IsBits (tyWidth p.ty) (f p a b) (r p a b)) ∧ Alu2Writes mk b32 r c (fun _ _ _ => false)

/-- The same of three sources, the widths of the second and third given. -/
def Alu3Bits (mk : Alu3 → Instr) (bw qw : Ty → Bool) (f : Alu3 → DWord → DWord → DWord → Nat → Bool) : Prop :=
  ∃ r, (∀ p a b q, IsBits (tyWidth p.ty) (f p a b q) (r p a b q)) ∧
    Alu3Writes mk Ty.wide Ty.wide bw qw r (fun _ _ _ _ => false) (fun _ _ _ _ => false)

/-- Byte `i` of a value. -/
def byteOf (x : DWord) (i : Nat) : Byte := x.extractLsb' (8 * i) 8

/-- Table register `j` of a `PERMB` (R365). -/
def tableReg (p : Permb) (c : Ctx) (j : Nat) : UVal :=
  match p.tbl with
  | .v r => let w := c.th.reg (c.th.fbase + r.toNat + j); ⟨w.val.zeroExtend 64, w.poison⟩
  | .s r => c.blk.uni (r.toNat + j)
  | _ => ⟨0, false⟩

/-- D of R358: the difference of words, or the sum of the differences of four bytes. -/
def absDifference (t : Ty) (a b : DWord) : Nat :=
  match t with
  | .i8 => ((List.range 4).map (fun i => ((byteOf a i).toInt - (byteOf b i).toInt).natAbs)).sum
  | .n8 => ((List.range 4).map (fun i => (((byteOf a i).toNat : Int) - (byteOf b i).toNat).natAbs)).sum
  | t => (valueOf t a - valueOf t b).natAbs

/-- The comparison `cmp` of R358. -/
def cmpSays : Cmp → Int → Int → Bool
  | .eq, x, y => decide (x = y)
  | .ne, x, y => decide (x ≠ y)
  | .lt, x, y => decide (x < y)
  | .le, x, y => decide (x ≤ y)
  | .gt, x, y => decide (x > y)
  | .ge, x, y => decide (x ≥ y)

/-- Quotient, remainder and V of R359. -/
def divided (t : Ty) (sat : Bool) (x y : Int) : Int × Int × Bool :=
  if y = 0 then (if 0 ≤ x then greatestOf t else leastOf t, x, true)
  else if (t = .i32 ∨ t = .i64) ∧ x = leastOf t ∧ y = -1 then (if sat then greatestOf t else leastOf t, 0, true)
  else (x.tdiv y, x.tmod y, false)

/-- What a uniform write leaves: the register of the block, and beside it only the thread that executed. -/
structure UniWrote (s t : State) (c : Ctx) (th : Thread) (r : BitVec 8) (v : UVal) : Prop where
  thread : t.thread? c.id = some th
  others : ∀ id, id ≠ c.id → t.thread? id = s.thread? id
  block : (t.block? c.id.core c.id.ent).map Block.bare = some (c.blk.setUni r.toNat v).bare
  blocks : ∀ core ent, ¬ (core = c.id.core ∧ ent = c.id.ent) →
    (t.block? core ent).map Block.bare = (s.block? core ent).map Block.bare
  rest : t = { s with shed := none, blocks := t.blocks, cores := t.cores, lanes := t.lanes, power := t.power }
  power : { t.power with used := [] } = { s.power with used := [] }
  cores : ∀ n, { t.core n with busy := [] } = { s.core n with busy := [] }

/-- A uniform write (R168, R169, R368): by the holder of the token that is not demoted it writes the register, and the
flags that CCE asks for; any other thread takes the token trap. -/
def WritesUniform (i : Instr) (r : BitVec 8) (v : State → Ctx → UVal)
    (fl : Option (BitVec 2 × (State → Ctx → Flags))) : Prop :=
  ∀ s sh u c, useOf i = some u → Solo s sh u c →
    (c.blk.token = some c.id.tid → c.th.dem = false →
      ∃ t, exec i s = .next t ∧
        UniWrote s t c (c.completed s u (s.after sh u c) { c.th with ccs := match fl with
            | some (k, f) => c.th.ccs.set k ⟨f s c, (v s c).poison⟩
            | none => c.th.ccs }) r (v s c)) ∧
    (c.blk.token ≠ some c.id.tid ∨ c.th.dem = true →
      exec i s = .next (s.ends sh u c (.trap { kind := 0x07 } (s.begun sh u c))))

/-! ## Floating point as the spec writes it (R254 to R261, R375 to R393) -/

/-- An instruction writes a floating-point result, with the `FPSTAT` flags that it raises and the poison of its sources
(R287, R375). -/
def WritesFp (i : Instr) (d : Dst) (wide : Bool) (sources : State → Ctx → List UVal) (r : State → Ctx → Nat × BitVec 5)
    (fl : State → Ctx → Option Flags) : Prop :=
  Writes i d wide (fun s c => ⟨BitVec.ofNat 64 (r s c).1, anyPoison (sources s c)⟩) fl (fun s c => (r s c).2)

/-- Every well-formed instruction of one source, of two or of three, of one type throughout. -/
def Fp1Writes (mk : Fp1 → Instr) (r : Fp1 → Contract → Nat → Nat × BitVec 5) : Prop :=
  ∀ p : Fp1, (mk p).wf = true →
    let a := fun (s : State) (c : Ctx) => c.src s p.imm p.ty.wide p.a
    WritesFp (mk p) p.d p.ty.wide (fun s c => [a s c]) (fun s c => r p c.blk.contract (a s c).nat) (fun _ _ => none)

def Fp2Writes (mk : Fp2 → Instr) (r : Fp2 → Contract → Nat → Nat → Nat × BitVec 5) : Prop :=
  ∀ p : Fp2, (mk p).wf = true →
    let a := fun (s : State) (c : Ctx) => c.src s p.imm p.ty.wide p.a
    let b := fun (s : State) (c : Ctx) => c.src s p.imm p.ty.wide p.b
    WritesFp (mk p) p.d p.ty.wide (fun s c => [a s c, b s c]) (fun s c => r p c.blk.contract (a s c).nat (b s c).nat)
      (fun _ _ => none)

def Fp3Writes (mk : Fp3 → Instr) (r : Fp3 → Contract → Nat → Nat → Nat → Nat × BitVec 5) : Prop :=
  ∀ p : Fp3, (mk p).wf = true →
    let a := fun (s : State) (c : Ctx) => c.src s 0 p.ty.wide p.a
    let b := fun (s : State) (c : Ctx) => c.src s 0 p.ty.wide p.b
    let q := fun (s : State) (c : Ctx) => c.src s 0 p.ty.wide p.c
    WritesFp (mk p) p.d p.ty.wide (fun s c => [a s c, b s c, q s c])
      (fun s c => r p c.blk.contract (a s c).nat (b s c).nat (q s c).nat) (fun _ _ => none)

/-- The result of an operation whose exact value is `x`: canonical NaN with NV where the operation is invalid, canonical
NaN without a flag where an operand is a NaN, else `Round` (R377). -/
def resultOf (f : Fmt) (md : Rnd) (vsub invalid nan : Bool) (x : Num) : Nat × BitVec 5 :=
  if invalid then (f.nanBits, fNV) else if nan then (f.nanBits, 0) else f.round md vsub x

/-- Sum, difference and product of two values, and multiply-add, as R377 gives them. -/
def sumSays (f : Fmt) (md : Rnd) (vsub : Bool) (a b : Num) : Nat × BitVec 5 :=
  resultOf f md vsub (a.isInf && b.isInf && a.neg? != b.neg?) (a.isNaN || b.isNaN) (a.add md b).1
def productSays (f : Fmt) (md : Rnd) (vsub : Bool) (a b : Num) : Nat × BitVec 5 :=
  resultOf f md vsub ((a.isZero && b.isInf) || (a.isInf && b.isZero)) (a.isNaN || b.isNaN) (a.mul b).1
def multiplyAddSays (f : Fmt) (md : Rnd) (vsub vfma : Bool) (a b c : Num) : Nat × BitVec 5 :=
  if (a.isZero && b.isInf) || (a.isInf && b.isZero) then (f.nanBits, fNV)
  else if a.isNaN || b.isNaN || c.isNaN then (f.nanBits, 0)
  else if vfma then
    let p := f.round md vsub (a.mul b).1
    let r := sumSays f md vsub (f.read false p.1) c
    (r.1, p.2 ||| r.2)
  else sumSays f md vsub (a.mul b).1 c

/-- The order of R378: a zero of sign - is smaller than one of sign +. -/
def smaller (a b : Num) : Bool := a.cmp b == .lt || (a.cmp b == .eq && a.neg? && !b.neg?)

/-- The smaller or the larger of two operands, as read (R378). -/
def extremeSays (f : Fmt) (max vsub : Bool) (x y : Nat) : Nat :=
  let a := f.read vsub x
  let b := f.read vsub y
  if a.isNaN && b.isNaN then f.nanBits
  else if a.isNaN then f.asRead vsub y
  else if b.isNaN then f.asRead vsub x
  else if (if max then smaller a b else smaller b a) then f.asRead vsub y else f.asRead vsub x

/-- The relation of two operands, none where they are unordered; the comparisons that hold for it and its flags (R379). -/
def relationOf (a b : Num) : Option Ordering := if a.isNaN || b.isNaN then none else some (a.cmp b)
def relationHolds (r : Option Ordering) : FCmp → Bool
  | .eq => r == some .eq
  | .ne => r != some .eq
  | .lt => r == some .lt
  | .le => r == some .lt || r == some .eq
  | .gt => r == some .gt
  | .ge => r == some .gt || r == some .eq
  | .un => r == none
def relationFlags : Option Ordering → Flags
  | some .lt => ⟨true, false, false, false⟩
  | some .eq => ⟨false, true, true, false⟩
  | some .gt => ⟨false, false, true, false⟩
  | none => ⟨false, false, true, true⟩

/-- The class of raw bits (R381). -/
def classSays (f : Fmt) (x : Nat) : Nat :=
  match f.read false x with
  | .inf n => if n then 0 else 7
  | .nan => if bitOf x (f.fbits - 1) then 9 else 8
  | .fin n m _ =>
    if m = 0 then (if n then 3 else 4) else if m < 2 ^ f.fbits then (if n then 2 else 5) else if n then 1 else 6

/-- Both elements of packed pairs (R382). -/
def bothHalves (f : Nat → Nat → Nat → Nat × BitVec 5) (a b q : Nat) : Nat × BitVec 5 :=
  let h := fun x i => x / 2 ^ (16 * i) % 2 ^ 16
  ((f (h a 0) (h b 0) (h q 0)).1 + 2 ^ 16 * (f (h a 1) (h b 1) (h q 1)).1,
    (f (h a 0) (h b 0) (h q 0)).2 ||| (f (h a 1) (h b 1) (h q 1)).2)

/-- A word with element `i` of `w` bits replaced (R384). -/
def WithElement (w i q code r : Nat) : Prop := ∀ j, field r (w * j) w = if j = i then code else field q (w * j) w

/-! ## Transfers, effects and memory -/

/-- An instruction with this condition transfers to a target (R345): when the target's block passes its checks the lane
ends with `eff`; a page that is not valid holds the thread at the instruction; a block in another module is waited for; a failed
check traps there. -/
def Transfers (i : Instr) (cond : State → Ctx → Prop) (target : State → Ctx → CodeAddr) (entry : Bool)
    (eff : State → Ctx → IBlock → LaneOut) : Prop :=
  let met := fun (s : State) (c : Ctx) => s.reach c.id c.blk.tenant (target s c).toNat c.th.pc.toNat entry false
  (∀ s1 k, Does i (fun s c => cond s c ∧ met s c = (s1, .ok k)) (fun _ c => eff s1 c k)) ∧
  (∀ s1, Does i (fun s c => cond s c ∧ met s c = (s1, .hold)) (fun s c => .hold (target s c).toNat false s1)) ∧
  (∀ s1, Does i (fun s c => cond s c ∧ met s c = (s1, .lines)) (fun _ _ => .wait .lines s1)) ∧
  (∀ s1 n m, Does i (fun s c => cond s c ∧ met s c = (s1, .trap n m))
    (fun s c => .trap { kind := n, addr := (target s c).toNat, info := m } s1))

/-- The block-offset target of R344. -/
def Ctx.offsetTarget (c : Ctx) (off : Word) : CodeAddr :=
  BitVec.ofInt 54 ((c.th.pc.toNat / 64 * 64 : Nat) + 64 * off.toInt)

/-- A register target that R344 admits. -/
def goodTarget (x : DWord) : Prop := x.extractLsb' 54 10 = 0 ∧ x.extractLsb' 0 6 = 0

/-- The poison trap of R288 with its record. -/
def Ctx.poisonTrap (c : Ctx) (s : State) (kind va src : Nat) : LaneOut :=
  .trap { kind := 0x10, addr := va } (s.consumed c.id kind c.th.pc.toNat va src)

/-- An effect performs now: it is no replay of a logged one, and no result that a secondary copy takes from its primary
(R299, R306). -/
def Ctx.performsNow (c : Ctx) (s : State) (shared : Bool) : Prop :=
  ((s.block? c.id.core c.id.ent).bind (·.snap)).bind (fun sn => sn.entry c.id.tid (c.now s).effects) = none ∧
  ¬ (c.blk.verify = .secondary ∧ shared = true)

/-- An effect that has performed counts with its result: it is logged, and the CRC of verify mode takes its units (R299, R306). -/
def Ctx.did (c : Ctx) (s : State) (type : Nat) (shared : Bool) (units : List (Nat × Nat)) (r : DWord) : State :=
  c.logged s shared units (c.newEffect s type r none)

/-- A request of the thread's access leaves for the home slice, and is counted, where the access does so (R190, R217). -/
def Ctx.leaves (c : Ctx) (s : State) (e : TlbEntry) (a cache : Nat) (home : Bool) : State :=
  if s.leavesL1 c.id.core e a cache home then s.countAt c.blk.grid e a else s

/-- A thread passes a release of device scope at once (R227): it is not demoted, nothing is compared, and its block has
no side-log entry. -/
def Ctx.releasesNow (c : Ctx) (s : State) : Prop :=
  c.th.dem = false ∧ c.blk.verify = .single ∧ (c.now s).released = false ∧ s.sideLogClear c.blk = true

/-- A release of system scope (R50, R227): dirty bytes and markers have gone out; it ends when all is acknowledged. -/
def Ctx.sysSent (c : Ctx) (s : State) : State := (s.writeBackAll c.id.core).sendMarkers c.id.core
def Ctx.sysDone (c : Ctx) (s : State) : Prop :=
  s.fabricSent c.id.core = true ∧ (c.sysSent s).fabricClear c.id.core = true ∧ (c.now (c.sysSent s)).awaits = false

/-- A load's value on its way to a destination: the latches take it at once, the registers when the data returns (R143,
R158). -/
def Ctx.loads (c : Ctx) (s : State) (d : Dst) (ty : Ty) (v : UVal) (acq : Bool) : State :=
  (s.setLane ((s.laneFor c.id).shift v)).modThread c.id (fun th =>
    { th with loads := th.loads ++ [⟨if d.nwb then none else some (c.th.fbase + d.reg.toNat, ty.wide), none, ty, v, none, none,
        acq, c.th.dem⟩] })

/-- A load acquires at its return. -/
def loadAcquires (o : Ord) (sc : Scope) (dem : Bool) : Bool := (o == .acq || o == .ar) && sc != .blk && !dem

/-- A loaded value in its register: signed bytes and halves extended by sign (R406). -/
def widened (ty : Ty) (x : DWord) : DWord :=
  match ty with
  | .i8 => ((x.extractLsb' 0 8).signExtend 32).zeroExtend 64
  | .i16 => ((x.extractLsb' 0 16).signExtend 32).zeroExtend 64
  | _ => x

/-- The place in the scratchpads of an offset in a block's allocation. -/
def Block.place (b : Block) (off : Nat) : Nat := b.core * Config.sramBytes + b.rec_.scrBase * 4096 + off
def Ctx.own (c : Ctx) (off : Nat) : Nat := c.id.core * Config.sramBytes + c.blk.rec_.scrBase * 4096 + off

/-- A barrier object after its pending counts have changed: at zero of both it flips its phase and reloads (R243). -/
def settled (o : BarObj) : BarObj :=
  if o.bytes = 0 ∧ o.arrivals = 0 then { o with phase := !o.phase, bytes := o.bytesInit, arrivals := o.arrivalsInit } else o

/-- A barrier instruction of a thread that is not demoted forms an object of the own scratchpad or of a gang member's. -/
def Ctx.object (c : Ctx) (s : State) (gang : Bool) (m : MemOp) (mem : Option Nat) (off : Nat) (b : Block) : Prop :=
  c.th.dem = false ∧ c.formObj s m 16 3 (if gang then [1, 2] else [1]) = .scr mem off ∧ c.scrBlock s mem = some b

/-- The object's reserved bits are zero. -/
def Ctx.names (c : Ctx) (s : State) (gang : Bool) (m : MemOp) (mem : Option Nat) (off : Nat) (b : Block) : Prop :=
  c.object s gang m mem off b ∧ (s.barObj b off).reserved = false

/-- A step on a gang member's object is an effect of TYPE 7 that performs now; one on an own object is none (R299). A secondary
copy takes no step on another member's object (R306). -/
def Ctx.stepsNow (c : Ctx) (s : State) (mem : Option Nat) : Prop :=
  mem.isSome = true → c.performsNow s false ∧ c.blk.verify ≠ .secondary
def Ctx.stepped (c : Ctx) (s : State) (mem : Option Nat) (unit : Nat × Nat) (r : DWord) : State :=
  match mem with
  | none => s
  | some _ => c.did s 7 false [unit] r

/-- The release before an arrival of gang scope. -/
def Ctx.released (c : Ctx) (s : State) (gang : Bool) : State := if gang then s.writeBackAll c.id.core else s

/-- A thread's arrival performs now: it passes its release, and no log holds it. -/
def Ctx.arrivesNow (c : Ctx) (s : State) (gang : Bool) (mem : Option Nat) : Prop :=
  (gang = true → c.releasesNow s) ∧ (mem.isSome = true → c.blk.snap.bind (·.entry c.id.tid c.th.effects) = none) ∧
    c.stepsNow (c.released s gang) mem

/-- An arrival of one thread: the count of its object falls by one, and its destination takes the phase before it. -/
def Ctx.arrived (c : Ctx) (s : State) (p : BarD) (mem : Option Nat) (off : Nat) (b : Block) : State :=
  let o := s.barObj b off
  let s1 := (c.released s p.gang).stepBar b off (settled { o with arrivals := o.arrivals - 1 })
    (if b.core = c.id.core ∧ b.ent = c.id.ent then [c.id.tid] else [])
  let s2 := c.stepped s1 mem (crcUnit 82 off 1) (if o.phase then 1 else 0)
  s2.writeDst c p.d false ⟨if o.phase then 1 else 0, s2.scratch.anyPoison (b.scrAddr off) 16⟩ none

/-- The new value of an atomic (R407). -/
def atomSays (op : AtomOp) (ty : Ty) (old x : DWord) : DWord :=
  match op with
  | .add => cutTo ty false (valueOf ty old + valueOf ty x)
  | .min => if valueOf ty old ≤ valueOf ty x then old else x
  | .max => if valueOf ty old ≥ valueOf ty x then old else x
  | .and => old &&& x
  | .or => old ||| x
  | .xor => old ^^^ x
  | .exch => x

/-- The accesses of a shed of one thread to global memory, as its error records carry them. -/
def Ctx.alone (c : Ctx) (a z : Nat) : List (ThreadId × Nat × Nat) := if c.th.dem then [] else [(c.id, a, z)]

/-- A thread that is not demoted passes the release of an access with `.REL` (R227, R230), and what that leaves. -/
def Ctx.passes (c : Ctx) (s : State) (o : Ord) (sc : Scope) : Prop :=
  c.th.dem = false ∧ (releases o = true → sc ≠ .blk → c.releasesNow s ∧ (sc = .sys → c.sysDone s))
def Ctx.freed (c : Ctx) (s : State) (o : Ord) (sc : Scope) : State :=
  if releases o = true ∧ sc ≠ .blk then (if sc = .sys then c.sysSent s else s.writeBackAll c.id.core) else s

/-- The `.ACQ` of an access that returns nothing: at once, or after the thread's loads (R228, R230). -/
def Ctx.acquired (c : Ctx) (s : State) (o : Ord) (sc : Scope) : State :=
  if acquires o = true ∧ sc ≠ .blk then s.acquireAfter c.id else s

/-- An access forms a place in the own scratchpad or in that of a gang member. -/
def Ctx.inScratch (c : Ctx) (s : State) (w : Want) (m : Option Nat) (b : Block) (off : Nat) : Prop :=
  c.form s w = .scr m off ∧ c.scrBlock s m = some b

/-- An unpoisoned access finds the page of address `a` and may go on (R201): formed in state `s`, it performs in `f`. -/
def Ctx.reaches (c : Ctx) (s f s1 : State) (w : Want) (kinds : List Nat) (stamp : Bool) (a : Nat) (e : TlbEntry) : Prop :=
  c.form s w = .va a ∧ f.fate c.blk w.acc kinds stamp false a = (s1, .go e)

/-- The same of an access that is side-logged (R202, R203). -/
def Ctx.defers (c : Ctx) (s f s1 : State) (w : Want) (kinds : List Nat) (stamp : Bool) (a : Nat) : Prop :=
  c.form s w = .va a ∧ f.fate c.blk w.acc kinds stamp false a = (s1, .log) ∧
    (s1.core c.id.core).sideLog = (s.core c.id.core).sideLog ∧ (s1.core c.id.core).sideLog.length < Config.sideLogMax

/-- A new entry of a core's side log (R203). -/
def State.logsEntry (s : State) (c : Ctx) (op : Nat) (sub : BitVec 8) (o : Ord) (sc : Scope) (a : Nat) (bytes : List Byte) : State :=
  s.modCore c.id.core (fun k => { k with sideLog := k.sideLog ++
    [(SideEntry.fresh c.blk c.id.tid ⟨op, sub, o, sc, a, bytes, false, []⟩).add ⟨op, sub, o, sc, a, bytes, false, []⟩ (fun _ new => new)] })

/-- What an atomic access to a home slice meets and leaves: the state after the read with the value read, unpoisoned, and
the state with the new value stored (R237). -/
structure AtHome (s1 : State) (c : Ctx) (e : TlbEntry) (a n : Nat) (s2 : State) (old : Nat) : Prop where
  tier : e.tier ≤ 1
  read : ∃ bs, (((s1.countAt c.blk.grid e a).flushRange c.id.core (e.pa a) n).homeRead (c.reader a) (e.pa a) n) = (s2, bs, false) ∧
    ofBytes bs = old

/-! ## Rendezvous (R165, R170) -/

/-- A thread held at a rendezvous, or at an election of its block, with its guard. -/
def Ctx.heldAt (c : Ctx) (s : State) (st : Status) : State :=
  s.modThread c.id (fun th => { th with status := st, stale := false, passed := 0 })

/-- The participants of a rendezvous: threads of a block with their contexts and guards. -/
def State.parts (s : State) (b : Block) (ths : List Thread) : List Part :=
  ths.filterMap (fun x => match s.ctx (b.idOf x.tid), x.status.met with
    | some c, some (g, _) => some ⟨c, g⟩
    | _, _ => none)

/-- Threads of a block stand held at one instruction, at one PC and depth, with every register that it needs in their
lanes; `s2` is the state once the results have room. -/
structure Gathered (i : Instr) (u : Use) (s1 : State) (b : Block) (c : Ctx) (ths : List Thread) (s2 : State) : Prop where
  block : s1.block? c.id.core c.id.ent = some b
  some_ : ths ≠ []
  held : ∀ x ∈ ths, ∃ g, x.status = .rendezvous g i ∨ x.status = .electBlk g i
  place : ∀ x ∈ ths, x.pc = c.th.pc ∧ x.depth = c.th.depth
  present : ∀ x ∈ ths, x.absent u = []
  room : roomFor u s1 (s1.parts b ths) = (s2, true)
  /-- under `TWIN` the two issues agree (R175) -/
  alike : meetDiffers s2 b (s2.parts b ths) = none

/-- What a rendezvous leaves: its effect once for all participants, each of which goes on at the next instruction. -/
def State.met (s2 : State) (i : Instr) (u : Use) (b : Block) (ths : List Thread) : State :=
  let ps := s2.parts b ths
  runAll (finishPart u) ps (meetEffect i (runAll (fun (s : State) p => s.setLane p.c.ln) ps s2) ps)

/-- A thread may arrive at a rendezvous: its guard's register is not poisoned, and with a true guard its operands lie in the
frame and its latches are valid. -/
def Use.mayArrive (u : Use) (c : Ctx) : Prop :=
  u.guardPoison c = false ∧
    (guardTrue u.head c.th.ccs = true → u.beyondFrame c.th.frame = false ∧ u.latchBad c = false)

/-- The contribution of a lane as bits, none where the lane contributes nothing. -/
def bitsOf (x : List (Option Contrib)) : List (Option Nat) := x.map (·.map (·.bits))

/-! ## Engines and the node table -/

/-- A thread may act for its block (R168): it holds the token and is not demoted. -/
def Ctx.mayAct (c : Ctx) : Prop := c.blk.token = some c.id.tid ∧ c.th.dem = false

/-- An effect of device scope that a thread performs now: it passes its release, and nothing holds its result. -/
def Ctx.actsNow (c : Ctx) (s : State) : Prop := c.releasesNow s ∧ c.performsNow (s.writeBackAll c.id.core) true

/-- A result of 32 bits in the destination of a command. -/
def Ctx.answers (c : Ctx) (s : State) (d : Dst) (r : DWord) : State :=
  s.writeDst c d false ⟨(r.extractLsb' 0 32).zeroExtend 64, false⟩ none

/-- A record address that R429 and R430 admit. -/
def goodRecord (a : DWord) : Prop := a.toNat % 64 = 0 ∧ a.extractLsb' 54 10 = 0

/-- Posts on a quad's engine that its table holds (R437). -/
def Engine.heldPosts (e : Engine) : List MxEntry := e.table.take (32 - (if e.running.isSome then 1 else 0))

/-- What `MXSTAT` reads (R459). -/
def statusSays (e : Engine) (g : Nat × BitVec 16 × Nat) : Nat :=
  let all := e.heldPosts ++ e.running.toList
  let mapped := fun l => if e.banks.any (fun b => b.gang == some g && b.logical == l) then 2 ^ l else 0
  (e.sticky g).toNat + (if e.narrow then 2 ^ 8 else 0) + 2 ^ 16 * (mapped 0 + mapped 1 + mapped 2 + mapped 3)
    + 2 ^ 20 * ((all.filter (fun x => x.gang == g)).length % 64) + 2 ^ 26 * (32 - all.length)

/-! ## Before the instruction, and traps -/

/-- An instruction that each thread of a shed runs by itself, with no check of the whole shed beyond its chain: every one
but the rendezvous instructions, `ELECT` and the calls. -/
def single (i : Instr) : Bool :=
  i.isProgram && match i with
    | .xshf _ | .xred _ | .xscan _ | .xvote _ | .xcmx _ | .meet _ | .electWv _ | .electBlk _ | .call _ | .callx _ => false
    | _ => true

/-- A thread's guard has been read: it is not poisoned. -/
structure Guarded (s : State) (sh : Shed) (u : Use) (c : Ctx) (b : Bool) : Prop extends Begins s sh u c where
  clean : u.guardPoison c = false
  guard : guardTrue u.head c.th.ccs = b

/-- What a trap finds when its handler can be entered (R329, R330): the table gives a handler's block, which passes the
checks of an entry with room for it; its registers have room, and its link entry has been pushed. -/
structure TrapReady (s : State) (id : ThreadId) (b : Block) (th : Thread) (t : TrapInfo) (ipc h : Nat) (k : IBlock) (s4 : State)
    (y : Thread) : Prop where
  block : s.block? id.core id.ent = some b
  thread : s.thread? id = some th
  table : ∃ s1, s.trapEntry id b t.kind ipc = (s1, .ready, h) ∧ ∃ s2, s1.reach id b.tenant h ipc true true = (s2, .ok k) ∧
    ∃ s3, s2.allocate id [(th.frame, 12)] = (s3, .ready) ∧ s3.pushLink id (th.depth + 1) th.pc (th.frame % 256) th.frame = (s4, .ready)
  depth : th.depth < 255
  fits : th.fbase + th.frame + k.frame ≤ b.rec_.frame
  room : 12 ≤ k.frame
  pushed : s4.thread? id = some y

/-- A granule that `n` bytes from `a` on touch. -/
def touches (a n g : Nat) : Bool := decide (0 < n) && decide (32 * g < a + n) && decide (a < 32 * g + 32)

/-! ## Packets and steps -/

/-- A packet of a kind and class arrives, well formed and for this module, at a port that takes it in (R37, R39, R40). -/
structure Arrives (s : State) (port : Nat) (p : Packet) (kind : BitVec 8) (cls : BitVec 2) : Prop where
  present : port < 16
  takes : s.takesIn port p = true
  ofKind : p.kind = kind
  ofClass : p.cls = cls
  form : packetOk p = true
  here : p.dmod = s.boot.self

/-- The state that an arriving packet meets: one of the module to itself is no longer among those sent (assumption 27). -/
def State.took (s : State) (p : Packet) : State := if p.smod = s.boot.self then s.takeSent p else s

/-- A request of class 2 that is no duplicate: it is neither acknowledged nor held (R43, R44). -/
def State.fresh (s : State) (p : Packet) : Prop :=
  packetKey p ∉ s.fabric.seen ∧ ¬ ∃ h ∈ s.fabric.held, packetKey h.packet = packetKey p ∧ h.packet.kind = p.kind

/-- A chain of a kind stands in a phase, in a communicator of the table whose partners report no failure. -/
structure Stands (s : State) (kind n : Nat) (ph : StepPhase) (h : Chain) (c : Comm) : Prop where
  chain : s.chain? n = some h
  ofKind : h.kind = kind
  phase : h.phase = ph
  comm : s.comm? h.comm = some c
  good : s.badNote h c = none

end Sys2Proof.Machine
end

