-- ==== Sys2Proof/Certificates/Slice0/Obligations.lean ====
section
/-! DEFINITION. The statements about the model, from the numbered rules of the spec. -/

open Sys2Proof Sys2Proof.Machine

/-! ## Integer arithmetic -/

/-- R356: the sums and differences with their carries and overflows. C of a sum is the carry out of the unsigned sum, C
of a difference says that nothing was borrowed, and V says that the signed sum does not fit. -/
def Obligations.SumsAndDifferences : Prop :=
  Alu2Writes .iadd false (fun p a b => cutTo p.ty p.sat (valueOf p.ty a + valueOf p.ty b))
    (fun p a b => outside (unsignedTy p.ty) (valueOf (unsignedTy p.ty) a + valueOf (unsignedTy p.ty) b))
    (fun p a b => outside (signedTy p.ty) (valueOf (signedTy p.ty) a + valueOf (signedTy p.ty) b)) ∧
  Alu2Writes .isub false (fun p a b => cutTo p.ty p.sat (valueOf p.ty a - valueOf p.ty b))
    (fun p a b => decide (0 ≤ valueOf (unsignedTy p.ty) a - valueOf (unsignedTy p.ty) b))
    (fun p a b => outside (signedTy p.ty) (valueOf (signedTy p.ty) a - valueOf (signedTy p.ty) b)) ∧
  Alu3Writes .iadd3 Ty.wide Ty.wide Ty.wide Ty.wide
    (fun p a b q => cutTo p.ty p.sat (valueOf p.ty a + valueOf p.ty b + valueOf p.ty q))
    (fun p a b q => outside (unsignedTy p.ty)
      (valueOf (unsignedTy p.ty) a + valueOf (unsignedTy p.ty) b + valueOf (unsignedTy p.ty) q))
    (fun p a b q => outside (signedTy p.ty) (valueOf (signedTy p.ty) a + valueOf (signedTy p.ty) b + valueOf (signedTy p.ty) q))

/-- R356: `IADC` adds flag C of the named condition register and `ISBC` subtracts its complement; the register's poison
passes to the result. -/
def Obligations.SumsWithCarry : Prop :=
  ∀ p : AluC,
    let a := fun (s : State) (c : Ctx) => c.src s p.imm p.ty.wide p.a
    let b := fun (s : State) (c : Ctx) => c.src s p.imm p.ty.wide p.b
    let k := fun (c : Ctx) => if (c.th.ccs.get p.k).flags.c then (1 : Int) else 0
    let from_ := fun (s : State) (c : Ctx) => [a s c, b s c, ⟨0, (c.th.ccs.get p.k).poison⟩]
    let u := unsignedTy p.ty
    let g := signedTy p.ty
    ((Instr.iadc p).wf = true → WritesInt (.iadc p) p.d p.ty.wide from_
      (fun s c => cutTo p.ty false (valueOf p.ty (a s c).val + valueOf p.ty (b s c).val + k c))
      (fun s c => outside u (valueOf u (a s c).val + valueOf u (b s c).val + k c))
      (fun s c => outside g (valueOf g (a s c).val + valueOf g (b s c).val + k c))) ∧
    ((Instr.isbc p).wf = true → WritesInt (.isbc p) p.d p.ty.wide from_
      (fun s c => cutTo p.ty false (valueOf p.ty (a s c).val - valueOf p.ty (b s c).val - (1 - k c)))
      (fun s c => decide (0 ≤ valueOf u (a s c).val - valueOf u (b s c).val - (1 - k c)))
      (fun s c => outside g (valueOf g (a s c).val - valueOf g (b s c).val - (1 - k c))))

/-- R357: products; V says that the exact value lies outside the type. -/
def Obligations.Products : Prop :=
  Alu2Writes .imul false (fun p a b => cutTo p.ty p.sat (valueOf p.ty a * valueOf p.ty b)) (fun _ _ _ => false)
    (fun p a b => outside p.ty (valueOf p.ty a * valueOf p.ty b)) ∧
  Alu2Writes .imulh false (fun p a b => cutTo p.ty false (valueOf p.ty a * valueOf p.ty b / 2 ^ (tyWidth p.ty)))
    (fun _ _ _ => false) (fun _ _ _ => false) ∧
  Alu3Writes .imad Ty.wide Ty.wide Ty.wide Ty.wide
    (fun p a b q => cutTo p.ty p.sat (valueOf p.ty a * valueOf p.ty b + valueOf p.ty q)) (fun _ _ _ _ => false)
    (fun p a b q => outside p.ty (valueOf p.ty a * valueOf p.ty b + valueOf p.ty q)) ∧
  Alu3Writes .imadw (fun _ => true) (fun _ => false) (fun _ => false) (fun _ => true)
    (fun p a b q =>
      let t := if p.ty == .i32 then Ty.i64 else .n64
      cutTo t p.sat (valueOf p.ty a * valueOf p.ty b + valueOf t q)) (fun _ _ _ _ => false)
    (fun p a b q =>
      let t := if p.ty == .i32 then Ty.i64 else .n64
      outside t (valueOf p.ty a * valueOf p.ty b + valueOf t q))

/-- R358: minimum, maximum, absolute value and the sum of absolute differences, of words and of four packed bytes. -/
def Obligations.MinimaMaximaAndDifferences : Prop :=
  Alu2Writes .imin false (fun p a b => if valueOf p.ty a ≤ valueOf p.ty b then a else b) (fun _ _ _ => false)
    (fun _ _ _ => false) ∧
  Alu2Writes .imax false (fun p a b => if valueOf p.ty a ≥ valueOf p.ty b then a else b) (fun _ _ _ => false)
    (fun _ _ _ => false) ∧
  Alu1Writes .iabs false (fun p a => cutTo p.ty p.sat (valueOf (signedTy p.ty) a).natAbs)
    (fun p a => valueOf (signedTy p.ty) a == leastOf (signedTy p.ty)) ∧
  Alu3Writes .isad (fun _ => false) (fun _ => false) (fun _ => false) (fun _ => false)
    (fun p a b q => cutTo .n32 p.sat ((absDifference p.ty a b : Int) + valueOf .n32 q))
    (fun p a b q => outside .n32 ((absDifference p.ty a b : Int) + valueOf .n32 q)) (fun _ _ _ _ => false)

/-- R358: `ICMP` writes all ones or zero with the flags of a subtraction; `SEL` chooses by a condition register, whose
poison passes to the result without a trap. -/
def Obligations.ComparisonAndSelection : Prop :=
  (∀ p : Cmp2, (Instr.icmp p).wf = true →
    let a := fun (s : State) (c : Ctx) => c.src s p.imm p.ty.wide p.a
    let b := fun (s : State) (c : Ctx) => c.src s p.imm p.ty.wide p.b
    let u := unsignedTy p.ty
    let g := signedTy p.ty
    Writes (.icmp p) p.d p.ty.wide
      (fun s c => ⟨if cmpSays p.cmp (valueOf p.ty (a s c).val) (valueOf p.ty (b s c).val) then cutTo p.ty false (-1) else 0,
        anyPoison [a s c, b s c]⟩)
      (fun s c => some (flagsOf p.ty.wide (cutTo p.ty false (valueOf p.ty (a s c).val - valueOf p.ty (b s c).val))
        (decide (0 ≤ valueOf u (a s c).val - valueOf u (b s c).val))
        (outside g (valueOf g (a s c).val - valueOf g (b s c).val)))) (fun _ _ => 0)) ∧
  (∀ p : Sel, (Instr.sel p).wf = true →
    let a := fun (s : State) (c : Ctx) => c.src s 0 p.ty.wide p.a
    let b := fun (s : State) (c : Ctx) => c.src s 0 p.ty.wide p.b
    Writes (.sel p) p.d p.ty.wide
      (fun s c => ⟨if condHolds (c.th.ccs.get p.k).flags p.cond then (a s c).val else (b s c).val,
        anyPoison [a s c, b s c, ⟨0, (c.th.ccs.get p.k).poison⟩]⟩) (fun _ _ => none) (fun _ _ => 0))

/-- R359: quotient and remainder, truncated toward zero, with the two corner cases; never a trap. -/
def Obligations.Division : Prop :=
  Alu2Writes .idivQ false (fun p a b => cutTo p.ty false (divided p.ty p.sat (valueOf p.ty a) (valueOf p.ty b)).1)
    (fun _ _ _ => false) (fun p a b => (divided p.ty p.sat (valueOf p.ty a) (valueOf p.ty b)).2.2) ∧
  Alu2Writes .idivR false (fun p a b => cutTo p.ty false (divided p.ty false (valueOf p.ty a) (valueOf p.ty b)).2.1)
    (fun _ _ _ => false) (fun p a b => (divided p.ty false (valueOf p.ty a) (valueOf p.ty b)).2.2)

/-! ## Logic and bits -/

/-- R361: the bitwise opcodes, bit by bit. -/
def Obligations.BitwiseLogic : Prop :=
  Alu2Bits .and false (fun _ a b i => a.getLsbD i && b.getLsbD i) (fun _ _ _ => false) ∧
  Alu2Bits .or false (fun _ a b i => a.getLsbD i || b.getLsbD i) (fun _ _ _ => false) ∧
  Alu2Bits .xor false (fun _ a b i => a.getLsbD i ^^ b.getLsbD i) (fun _ _ _ => false) ∧
  Alu2Bits .andn false (fun _ a b i => a.getLsbD i && !b.getLsbD i) (fun _ _ _ => false) ∧
  (∀ p : Bool3, (Instr.bool3 p).wf = true →
    let a := fun (s : State) (c : Ctx) => c.src s 0 p.ty.wide p.a
    let b := fun (s : State) (c : Ctx) => c.src s 0 p.ty.wide p.b
    let q := fun (s : State) (c : Ctx) => c.src s 0 p.ty.wide p.c
    ∃ r, (∀ s c, IsBits (tyWidth p.ty) (fun i => p.tt.getLsbD (((a s c).val.getLsbD i).toNat
        + 2 * ((b s c).val.getLsbD i).toNat + 4 * ((q s c).val.getLsbD i).toNat)) (r s c)) ∧
      WritesInt (.bool3 p) p.d p.ty.wide (fun s c => [a s c, b s c, q s c]) r (fun _ _ => false) (fun _ _ => false))

/-- R362: shifts, with C the last bit shifted out. R362: rotations and funnel shifts; the amount counts modulo the width. -/
def Obligations.ShiftsAndRotations : Prop :=
   (Alu2Bits .shl true (fun _ a b i => decide (b.toNat ≤ i) && a.getLsbD (i - b.toNat))
      (fun p a b => decide (1 ≤ b.toNat) && decide (b.toNat ≤ tyWidth p.ty) && a.getLsbD (tyWidth p.ty - b.toNat)) ∧
    Alu2Bits .shr true (fun p a b i => decide (i + b.toNat < tyWidth p.ty) && a.getLsbD (i + b.toNat))
      (fun p a b => decide (1 ≤ b.toNat) && decide (b.toNat ≤ tyWidth p.ty) && a.getLsbD (b.toNat - 1)) ∧
    Alu2Bits .sar true (fun p a b i => a.getLsbD (min (i + b.toNat) (tyWidth p.ty - 1)))
      (fun p a b => decide (1 ≤ b.toNat) && a.getLsbD (min (b.toNat - 1) (tyWidth p.ty - 1)))) ∧
   (Alu2Bits .rotL true (fun p a b i => a.getLsbD ((i + tyWidth p.ty - b.toNat % tyWidth p.ty) % tyWidth p.ty))
      (fun _ _ _ => false) ∧
    Alu2Bits .rotR true (fun p a b i => a.getLsbD ((i + b.toNat) % tyWidth p.ty)) (fun _ _ _ => false) ∧
    Alu3Bits .fshfL Ty.wide (fun _ => false) (fun p a b q i =>
      if q.toNat % tyWidth p.ty ≤ i then a.getLsbD (i - q.toNat % tyWidth p.ty)
      else b.getLsbD (i + tyWidth p.ty - q.toNat % tyWidth p.ty)) ∧
    Alu3Bits .fshfR Ty.wide (fun _ => false) (fun p a b q i =>
      if i + q.toNat % tyWidth p.ty < tyWidth p.ty then b.getLsbD (i + q.toNat % tyWidth p.ty)
      else a.getLsbD (i + q.toNat % tyWidth p.ty - tyWidth p.ty)))

/-- R363: fields extracted and inserted; the length is cut to the width, and bits at or above the width are dropped. -/
def Obligations.FieldExtractAndInsert : Prop :=
  Alu2Bits .bfx true (fun p a b i =>
      let pos := (byteOf b 0).toNat
      let len := min (byteOf b 1).toNat (tyWidth p.ty)
      let sign := decide (p.ty = .i32 ∨ p.ty = .i64)
      let bit := fun j => if pos + j < tyWidth p.ty then a.getLsbD (pos + j) else sign && a.getLsbD (tyWidth p.ty - 1)
      if i < len then bit i else sign && decide (0 < len) && bit (len - 1))
    (fun _ _ _ => false) ∧
  Alu3Bits .bfi (fun _ => false) Ty.wide (fun p a b q i =>
    let pos := (byteOf b 0).toNat
    let len := min (byteOf b 1).toNat (tyWidth p.ty)
    if pos ≤ i ∧ i < pos + len then a.getLsbD (i - pos) else q.getLsbD i)

/-- R364: the number of one bits, the number of zero bits above the highest one, and the bits in reverse. -/
def Obligations.BitCounts : Prop :=
  Alu1Writes .popc true (fun p a => BitVec.ofNat 64 ((List.range (tyWidth p.ty)).countP a.getLsbD)) (fun _ _ => false) ∧
  (∃ n : Alu1 → DWord → Nat,
    (∀ p a, n p a ≤ tyWidth p.ty ∧ (∀ i, tyWidth p.ty - n p a ≤ i → i < tyWidth p.ty → a.getLsbD i = false) ∧
      (n p a < tyWidth p.ty → a.getLsbD (tyWidth p.ty - n p a - 1) = true)) ∧
    Alu1Writes .clz true (fun p a => BitVec.ofNat 64 (n p a)) (fun _ _ => false)) ∧
  (∃ r : Alu1 → DWord → DWord, (∀ p a, IsBits (tyWidth p.ty) (fun i => a.getLsbD (tyWidth p.ty - 1 - i)) (r p a)) ∧
    Alu1Writes .brev false r (fun _ _ => false))

/-! ## Moves and status registers -/

/-- R365, R367: in `PERMB` each index byte with bit 7 set gives zero and any other selects one of the sixteen table bytes by
its low nibble; the table is four vector registers or the low words of four uniform ones. `MOV` copies its source; `MOVI`
writes IMM, or a pair with IMM above the 32-bit source. -/
def Obligations.MovesAndPermutation : Prop :=
  (∀ p : Permb, (Instr.permb p).wf = true →
    let x := fun (s : State) (c : Ctx) => c.src s p.imm false p.a
    ∃ r : State → Ctx → DWord,
      (∀ s c, (r s c).extractLsb' 32 32 = 0 ∧ ∀ i < 4, byteOf (r s c) i =
        (let k := (byteOf (x s c).val i).toNat
         if 128 ≤ k then 0 else byteOf (tableReg p c (k % 16 / 4)).val (k % 4))) ∧
      Writes (.permb p) p.d false
        (fun s c => ⟨r s c, anyPoison [x s c, tableReg p c 0, tableReg p c 1, tableReg p c 2, tableReg p c 3]⟩) (fun _ _ => none) (fun _ _ => 0)) ∧
  (∀ p : Alu1, (Instr.mov p).wf = true →
    Writes (.mov p) p.d p.ty.wide (fun s c => c.src s p.imm p.ty.wide p.a) (fun _ _ => none) (fun _ _ => 0)) ∧
  (∀ p : Movi, (Instr.movi p).wf = true →
    Writes (.movi p) p.d p.wide
      (fun s c => let a := c.src s p.imm false p.a
        if p.wide then ⟨p.imm ++ a.val.extractLsb' 0 32, a.poison⟩ else ⟨p.imm.zeroExtend 64, false⟩)
      (fun _ _ => none) (fun _ _ => 0))

/-- R372: a draw is a function of the seed, the stream and the counter, and advances the counter by one; a demoted
thread writes zero and draws nothing. Either completes. -/
def Obligations.RandomDraws : Prop :=
  ∀ (p : Rand) s sh u c, (Instr.rand p).wf = true → useOf (.rand p) = some u → Solo s sh u c →
   (c.th.dem = true → ∃ t, exec (.rand p) s = .next t ∧
      Ended s t c (c.completed s u (s.after sh u c) (c.th.writes p.d p.wide ⟨0, false⟩ none))) ∧
   (c.th.dem = false →
    let stream := c.blk.rec_.block * 4096 + c.id.tid
    let z0 := c.blk.rec_.seed + 0x9E3779B97F4A7C15#64 * BitVec.ofNat 64 (stream * 2 ^ 32 + c.th.rngctr.toNat + 1)
    let z1 := (z0 ^^^ (z0 >>> 30)) * 0xBF58476D1CE4E5B9#64
    let z2 := (z1 ^^^ (z1 >>> 27)) * 0x94D049BB133111EB#64
    let z := z2 ^^^ (z2 >>> 31)
    ∃ t, exec (.rand p) s = .next t ∧
      Ended s t c (c.completed s u (s.after sh u c)
        { c.th.writes p.d p.wide ⟨if p.wide then z else (z.extractLsb' 0 32).zeroExtend 64, false⟩ none with
          rngctr := c.th.rngctr + 1 }))

/-- R331, R371: what `RDSR` reads of each status register, zero-extended or cut to the destination. R371: `WRSR` writes the five flags of `FPSTAT`, clears `FXSTAT.OVF` where bit 0 of the value is 1, and changes nothing
for any other register. -/
def Obligations.StatusRegisters : Prop :=
   (∀ (p : Rdsr), (Instr.rdsr p).wf = true →
      let reads := fun (v : State → Ctx → Nat) =>
        Writes (.rdsr p) p.d p.wide
          (fun s c => ⟨if p.wide then BitVec.ofNat 64 (v s c) else BitVec.ofNat 64 (v s c % 2 ^ 32), false⟩)
          (fun _ _ => none) (fun _ _ => 0)
      (p.num = 0x000 → reads (fun _ c => c.th.fpstat.toNat)) ∧
      (p.num = 0x001 → reads (fun _ c => c.blk.contract.descriptor)) ∧
      (p.num = 0x002 → reads (fun s c => if (s.tenant c.blk.tenant).fxovf then 1 else 0)) ∧
      (p.num = 0x003 → reads (fun s c => (s.tenant c.blk.tenant).agemax)) ∧
      (p.num = 0x004 → reads (fun s c => (s.tile (quadOf c.id.core)).2.toNat)) ∧
      (p.num = 0x005 → reads (fun s _ => s.time)) ∧
      (p.num = 0x006 → reads (fun _ c => c.th.rngctr.toNat)) ∧
      (p.num = 0x007 → reads (fun _ c => c.blk.rec_.seed.toNat)) ∧
      (p.num = 0x008 → reads (fun s c => (s.engine (quadOf c.id.core)).narrow.toNat + 2 * s.power.alarm.toNat
        + 4 * s.power.trip.toNat)) ∧
      (∀ k < 16, p.num = BitVec.ofNat 12 (0x010 + k) → reads (fun _ _ => ctrcap k))) ∧
   (∀ (p : Wrsr) s sh u c, (Instr.wrsr p).wf = true → useOf (.wrsr p) = some u → Solo s sh u c →
      let x := c.src s 0 p.wide p.a
      x.poison = false → c.th.dem = false →
      ∃ t, exec (.wrsr p) s = .next t ∧
        t.thread? c.id = some (c.completed s u (s.after sh u c)
          (if p.num = 0 then { c.th with fpstat := x.val.extractLsb' 0 5 } else c.th)) ∧
        (∀ id, id ≠ c.id → t.thread? id = s.thread? id) ∧
        (∀ n, t.tenant n = if p.num = 2 ∧ x.val.getLsbD 0 = true ∧ n = c.blk.tenant
          then { s.tenant n with fxovf := false } else s.tenant n) ∧
        t.mem = s.mem ∧ t.host = s.host ∧ t.scratch = s.scratch ∧ t.bstore = s.bstore ∧ t.l1 = s.l1)

/-- R168, R169, R368: the holder of the token writes a uniform register of its block, whole or by halves, and a thread
that does not hold it, or is demoted, takes the token trap instead. -/
def Obligations.UniformWrites : Prop :=
  (∀ (p : Sset), (Instr.sset p).wf = true → WritesUniform (.sset p) p.reg (fun s c => c.src s p.imm true p.a) none) ∧
  (∀ (p : Sset), (Instr.ssetLo p).wf = true → WritesUniform (.ssetLo p) p.reg (fun s c =>
    let a := c.src s p.imm false p.a
    let old := c.blk.uni p.reg.toNat
    ⟨old.val.extractLsb' 32 32 ++ a.val.extractLsb' 0 32, old.poison || a.poison⟩) none) ∧
  (∀ (p : Sset), (Instr.ssetHi p).wf = true → WritesUniform (.ssetHi p) p.reg (fun s c =>
    let a := c.src s p.imm false p.a
    let old := c.blk.uni p.reg.toNat
    ⟨a.val.extractLsb' 0 32 ++ old.val.extractLsb' 0 32, old.poison || a.poison⟩) none) ∧
  (∀ (p : Sadd), (Instr.sadd p).wf = true →
    let a := fun (s : State) (c : Ctx) => c.src s p.imm true p.a
    let b := fun (s : State) (c : Ctx) => c.src s p.imm true p.b
    WritesUniform (.sadd p) p.d.reg (fun s c => ⟨(a s c).val + (b s c).val, anyPoison [a s c, b s c]⟩)
      (if p.d.cce then some (p.d.cct, fun s c => flagsOf true ((a s c).val + (b s c).val)
        (outside .n64 (((a s c).val.toNat : Int) + (b s c).val.toNat))
        (outside .i64 ((a s c).val.toInt + (b s c).val.toInt))) else none))

/-! ## Floating point -/

/-- R256, R257, R261: `Round` keeps a finite value within one unit of its last place on the side that the mode names,
nearest to even under `.RNE`, and raises NX exactly where the written value differs; else it overflows. -/
def Obligations.Rounding : Prop :=
  ∀ f ∈ [F64, F32, F16, BF16], ∀ (md : Rnd) (neg : Bool) (m : Nat) (e : Int), 0 < m →
    let r := f.round md false (.fin neg m e)
    let qmin := f.emin - f.fbits
    let q := max qmin (e + Nat.log2 m - f.fbits)
    let lo := min e q
    let x := m * 2 ^ (e - lo).toNat
    let unit := 2 ^ (q - lo).toNat
    (∃ k : Nat, (f.read false r.1).cmp (.fin neg k q) = .eq ∧ (f.read false r.1).neg? = neg ∧
        x < k * unit + unit ∧ k * unit < x + unit ∧ r.2 &&& fNX = (if k * unit = x then 0 else fNX) ∧
        r.2 &&& fOF = 0 ∧
        (match md with
          | .rtz => k * unit ≤ x
          | .rup => if neg then k * unit ≤ x else x ≤ k * unit
          | .rdn => if neg then x ≤ k * unit else k * unit ≤ x
          | _ => 2 * (k * unit) ≤ 2 * x + unit ∧ 2 * x ≤ 2 * (k * unit) + unit ∧
            ((2 * (k * unit) = 2 * x + unit ∨ 2 * x = 2 * (k * unit) + unit) → k % 2 = 0))) ∨
    (f.top ≤ e + Nat.log2 m ∧ r.2 = fOF ||| fNX ∧
      r.1 = (match md with
        | .rtz => f.maxBits neg
        | .rup => if neg then f.maxBits neg else f.infBits neg
        | .rdn => if neg then f.infBits neg else f.maxBits neg
        | _ => f.infBits neg))

/-- R256, R258: the sums and products that instructions round are exact, and an exact zero has the sign that R258 gives. -/
def Obligations.ExactSumsAndProducts : Prop :=
  ∀ (md : Rnd) (s t : Bool) (m n : Nat) (e k : Int),
    (∃ (g : Bool) (z : Nat), (Sys2Proof.Machine.Num.fin s m e).add md (.fin t n k) = (.fin g z (min e k), 0) ∧
      (if g then -(z : Int) else z) = (if s then -(m * 2 ^ (e - min e k).toNat : Int) else m * 2 ^ (e - min e k).toNat)
        + (if t then -(n * 2 ^ (k - min e k).toNat : Int) else n * 2 ^ (k - min e k).toNat) ∧
      (z = 0 → g = if m = 0 ∧ n = 0 ∧ s = t then s || md == .rdn else md == .rdn)) ∧
    (Sys2Proof.Machine.Num.fin s m e).mul (.fin t n k) = (.fin (s != t) (m * n) (e + k), 0)

/-- R377: sum, difference, product and multiply-add, one rounding each, or two for an unfused `FFMA`. -/
def Obligations.FloatingArithmetic : Prop :=
  Fp2Writes .fadd (fun p k a b => sumSays (tyFmt p.ty) p.rnd k.vsub ((tyFmt p.ty).read k.vsub a) ((tyFmt p.ty).read k.vsub b)) ∧
  Fp2Writes .fsub (fun p k a b =>
    sumSays (tyFmt p.ty) p.rnd k.vsub ((tyFmt p.ty).read k.vsub a) ((tyFmt p.ty).read k.vsub b).negate) ∧
  Fp2Writes .fmul (fun p k a b =>
    productSays (tyFmt p.ty) p.rnd k.vsub ((tyFmt p.ty).read k.vsub a) ((tyFmt p.ty).read k.vsub b)) ∧
  Fp3Writes .ffma (fun p k a b q => multiplyAddSays (tyFmt p.ty) p.rnd k.vsub k.vfma ((tyFmt p.ty).read k.vsub a)
    ((tyFmt p.ty).read k.vsub b) ((tyFmt p.ty).read k.vsub q))

/-- R378, R379, R381: minimum and maximum, comparison with its flags, and classification; none raises a flag. -/
def Obligations.FloatingComparisons : Prop :=
  Fp2Writes .fmin (fun p k a b => (extremeSays (tyFmt p.ty) false k.vsub a b, 0)) ∧
  Fp2Writes .fmax (fun p k a b => (extremeSays (tyFmt p.ty) true k.vsub a b, 0)) ∧
  (∀ p : Fcmp, (Instr.fcmp p).wf = true →
    let f := tyFmt p.ty
    let a := fun (s : State) (c : Ctx) => c.src s p.imm p.ty.wide p.a
    let b := fun (s : State) (c : Ctx) => c.src s p.imm p.ty.wide p.b
    let rel := fun (s : State) (c : Ctx) =>
      relationOf (f.read c.blk.contract.vsub (a s c).nat) (f.read c.blk.contract.vsub (b s c).nat)
    WritesFp (.fcmp p) p.d false (fun s c => [a s c, b s c])
      (fun s c => (if relationHolds (rel s c) p.cmp then 0xFFFFFFFF else 0, 0)) (fun s c => some (relationFlags (rel s c)))) ∧
  (∀ p : Fp2, (Instr.fcls p).wf = true →
    let a := fun (s : State) (c : Ctx) => c.src s p.imm p.ty.wide p.a
    let b := fun (s : State) (c : Ctx) => c.src s p.imm false p.b
    let r := fun (s : State) (c : Ctx) => 2 ^ classSays (tyFmt p.ty) (a s c).nat &&& (b s c).nat
    WritesFp (.fcls p) p.d false (fun s c => [a s c, b s c]) (fun s c => (r s c, 0))
      (fun s c => some ⟨false, r s c == 0, false, false⟩))

/-- R380: rounding to an integral value in the operand's own format, and scaling by a power of two with one rounding,
for every count. -/
def Obligations.IntegralsAndScaling : Prop :=
  Fp1Writes .frnd (fun p k a =>
    let f := tyFmt p.ty
    match f.read k.vsub a with
    | .nan => (f.nanBits, 0)
    | .inf n => (f.infBits n, 0)
    | .fin n m e =>
      let r := roundAt p.rnd n m e 0
      ((f.round .rne false (.fin n r.1 0)).1, if r.2 then fNX else 0)) ∧
  (∀ p : Fp2, (Instr.fscl p).wf = true →
    let f := tyFmt p.ty
    let a := fun (s : State) (c : Ctx) => c.src s p.imm p.ty.wide p.a
    let b := fun (s : State) (c : Ctx) => c.src s p.imm false p.b
    WritesFp (.fscl p) p.d p.ty.wide (fun s c => [a s c, b s c])
      (fun s c => match f.read c.blk.contract.vsub (a s c).nat with
        | .nan => (f.nanBits, 0)
        | .inf n => (f.infBits n, 0)
        | .fin n m e => f.round p.rnd c.blk.contract.vsub (.fin n m (e + ((b s c).val.extractLsb' 0 32).toInt)))
      (fun _ _ => none))

/-- R382, R383: packed pairs, element by element, and the dot product of two pairs by the contract's procedure. -/
def Obligations.PackedPairs : Prop :=
  Fp2Writes .hadd2 (fun p k a b => bothHalves (fun x y _ =>
    sumSays (tyFmt p.ty) p.rnd k.vsub ((tyFmt p.ty).read k.vsub x) ((tyFmt p.ty).read k.vsub y)) a b 0) ∧
  Fp2Writes .hmul2 (fun p k a b => bothHalves (fun x y _ =>
    productSays (tyFmt p.ty) p.rnd k.vsub ((tyFmt p.ty).read k.vsub x) ((tyFmt p.ty).read k.vsub y)) a b 0) ∧
  Fp3Writes .hfma2 (fun p k a b q => bothHalves (fun x y z =>
    multiplyAddSays (tyFmt p.ty) p.rnd k.vsub k.vfma ((tyFmt p.ty).read k.vsub x) ((tyFmt p.ty).read k.vsub y)
      ((tyFmt p.ty).read k.vsub z)) a b q) ∧
  (∀ p : Hmnmx, (Instr.hmnmx2 p).wf = true →
    let a := fun (s : State) (c : Ctx) => c.src s p.imm false p.a
    let b := fun (s : State) (c : Ctx) => c.src s p.imm false p.b
    WritesFp (.hmnmx2 p) p.d false (fun s c => [a s c, b s c])
      (fun s c => bothHalves (fun x y _ => (extremeSays (tyFmt p.ty) p.max c.blk.contract.vsub x y, 0))
        (a s c).nat (b s c).nat 0) (fun _ _ => none)) ∧
  Fp3Writes .hdot2 (fun p k a b q =>
    let f := tyFmt p.ty
    let h := fun x i => f.read false (x / 2 ^ (16 * i) % 2 ^ 16)
    let acc := F32.read false q
    let r := dotContract k f [h a 0, h a 1] [h b 0, h b 1] acc
    let out := F32.round .rne false r.1
    let res := F32.read false out.1
    let ins := [h a 0, h a 1, h b 0, h b 1, acc]
    let nx := r.2 || out.2 &&& fNX != 0
    let tiny := match res with | .fin _ m _ => decide (0 < m) && decide (m < 2 ^ 23) | _ => false
    (out.1, (if res.isNaN && !ins.any Sys2Proof.Machine.Num.isNaN then fNV else 0) |||
      (if res.isInf && !ins.any Sys2Proof.Machine.Num.isInf then fOF else 0)
      ||| (if nx then fNX else 0) ||| (if nx && tiny then fUF else 0)))

/-- R258, R386, R387: conversions between types, and of one element of a packed word; the other elements pass unchanged. A zero from a
floating type keeps its sign (the model's choice, log entry 74); another takes the sign of R258. The worked values of the spec: the conversions of R262 and the round trip of R390. -/
def Obligations.Conversions : Prop :=
   ((∀ p : Cvt, (Instr.cvt p).wf = true →
      let a := fun (s : State) (c : Ctx) => c.src s p.imm p.sty.wide p.a
      WritesFp (.cvt p) p.d p.dty.wide (fun s c => [a s c])
        (fun s c =>
          let v := readNum p.sty c.blk.contract.vsub (a s c).nat
          let x : Sys2Proof.Machine.Num := match v.1 with
            | .fin _ 0 e => if p.sty ∈ [Ty.f16, .bf16, .f32, .f64] then v.1 else .fin (p.rnd == .rdn) 0 e
            | y => y
          let r := convertNum p.dty p.rnd c.blk.contract.vsub x
          (match p.dty with
            | .i8 => ((BitVec.ofNat 8 r.1).signExtend 32).toNat
            | .i16 => ((BitVec.ofNat 16 r.1).signExtend 32).toNat
            | _ => r.1, v.2 ||| r.2)) (fun _ _ => none)) ∧
    (∀ p : CvtpP, (Instr.cvtpP p).wf = true →
      let a := fun (s : State) (c : Ctx) => c.src s 0 false p.a
      let q := fun (s : State) (c : Ctx) => c.src s 0 false p.q
      let e := fun (s : State) (c : Ctx) =>
        efConvert p.ef p.rnd c.blk.contract.vsub (F32.read c.blk.contract.vsub (a s c).nat)
      ∃ r : State → Ctx → Nat, (∀ s c, r s c < 2 ^ 32 ∧ WithElement (efWidth p.ef) p.i.toNat (q s c).nat (e s c).1 (r s c)) ∧
        WritesFp (.cvtpP p) p.d false (fun s c => [a s c, q s c]) (fun s c => (r s c, (e s c).2)) (fun _ _ => none)) ∧
    (∀ p : CvtpU, (Instr.cvtpU p).wf = true →
      let q := fun (s : State) (c : Ctx) => c.src s 0 false p.q
      WritesFp (.cvtpU p) p.d false (fun s c => [q s c])
        (fun s c =>
          let v := efRead p.ef c.blk.contract.vsub (field (q s c).nat (efWidth p.ef * p.i.toNat) (efWidth p.ef))
          ((F32.round .rne false v.1).1, v.2)) (fun _ _ => none))) ∧
   (convertNum .bf16 .rne false (F32.read false 0x3F808000) = (0x3F80, fNX) ∧
    convertNum .bf16 .rne false (F32.read false 0x3F818000) = (0x3F82, fNX) ∧
    convertNum .f16 .rne false (F32.read false 0x477FF800) = (0x7C00, fOF ||| fNX) ∧
    convertNum .f16 .rtz false (F32.read false 0x477FF800) = (0x7BFF, fNX) ∧
    convertNum .f16 .rne false (F32.read false 0x35800000) = (0x0010, 0) ∧
    convertNum .f16 .rne true (F32.read true 0x35800000) = (0x0000, fUF ||| fNX) ∧
    convertNum .i32 .rne false (F32.read false 0x40200000) = (2, fNX) ∧
    convertNum .i32 .rtz false (F32.read false 0x4F800000) = (0x7FFFFFFF, fNV) ∧
    convertNum .n32 .rne false (F32.read false 0x7FC00000) = (0, fNV) ∧
    convertNum .f4 .rne false (F32.read false 0x40200000) = (6, fNX) ∧
    qscaleCode (F32.read false 0x42C80000) (efQmax .i8) = (0x7F, false, false) ∧
    efConvert .i8 .rne false (divScale (F32.read false 0xC2160000) 0x7F) = (0xD3, fNX) ∧
    F32.round .rne false ((Sys2Proof.Machine.Num.fin true 45 0).mul (.fin false (scaleValue 0x7F).1 (scaleValue 0x7F).2)).1 = (0xC2175C82, fNX))

/-- R388 to R390: the scale code of a magnitude, and an element quantised and dequantised under a scale code. -/
def Obligations.Quantisation : Prop :=
  (∀ p : Qscale, (Instr.qscale p).wf = true →
    let a := fun (s : State) (c : Ctx) => c.src s p.imm false p.a
    let r := fun (s : State) (c : Ctx) => qscaleCode (F32.read c.blk.contract.vsub (a s c).nat) (efQmax p.ef)
    WritesFp (.qscale p) p.d false (fun s c => [a s c]) (fun s c => ((r s c).1, 0))
      (fun s c => some ⟨false, (r s c).1 == 0, (r s c).2.1, (r s c).2.2⟩)) ∧
  (∀ p : Qnt, (Instr.qnt p).wf = true →
    let a := fun (s : State) (c : Ctx) => c.src s 0 false p.a
    let k := fun (s : State) (c : Ctx) => c.src s 0 false p.s
    let q := fun (s : State) (c : Ctx) => c.src s 0 false p.q
    let e := fun (s : State) (c : Ctx) =>
      let x := F32.read c.blk.contract.vsub (a s c).nat
      let code := (k s c).nat % 256
      if code = 255 then ((efConvert p.ef p.rnd c.blk.contract.vsub .nan).1, fNV)
      else if code = 0 then (0, if x.isNaN || x.isInf then fNV else if x.isZero then 0 else fNX)
      else efConvert p.ef p.rnd c.blk.contract.vsub (divScale x code)
    ∃ r : State → Ctx → Nat, (∀ s c, r s c < 2 ^ 32 ∧ WithElement (efWidth p.ef) p.i.toNat (q s c).nat (e s c).1 (r s c)) ∧
      WritesFp (.qnt p) p.d false (fun s c => [a s c, k s c, q s c]) (fun s c => (r s c, (e s c).2)) (fun _ _ => none)) ∧
  (∀ p : Dqnt, (Instr.dqnt p).wf = true →
    let q := fun (s : State) (c : Ctx) => c.src s 0 false p.q
    let k := fun (s : State) (c : Ctx) => c.src s 0 false p.s
    WritesFp (.dqnt p) p.d false (fun s c => [q s c, k s c])
      (fun s c =>
        let v := efRead p.ef c.blk.contract.vsub (field (q s c).nat (efWidth p.ef * p.i.toNat) (efWidth p.ef))
        let code := (k s c).nat % 256
        let x := v.1.mul (.fin false (scaleValue code).1 (scaleValue code).2)
        let r := F32.round p.rnd c.blk.contract.vsub x.1
        if code = 255 then (0x7FC00000, v.2 ||| fNV) else if code = 0 then (0, v.2) else (r.1, v.2 ||| r.2))
      (fun _ _ => none))

/-- R391 to R393: every special function writes what its FTAB rule gives, and at special operands the values of the
table of R392. Each of the eight completes and leaves its result in its register; `EXP2` of 0.75 gives the three results of R278, exact
results are exact, and overflow follows FTAB. -/
def Obligations.SpecialFunctions : Prop :=
  Fp1Writes .rcp (fun _ k a => Sfu.run .rcp k a) ∧ Fp1Writes .rsq (fun _ k a => Sfu.run .rsq k a) ∧
  Fp1Writes .sqrt (fun _ k a => Sfu.run .sqrt k a) ∧ Fp1Writes .exp2 (fun _ k a => Sfu.run .exp2 k a) ∧
  Fp1Writes .log2 (fun _ k a => Sfu.run .log2 k a) ∧ Fp1Writes .sinpi (fun _ k a => Sfu.run .sinpi k a) ∧
  Fp1Writes .cospi (fun _ k a => Sfu.run .cospi k a) ∧ Fp1Writes .tanh (fun _ k a => Sfu.run .tanh k a) ∧
  (∀ (k : Contract) (f : Sfu) (x : Nat), (F32.read k.vsub x).isNaN = true → f.run k x = (0x7FC00000, 0)) ∧
  (∀ k : Contract,
    let nan := (0x7FC00000, fNV)
    [Sfu.rcp, .rsq, .sqrt, .exp2, .log2, .sinpi, .cospi, .tanh].map (fun f =>
        [f.run k 0xFF800000, f.run k 0x80000000, f.run k 0x00000000, f.run k 0x7F800000]) =
      [[(0x80000000, 0), (0xFF800000, fDZ), (0x7F800000, fDZ), (0, 0)],
       [nan, (0xFF800000, fDZ), (0x7F800000, fDZ), (0, 0)],
       [nan, (0x80000000, 0), (0, 0), (0x7F800000, 0)],
       [(0, 0), (0x3F800000, 0), (0x3F800000, 0), (0x7F800000, 0)],
       [nan, (0xFF800000, fDZ), (0xFF800000, fDZ), (0x7F800000, 0)],
       [nan, (0x80000000, 0), (0, 0), nan],
       [nan, (0x3F800000, 0), (0x3F800000, 0), nan],
       [(0xBF800000, 0), (0x80000000, 0), (0, 0), (0x3F800000, 0)]]) ∧
  (∀ (k : Contract) (x : Nat) (f : Sfu), f ∈ [Sfu.rsq, .sqrt, .log2] →
    (F32.read k.vsub x).neg? = true → (F32.read k.vsub x).isZero = false → (F32.read k.vsub x).isNaN = false →
    f.run k x = (0x7FC00000, fNV)) ∧
  (∀ (p : Fp1) s sh u c,
    ∀ x ∈ [(Instr.rcp p, Sfu.rcp), (.rsq p, .rsq), (.sqrt p, .sqrt), (.exp2 p, .exp2), (.log2 p, .log2), (.sinpi p, .sinpi),
      (.cospi p, .cospi), (.tanh p, .tanh)],
    x.1.wf = true → useOf x.1 = some u → Solo s sh u c →
    ∃ t th, exec x.1 s = .next t ∧ t.thread? c.id = some th ∧ th.pc = s.after sh u c ∧
      (p.d.nwb = false → (th.reg (c.th.fbase + p.d.reg.toNat)).val.toNat =
        (x.2.run c.blk.contract (c.src s p.imm false p.a).nat).1)) ∧
  ([0x0101, 0x0201, 0x0301].map (fun k => Sfu.run .exp2 (contractOf k) 0x3F400000) =
    [(0x3FD74480, fNX), (0x3FD744FC, fNX), (0x3FD744FD, fNX)]) ∧
  (∀ k ∈ catalogue,
    [Sfu.run .rcp k 0x40000000, Sfu.run .rsq k 0x40800000, Sfu.run .sqrt k 0x40800000, Sfu.run .exp2 k 0xC0400000,
      Sfu.run .log2 k 0x3F800000, Sfu.run .log2 k 0x41000000, Sfu.run .sinpi k 0x3F000000, Sfu.run .sinpi k 0xBFC00000,
      Sfu.run .sinpi k 0xC0000000, Sfu.run .cospi k 0x3F800000, Sfu.run .cospi k 0x3F000000] =
    [(0x3F000000, 0), (0x3F000000, 0), (0x40000000, 0), (0x3E000000, 0), (0, 0), (0x40400000, 0), (0x3F800000, 0),
      (0x3F800000, 0), (0x80000000, 0), (0xBF800000, 0), (0, 0)]) ∧
  (Sfu.run .exp2 (contractOf 0x0301) 0x43000000 = (0x7F800000, fOF ||| fNX) ∧
   Sfu.run .exp2 (contractOf 0x0201) 0x43000000 = (0x7F7FFFFF, fOF ||| fNX) ∧
   Sfu.run .rcp (contractOf 0x0301) 0x40400000 = (0x3EAAAAAB, fNX) ∧ Sfu.run .rcp (contractOf 0x0201) 0x40400000 = (0x3EAAAAAA, fNX) ∧
   Sfu.run .sqrt (contractOf 0x0301) 0x40000000 = (0x3FB504F3, fNX) ∧ Sfu.run .tanh (contractOf 0x0301) 0x42C80000 = (0x3F800000, fNX) ∧
   Sfu.run .tanh (contractOf 0x0201) 0x42C80000 = (0x3F7FFFFF, fNX))

/-! ## Control flow -/

/-- R344, R345, R347, R350: branches. A taken transfer goes to the slot after the header of its target's block; a
misaligned register target takes the alignment trap and a poisoned one the poison trap; `LOOP` counts down and leaves at
zero without a write. -/
def Obligations.Branches : Prop :=
  (∀ p, (Instr.bra p).wf = true →
    Transfers (.bra p) (fun _ _ => True) (fun _ c => c.offsetTarget p.off) false
      (fun s c _ => .jump (c.offsetTarget p.off + 4) s)) ∧
  (∀ p : BranchX, (Instr.brx p).wf = true →
    let x := fun (s : State) (c : Ctx) => c.src s p.imm true p.a
    let t := fun (s : State) (c : Ctx) => (x s c).val.extractLsb' 0 54
    (∀ tgt, Transfers (.brx p) (fun s c => (x s c).poison = false ∧ goodTarget (x s c).val ∧ t s c = tgt) (fun _ _ => tgt) false
      (fun s _ _ => .jump (tgt + 4) s)) ∧
    Does (.brx p) (fun s c => (x s c).poison = false ∧ ¬ goodTarget (x s c).val)
      (fun s c => .trap { kind := 0x01, addr := (x s c).nat } s) ∧
    Does (.brx p) (fun s c => (x s c).poison = true ∧ c.th.dem = false) (fun s c => c.poisonTrap s 0x02 0 0)) ∧
  (∀ p : Loop, (Instr.loop p).wf = true →
    let n := fun (s : State) (c : Ctx) => c.src s 0 false (.v p.reg)
    let less := fun (s : State) (c : Ctx) => s.writeVec c.id ⟨false, false, 0, p.reg⟩ false ⟨(n s c).val - 1, false⟩ true
    Does (.loop p) (fun s c => (n s c).poison = false ∧ (n s c).val = 0) (fun s _ => .done s) ∧
    Does (.loop p) (fun s c => (n s c).poison = false ∧ (n s c).val = 1) (fun s c => .done (less s c)) ∧
    Transfers (.loop p) (fun s c => (n s c).poison = false ∧ (n s c).val ≠ 0 ∧ (n s c).val ≠ 1)
      (fun _ c => c.offsetTarget p.off) false (fun s c _ => .jump (c.offsetTarget p.off + 4) (less s c)) ∧
    Does (.loop p) (fun s c => (n s c).poison = true ∧ c.th.dem = false) (fun s c => c.poisonTrap s 0x02 0 0))

/-- R152, R348: a call pushes its return PC, its slide and the caller's frame, and enters the callee's frame; at depth 255 it
takes the call-depth trap, and outside the last slot of its block it is illegal. -/
def Obligations.Calls : Prop :=
  let enters := fun (n : BitVec 8) (t : CodeAddr) (s1 : State) (k : IBlock) (s2 : State) (s : State) (c : Ctx) =>
    callMisplaced s c = false ∧ c.th.depth ≠ 255 ∧ s.reach c.id c.blk.tenant t.toNat c.th.pc.toNat true false = (s1, .ok k) ∧
      c.th.fbase + n.toNat + k.frame ≤ c.blk.rec_.frame ∧
      s1.pushLink c.id (c.th.depth + 1) (BitVec.ofNat 54 (c.th.pc.toNat / 64 * 64 + 68)) n.toNat c.th.frame = (s2, .ready)
  let into := fun (n : BitVec 8) (t : CodeAddr) (k : IBlock) (s2 : State) (c : Ctx) =>
    LaneOut.jump (t + 4) (s2.modThread c.id (fun th =>
      { th with fbase := th.fbase + n.toNat, depth := th.depth + 1, frame := k.frame }))
  (∀ p : Call, (Instr.call p).wf = true →
    (∀ t s1 k s2, Does (.call p) (fun s c => t = c.offsetTarget p.off ∧ enters p.n t s1 k s2 s c)
      (fun _ c => into p.n t k s2 c)) ∧
    Does (.call p) (fun s c => callMisplaced s c = false ∧ c.th.depth = 255) (fun s _ => .trap { kind := 0x04 } s)) ∧
  (∀ p : CallX, (Instr.callx p).wf = true →
    let x := fun (s : State) (c : Ctx) => c.src s p.imm true p.a
    (∀ t s1 k s2, Does (.callx p) (fun s c => (x s c).poison = false ∧ goodTarget (x s c).val ∧
        t = (x s c).val.extractLsb' 0 54 ∧ enters p.n t s1 k s2 s c) (fun _ c => into p.n t k s2 c)) ∧
    Does (.callx p) (fun s c => callMisplaced s c = false ∧ (x s c).poison = false ∧ goodTarget (x s c).val ∧ c.th.depth = 255)
      (fun s _ => .trap { kind := 0x04 } s)) ∧
  (∀ p s sh u c, (Instr.call p).wf = true → useOf (.call p) = some u → Begins s sh u c →
    callMisplaced (({ s with shed := none } : State).occupy sh (u.shedCycles [c])) c = true →
    exec (.call p) s = .next (illegalShed (({ s with shed := none } : State).occupy sh (u.shedCycles [c])) sh
      ((({ s with shed := none } : State).occupy sh (u.shedCycles [c])).wordAt c)))

/-- R153, R349, R354: a return pops the link entry and frees the callee's registers once the block it returns to has
passed its checks; `TRET` returns to the PC in `v2` and `v3` and its latches are invalid; both take the call-depth trap at
depth 0. -/
def Obligations.Returns : Prop :=
  (∀ p : Plain, (Instr.ret p).wf = true →
    Does (.ret p) (fun _ c => c.th.depth = 0) (fun s _ => .trap { kind := 0x04 } s) ∧
    (∀ s1 pc n size s2 k, Does (.ret p)
      (fun s c => c.th.depth ≠ 0 ∧ s.readLink c.id c.th.depth c.th.pc.toNat = (s1, .ready, pc, n, size) ∧
        s1.reach c.id c.blk.tenant (BitVec.ofNat 54 (pc / 64 * 64)).toNat c.th.pc.toNat false false = (s2, .ok k))
      (fun _ c => .jump (BitVec.ofNat 54 pc) (s2.modThread c.id (fun th =>
        { th.freeRegs (fun i => decide (th.fbase - n + size ≤ i)) with
          fbase := th.fbase - n, frame := size, depth := th.depth - 1, pc := th.pc }))))) ∧
  (∀ p : Plain, (Instr.tret p).wf = true →
    let x := fun (s : State) (c : Ctx) => c.src s 0 true (.v 2)
    Does (.tret p) (fun s c => (x s c).poison = false ∧ c.th.depth = 0) (fun s _ => .trap { kind := 0x04 } s) ∧
    Does (.tret p) (fun s c => (x s c).poison = false ∧ c.th.depth ≠ 0 ∧
        ((x s c).val.extractLsb' 54 10 ≠ 0 ∨ (x s c).nat % 64 ∉ [4, 16, 28, 40, 52]))
      (fun s c => .trap { kind := 0x01, addr := (x s c).nat } s) ∧
    (∀ s1 s2 pc n size k, Does (.tret p)
      (fun s c => (x s c).poison = false ∧ c.th.depth ≠ 0 ∧ (x s c).val.extractLsb' 54 10 = 0 ∧
        (x s c).nat % 64 ∈ [4, 16, 28, 40, 52] ∧
        s.reach c.id c.blk.tenant ((x s c).nat / 64 * 64) c.th.pc.toNat false false = (s1, .ok k) ∧
        ((x s c).nat % 64 - 4) / 12 < k.nslot ∧
        s1.readLink c.id c.th.depth c.th.pc.toNat = (s2, .ready, pc, n, size))
      (fun s c => .jump ((x s c).val.extractLsb' 0 54) ((s2.modThread c.id (fun th =>
        { th.freeRegs (fun i => decide (th.fbase - n + size ≤ i)) with
          fbase := th.fbase - n, frame := size, depth := th.depth - 1, pc := th.pc })).clearLatches c.id))))

/-- R168, R174, R346, R351 to R353: `NOP` does nothing; `DEMOTE` sets the demotion mark, which may complete an election of block scope; `YIELD` gives up 32 free cycles of
its partition, or holds in a `DET` grid; `EXIT` frees the registers, the token and the latches; `TRAP` and `BKPT` take their
traps. -/
def Obligations.EndsAndTraps : Prop :=
  (∀ p : Plain, (Instr.nop p).wf = true → Does (.nop p) (fun _ _ => True) (fun s _ => .done s)) ∧
  (∀ p : Plain, (Instr.demote p).wf = true →
    Does (.demote p) (fun _ _ => True) (fun s c => .done ((s.modThread c.id (fun th => { th with dem := true })).tryElect c.id.core c.id.ent))) ∧
  (∀ p : Plain, (Instr.yield p).wf = true →
    Does (.yield p) (fun _ c => c.blk.rec_.flags.getLsbD 0 = false)
      (fun s c => .done (s.modThread c.id (fun th => { th with yieldLeft := 32 + 1 }))) ∧
    Does (.yield p) (fun _ c => c.blk.rec_.flags.getLsbD 0 = true) (fun s c => .park .yield (s.seqPc c) s)) ∧
  (∀ p : Plain, (Instr.exit p).wf = true →
    Does (.exit p) (fun _ c => c.blk.verify = .single) (fun s c => .gone (State.tryMeet (id := c.id) <|
      ((s.modThread c.id (fun th =>
        { th with status := .exited, regs := [], spills := [], pend := [], loads := [], chain := none, wait := none,
                  trapNext := none, traps := [], yieldLeft := 0 })).modBlock c.id.core c.id.ent (fun b =>
        { b with token := if b.token == some c.id.tid then none else b.token })).clearLatches c.id))) ∧
  (∀ p : TrapN, (Instr.trap p).wf = true →
    Does (.trap p) (fun _ c => c.th.chain = none) (fun s c => .gone
      ((s.modThread c.id (fun th => { th with pc := s.seqPc c })).takeTrap c.id { kind := 0x20 + p.n.toNat } false c.th.pc.toNat)) ∧
    Does (.trap p) (fun _ c => c.th.chain ≠ none) (fun s _ => .trap { kind := 0x20 + p.n.toNat } s)) ∧
  (∀ p : Bkpt, (Instr.bkpt p).wf = true → Does (.bkpt p) (fun _ _ => True) (fun s _ => .trap { kind := 0x15 } s))

/-! ## Memory -/

/-- R181, R201: the address of a lane. An access inside the record lies at base plus index times stride (or the index) plus
offset; outside it OOB 0 traps, OOB 1 reads zero and writes nothing; a misaligned one takes the alignment trap. -/
def Obligations.BufferAddresses : Prop :=
  ∀ (r : Rec) (alloc idx : Nat) (imm : Int) (z : Nat), 0 < z → r.swz = 0 →
    let o : Int := (if r.stride = 0 then idx else idx * r.stride : Nat) + imm
    let lim : Int := if r.space = 1 ∨ r.space = 2 then min r.extent ((alloc : Int) - r.base)
      else if r.space = 3 then min r.extent ((8388608 : Nat) - r.base : Int) else r.extent
    (0 ≤ o → o + z ≤ lim → ((r.base : Int) + o) % z = 0 → r.place alloc idx imm z = .at_ (r.base + o.toNat)) ∧
    (0 ≤ o → o + z ≤ lim → ((r.base : Int) + o) % z ≠ 0 → r.place alloc idx imm z = .misaligned (r.base + o.toNat)) ∧
    ((o < 0 ∨ lim < o + z) → r.oob = 0 → r.place alloc idx imm z = .bounds (r.base + o)) ∧
    ((o < 0 ∨ lim < o + z) → r.oob = 1 → r.place alloc idx imm z = .outside)

/-- R143, R201, R406: `LD`. The value goes to the latches at once and to the destination when the data returns; an access
outside an OOB 1 record reads zero; an address failure traps and a page that is not valid holds, but a demoted thread reads
zero there; the line of a page of another module is asked for. -/
def Obligations.Loads : Prop :=
  ∀ p : Ld, (Instr.ld p).wf = true →
    let z := tySize p.ty
    let w := wantOf p.m z .load 1
    let acq := fun (c : Ctx) => loadAcquires p.ord p.sc c.th.dem
    let zero := fun (s : State) (c : Ctx) => LaneOut.done (c.loads s p.d p.ty ⟨0, false⟩ (acq c))
    Does (.ld p) (fun s c => c.form s w = .outside) zero ∧
    (∀ m off b, Does (.ld p) (fun s c => c.inScratch s w m b off)
      (fun s c => .done (c.loads s p.d p.ty ⟨widened p.ty (BitVec.ofNat 64 (s.scratch.nat (b.place off) z)),
        s.scratch.anyPoison (b.place off) z⟩ (acq c)))) ∧
    (∀ a s1 e, Does (.ld p) (fun s c => c.form s w = .va a ∧ e.tier ≠ 2 ∧
        s.fate c.blk .load [0, 1, 2] (!c.th.dem) c.th.dem a = (s1, .go e))
      (fun _ c =>
        let cache := (c.record p.m.rcd).cache
        let r := (c.leaves s1 e a cache (p.sc != .blk)).loadMem { c.reader a with shed := c.alone a z } c.id.core e a z cache
          (p.sc != .blk)
        .done (c.loads r.1 p.d p.ty ⟨widened p.ty (BitVec.ofNat 64 (ofBytes r.2.1)), r.2.2⟩ (acq c)))) ∧
    (∀ a s1 e, Does (.ld p) (fun s c => c.form s w = .va a ∧ e.tier = 2 ∧ s1.fabric.unacked = s.fabric.unacked ∧
        s.fate c.blk .load [0, 1, 2] (!c.th.dem) c.th.dem a = (s1, .go e) ∧
        s1.reachable c.blk.tenant (lineRequest e (a / 128)).dmod = false)
      (fun _ c => if c.th.dem then .done (c.loads s1 p.d p.ty ⟨0, false⟩ (acq c))
        else .trap { kind := 0x11, addr := a, info := 2 } s1)) ∧
    (∀ a s1 e, Does (.ld p) (fun s c => c.form s w = .va a ∧ e.tier = 2 ∧ s1.fabric.unacked = s.fabric.unacked ∧
        s.fate c.blk .load [0, 1, 2] (!c.th.dem) c.th.dem a = (s1, .go e) ∧
        s1.reachable c.blk.tenant (lineRequest e (a / 128)).dmod = true)
      (fun _ c =>
        let r := (s1.countAt c.blk.grid e a).ask c.id.core c.owner none (lineRequest e (a / 128))
        .done ((r.1.setLane ((r.1.laneFor c.id).shift ⟨0, false⟩)).modThread c.id (fun th =>
          { th with loads := th.loads ++ [⟨if p.d.nwb then none else some (c.th.fbase + p.d.reg.toNat, p.ty.wide), none, p.ty,
            ⟨0, false⟩, none, some (.answer r.2 (a % 128) none), acq c, c.th.dem⟩] })))) ∧
    (∀ t, Does (.ld p) (fun s c => c.form s w = .trap t ∧ c.th.dem = false) (fun s _ => .trap t s)) ∧
    (∀ t, Does (.ld p) (fun s c => c.form s w = .trap t ∧ c.th.dem = true) zero) ∧
    (∀ a s1, Does (.ld p) (fun s c => c.form s w = .va a ∧ c.th.dem = false ∧
        s.fate c.blk .load [0, 1, 2] true false a = (s1, .hold)) (fun _ _ => .hold a false s1))

/-- R273, R368, R369, R409, R410: `LDFX` rounds a cell, `SLD` loads a uniform register for the holder of the token, or
for a thread that was held at it, and `PREF` fills a line and never traps. -/
def Obligations.OtherLoads : Prop :=
  (∀ p : Ld, (Instr.ldfx p).wf = true →
    let w := wantOf p.m 16 .load 1
    let acq := fun (c : Ctx) => loadAcquires p.ord p.sc c.th.dem
    Does (.ldfx p) (fun s c => c.form s w = .outside) (fun s c => .done (c.loads s p.d p.ty ⟨0, false⟩ (acq c))) ∧
    (∀ a s1 e, Does (.ldfx p) (fun s c => c.form s w = .va a ∧ s.fate c.blk .load [1] false c.th.dem a = (s1, .go e))
      (fun _ c =>
        let r := ((s1.countAt c.blk.grid e a).flushRange c.id.core (e.pa a) 16).homeRead (c.reader a) (e.pa a) 16
        let cell := BitVec.ofNat 128 (ofBytes r.2.1)
        let value := (cell.extractLsb' 0 127).toInt
        let v := if cell.getLsbD 127 then ((tyFmt p.ty).nanBits, fNV)
          else (tyFmt p.ty).round .rne false (.fin (decide (value < 0)) value.natAbs (-64))
        .done (c.loads (r.1.raiseFP c v.2) p.d p.ty ⟨BitVec.ofNat 64 v.1, r.2.2⟩ (acq c)))) ∧
    (∀ off, Does (.ldfx p) (fun s c => c.form s w = .scr none off ∧ c.th.dem = false)
      (fun s _ => .trap { kind := 0x0E, addr := off } s))) ∧
  (∀ p : Sld, (Instr.sld p).wf = true →
    let ty : Ty := if p.wide then .n64 else .n32
    let w : Want := ⟨p.rcd, p.x, p.off.toInt, tySize ty, .load, 1⟩
    let gives := fun (s : State) (c : Ctx) (v : UVal) => LaneOut.done (s.modThread c.id (fun th =>
      { th with loads := th.loads ++ [⟨none, some (p.reg, p.wide), ty, v, none, none, false, false⟩], heldUni := none }))
    let may := fun (s : State) (c : Ctx) => c.th.dem = false ∧ (c.blk.token = some c.id.tid ∨ (c.now s).heldUni ≠ none)
    Does (.sld p) (fun s c => (c.blk.token ≠ some c.id.tid ∨ c.th.dem = true) ∧ (c.now s).heldUni = none)
      (fun s _ => .trap { kind := 0x07 } s) ∧
    (∀ off, Does (.sld p) (fun s c => may s c ∧ c.form s w = .scr none off)
      (fun s c => gives s c ⟨BitVec.ofNat 64 (s.scratch.nat (c.own off) (tySize ty)), s.scratch.anyPoison (c.own off) (tySize ty)⟩)) ∧
    (∀ a s1, Does (.sld p) (fun s c => may s c ∧ c.form s w = .va a ∧ s.fate c.blk .load [0, 1, 2] false false a = (s1, .hold))
      (fun _ c => .hold a false (s1.modThread c.id (fun th => { th with heldUni := some p.reg })))) ∧
    (∀ a s1 e, Does (.sld p) (fun s c => may s c ∧ c.reaches s s s1 w [0, 1, 2] false a e ∧ e.tier ≠ 2)
      (fun _ c =>
        let cache := (c.record p.rcd).cache
        let r := (c.leaves s1 e a cache false).loadMem { c.reader a with shed := c.alone a (tySize ty) } c.id.core e a (tySize ty)
          cache false
        gives r.1 c ⟨BitVec.ofNat 64 (ofBytes r.2.1), r.2.2⟩))) ∧
  (∀ p : Pref, (Instr.pref p).wf = true →
    let w := wantOf p.m 1 .load 1
    Does (.pref p) (fun s c => c.th.dem = true ∨ ∀ a, c.form s w ≠ .va a) (fun s _ => .done s) ∧
    (∀ a s1 e, Does (.pref p) (fun s c => c.th.dem = false ∧ c.form s w = .va a ∧ e.tier < 2 ∧
        s.fate c.blk .load [0] false true a = (s1, .go e))
      (fun _ c => .done (if p.dev then s1.countAt c.blk.grid e a
        else (s1.fillLine (c.reader a) c.id.core e a 0).1))))

/-- R201 to R203, R219, R230: `ST`, after its release where it has one. An unpoisoned store to a scratchpad writes its bytes
there and wakes the threads that wait on them; one to a page of the module goes to L1 or to its home, one to a page of
another module as a packet; one whose page is not valid is side-logged, or held when the log is full; poisoned data is stored with
a record; a secondary copy stores nothing; outside an OOB 1 record, and in a demoted thread, nothing is written. R187, R239: a store to
the own scratchpad completes, and changes there its own bytes alone, at the address that the access forms, and no other memory. -/
def Obligations.Stores : Prop :=
  (∀ p : St, (Instr.st p).wf = true →
    let z := tySize p.ty
    let w := wantOf p.m z .store 2
    let v := fun (s : State) (c : Ctx) => c.src s 0 p.ty.wide p.c
    let free := fun (s : State) (c : Ctx) => c.freed s p.ord p.sc
    Does (.st p) (fun s c => c.th.dem = true ∨ c.form s w = .outside) (fun s _ => .done s) ∧
    (∀ m off b, Does (.st p) (fun s c => c.passes s p.ord p.sc ∧ c.inScratch s w m b off ∧ c.scrBlock (free s c) m = some b ∧
        (v s c).poison = false)
      (fun s c => .done ((free s c).scrStore b off (toBytes z (v s c).nat) false []))) ∧
    (∀ m off b, Does (.st p) (fun s c => c.passes s p.ord p.sc ∧ c.inScratch s w m b off ∧ c.scrBlock (free s c) m = some b ∧
        (v s c).poison = true)
      (fun s c => .done (c.poisonStore ((free s c).scrStore b off (toBytes z (v s c).nat) true []) 1 off 0))) ∧
    (∀ a s1 e, Does (.st p) (fun s c => c.passes s p.ord p.sc ∧ c.reaches s (free s c) s1 w [0, 1, 2] true a e ∧ e.tier ≠ 2 ∧
        (v s c).poison = false ∧ c.blk.verify ≠ .secondary)
      (fun s c =>
        let cache := (c.record p.m.rcd).cache
        .done (c.untyped ((c.leaves s1 e a cache (p.sc != .blk)).storeMem c.id.core e a cache (p.sc != .blk)
          (toBytes z (v s c).nat) false []) [crcUnit 1 a (v s c).nat]))) ∧
    (∀ a s1 e, Does (.st p) (fun s c => c.th.dem = false ∧ releases p.ord = false ∧ c.reaches s s s1 w [0, 1, 2] true a e ∧
        (s.fate c.blk .store [0, 1, 2] true true a).2 = .go e ∧ e.tier ≠ 2 ∧ (v s c).poison = true ∧ c.blk.verify ≠ .secondary)
      (fun s c =>
        let cache := (c.record p.m.rcd).cache
        .done (c.untyped (c.poisonStore ((c.leaves s1 e a cache (p.sc != .blk)).storeMem c.id.core e a cache (p.sc != .blk)
          (toBytes z (v s c).nat) true []) (if p.sc == .blk then 1 else 2) a (e.pa a)) [crcUnit 1 a (v s c).nat]))) ∧
    (∀ a s1 e, Does (.st p) (fun s c => c.th.dem = false ∧ releases p.ord = false ∧ c.reaches s s s1 w [0, 1, 2] true a e ∧
        c.blk.verify = .secondary) (fun s c => .done (c.untyped s1 [crcUnit 1 a (v s c).nat]))) ∧
    (∀ a s1 e, Does (.st p) (fun s c => c.passes s p.ord p.sc ∧ c.reaches s (free s c) s1 w [0, 1, 2] true a e ∧ e.tier = 2 ∧
        (v s c).poison = false ∧ c.blk.verify ≠ .secondary ∧ s1.fabric.unacked = s.fabric.unacked)
      (fun s c =>
        let q := tierPacket e 0x01 a
        .done (c.untyped (if s1.reachable c.blk.tenant q.dmod then
            (s1.countAt c.blk.grid e a).send (some c.id.core) (.store [c.owner]) { q with payload := toBytes z (v s c).nat, marks := [] }
          else s1.trapLater c.id (remoteTrap 2 a)) [crcUnit 1 a (v s c).nat]))) ∧
    (∀ a s1, Does (.st p) (fun s c => c.passes s p.ord p.sc ∧ c.defers s (free s c) s1 w [0, 1, 2] true a ∧ (v s c).poison = false ∧
        c.blk.verify ≠ .secondary)
      (fun s c => .done (c.untyped (s1.logsEntry c 1 (subOf p.ty 0) p.ord p.sc a (toBytes z (v s c).nat)) [crcUnit 1 a (v s c).nat]))) ∧
    (∀ a s1, Does (.st p) (fun s c => c.passes s p.ord p.sc ∧ c.form s w = .va a ∧ c.blk.verify ≠ .secondary ∧
        (free s c).fate c.blk .store [0, 1, 2] true false a = (s1, .log) ∧
        (s1.core c.id.core).sideLog = (s.core c.id.core).sideLog ∧ Config.sideLogMax ≤ (s1.core c.id.core).sideLog.length)
      (fun _ _ => .hold a true s1)) ∧
    (∀ t, Does (.st p) (fun s c => c.th.dem = false ∧ c.form s w = .trap t) (fun s _ => .trap t s))) ∧
  (∀ (p : St) s sh u c off, (Instr.st p).wf = true → releases p.ord = false → useOf (.st p) = some u → Solo s sh u c →
    c.th.dem = false → c.form s (wantOf p.m (tySize p.ty) .store 2) = .scr none off →
    (c.src s 0 p.ty.wide p.c).poison = false →
    ∃ t, exec (.st p) s = .next t ∧ (t.thread? c.id).map (·.pc) = some (s.after sh u c) ∧
      t.scratch.read (c.own off) (tySize p.ty) = toBytes (tySize p.ty) (c.src s 0 p.ty.wide p.c).nat ∧
      (∀ a, (a < c.own off ∨ c.own off + tySize p.ty ≤ a) → t.scratch.get a = s.scratch.get a) ∧
      t.mem = s.mem ∧ t.host = s.host ∧ t.bstore = s.bstore)

/-- R230, R237, R407: `ATOM` and `RED`, after their release where they have one. The new value is stored at once where the old
one was read, in a scratchpad or at the home slice, and the old one goes to the destination of an `ATOM`, which returns
nothing without one; an operation without a result whose page is not valid is side-logged, and one with a result in
another module is asked for there. -/
def Obligations.Atomics : Prop :=
  let operand := fun (ty : Ty) (x : Src) (s : State) (c : Ctx) => c.src s 0 ty.wide x
  let new := fun (op : AtomOp) (ty : Ty) (x : UVal) (old : Nat) =>
    toBytes (tySize ty) (atomSays op ty (BitVec.ofNat 64 old) x.val).toNat
  let unit := fun (op : AtomOp) (a : Nat) (x : UVal) => [crcUnit (16 + AtomOp.num op) a x.nat]
  (∀ p : Atom, (Instr.atom p).wf = true →
    let n := tySize p.ty
    let ret := !p.d.nwb
    let type := if ret then 1 else 2
    let w := wantOf p.m n (if ret then .atom else .red) (if ret then 3 else 2)
    let x := operand p.ty p.c
    let free := fun (s : State) (c : Ctx) => c.freed s p.ord p.sc
    let ends := fun (t : State) (c : Ctx) (old : Nat) => LaneOut.done (if ret then
        c.loads t p.d p.ty ⟨BitVec.ofNat 64 old, false⟩ (loadAcquires p.ord p.sc false) else c.acquired t p.ord p.sc)
    Does (.atom p) (fun s c => c.th.dem = true ∨ c.form s w = .outside)
      (fun s c => .done (if ret then c.loads s p.d p.ty ⟨0, false⟩ false else s)) ∧
    (∀ a s1 e, Does (.atom p) (fun s c => c.passes s p.ord p.sc ∧ c.reaches s (free s c) s1 w [0, 2] false a e ∧ e.tier = 2 ∧
        ret = true ∧ (x s c).poison = false ∧ c.performsNow (free s c) true ∧ s1.fabric.unacked = s.fabric.unacked ∧
        s1.reachable c.blk.tenant (tierPacket e 0x05 a).dmod = true)
      (fun s c =>
        let r := (s1.countAt c.blk.grid e a).ask c.id.core c.owner none { tierPacket e 0x05 a with
          opnd := BitVec.ofNat 64 (x s c).nat, opnd2 := 0, signode := atomicNode (subOf p.ty (AtomOp.num p.op)) true }
        let t := c.logged r.1 true (unit p.op a (x s c)) (c.newEffect r.1 1 0 (some (.answer r.2 0 none)))
        .done ((t.setLane ((t.laneFor c.id).shift ⟨0, false⟩)).modThread c.id (fun th =>
          { th with loads := th.loads ++ [⟨some (c.th.fbase + p.d.reg.toNat, p.ty.wide), none, p.ty, ⟨0, false⟩, none,
            some (.answer r.2 0 none), loadAcquires p.ord p.sc false, c.th.dem⟩] })))) ∧
    (∀ m off b old, Does (.atom p) (fun s c => c.passes s p.ord p.sc ∧ c.inScratch s w m b off ∧
        c.scrBlock (free s c) m = some b ∧ (x s c).poison = false ∧ c.performsNow (free s c) false ∧
        (free s c).scratch.anyPoison (b.place off) n = false ∧ (free s c).scratch.nat (b.place off) n = old)
      (fun s c => ends (c.did ((free s c).scrStore b off (new p.op p.ty (x s c) old) false []) type false [] (BitVec.ofNat 64 old)) c old)) ∧
    (∀ a s1 e s2 old, Does (.atom p) (fun s c => c.passes s p.ord p.sc ∧ c.reaches s (free s c) s1 w [0, 2] false a e ∧
        (x s c).poison = false ∧ c.performsNow (free s c) true ∧ AtHome s1 c e a n s2 old)
      (fun s c => ends (c.did (s2.homeStore (e.pa a) (new p.op p.ty (x s c) old) false []) type true (unit p.op a (x s c)) (BitVec.ofNat 64 old)) c old)) ∧
    (∀ t, Does (.atom p) (fun s c => c.th.dem = false ∧ c.form s w = .trap t) (fun s _ => .trap t s))) ∧
  (∀ p : Red, (Instr.red p).wf = true →
    let n := tySize p.ty
    let w := wantOf p.m n .red 2
    let x := operand p.ty p.c
    let free := fun (s : State) (c : Ctx) => c.freed s p.ord p.sc
    Does (.red p) (fun s c => c.th.dem = true ∨ c.form s w = .outside) (fun s _ => .done s) ∧
    (∀ m off b old, Does (.red p) (fun s c => c.passes s p.ord p.sc ∧ c.inScratch s w m b off ∧
        c.scrBlock (free s c) m = some b ∧ (x s c).poison = false ∧ c.performsNow (free s c) false ∧
        (free s c).scratch.anyPoison (b.place off) n = false ∧ (free s c).scratch.nat (b.place off) n = old)
      (fun s c => .done (c.did ((free s c).scrStore b off (new p.op p.ty (x s c) old) false []) 2 false [] (BitVec.ofNat 64 old)))) ∧
    (∀ a s1 e s2 old, Does (.red p) (fun s c => c.passes s p.ord p.sc ∧ c.reaches s (free s c) s1 w [0, 2] false a e ∧
        (x s c).poison = false ∧ c.performsNow (free s c) true ∧ AtHome s1 c e a n s2 old)
      (fun s c => .done (c.did (s2.homeStore (e.pa a) (new p.op p.ty (x s c) old) false []) 2 true (unit p.op a (x s c)) (BitVec.ofNat 64 old)))) ∧
    (∀ a s1, Does (.red p) (fun s c => c.passes s p.ord p.sc ∧ c.defers s (free s c) s1 w [0, 2] false a ∧
        (x s c).poison = false ∧ c.performsNow (free s c) true)
      (fun s c => .done (c.did (s1.logsEntry c 2 (subOf p.ty (AtomOp.num p.op)) p.ord p.sc a (toBytes n (x s c).nat)) 2 true (unit p.op a (x s c)) 0))) ∧
    (∀ t, Does (.red p) (fun s c => c.th.dem = false ∧ c.form s w = .trap t) (fun s _ => .trap t s)))

/-- R230, R271, R408, R409: `CAS` stores its new value where the old one equals the compare value and returns the old one with
its flags; `ATFX` adds to a cell at its home slice, saturating, and marks an overflow, or is side-logged. R270, R271: a cell
addition adds the addend, truncated toward zero at 2^-64, and clamps at the limits of VALUE; it keeps NF, and an addend that
is no finite number sets NF and leaves VALUE. -/
def Obligations.CompareAndSwapAndCells : Prop :=
  (∀ p : Cas, (Instr.cas p).wf = true →
    let n := tySize p.ty
    let w := wantOf p.m n .atom 3
    let free := fun (s : State) (c : Ctx) => c.freed s p.ord p.sc
    let cmp := fun (s : State) (c : Ctx) => c.src s 0 p.ty.wide (.v p.g)
    let new := fun (s : State) (c : Ctx) => c.src s 0 p.ty.wide (.v (p.g + (if p.ty.wide then 2 else 1)))
    let gives := fun (s : State) (c : Ctx) (k old : Nat) => LaneOut.done
      ((s.setLane ((s.laneFor c.id).shift ⟨BitVec.ofNat 64 old, false⟩)).modThread c.id (fun th =>
        { th with loads := th.loads ++ [⟨if p.d.nwb then none else some (c.th.fbase + p.d.reg.toNat, p.ty.wide), none, p.ty,
          ⟨BitVec.ofNat 64 old, false⟩, if p.d.cce then some (p.d.cct, k) else none, none,
          loadAcquires p.ord p.sc false, c.th.dem⟩] }))
    (∀ m off b old, Does (.cas p) (fun s c => c.passes s p.ord p.sc ∧ c.inScratch s w m b off ∧ c.scrBlock (free s c) m = some b ∧
        (cmp s c).poison = false ∧ (new s c).poison = false ∧ c.performsNow (free s c) false ∧
        (free s c).scratch.anyPoison (b.place off) n = false ∧ (free s c).scratch.nat (b.place off) n = old)
      (fun s c => gives (c.did (if old = (cmp s c).nat then (free s c).scrStore b off (toBytes n (new s c).nat) false []
        else free s c) 1 false [] (BitVec.ofNat 64 old)) c (cmp s c).nat old)) ∧
    (∀ a s1 e s2 old, Does (.cas p) (fun s c => c.passes s p.ord p.sc ∧ c.reaches s (free s c) s1 w [0, 2] false a e ∧
        (cmp s c).poison = false ∧ (new s c).poison = false ∧ c.performsNow (free s c) true ∧ AtHome s1 c e a n s2 old)
      (fun s c => gives (c.did (if old = (cmp s c).nat then s2.homeStore (e.pa a) (toBytes n (new s c).nat) false [] else s2) 1 true [crcUnit 31 a (new s c).nat] (BitVec.ofNat 64 old)) c (cmp s c).nat old))) ∧
  (∀ p : St, (Instr.atfx p).wf = true →
    let w := wantOf p.m 16 .red 2
    let free := fun (s : State) (c : Ctx) => c.freed s p.ord p.sc
    let x := fun (s : State) (c : Ctx) => c.src s 0 p.ty.wide p.c
    Does (.atfx p) (fun s c => c.th.dem = true ∨ c.form s w = .outside) (fun s _ => .done s) ∧
    (∀ off, Does (.atfx p) (fun s c => c.th.dem = false ∧ c.form s w = .scr none off)
      (fun s _ => .trap { kind := 0x0E, addr := off } s)) ∧
    (∀ a s1 e s2, Does (.atfx p) (fun s c => c.passes s p.ord p.sc ∧ c.reaches s (free s c) s1 w [1] false a e ∧
        (x s c).poison = false ∧ c.performsNow (free s c) true ∧
        ((s1.countAt c.blk.grid e a).flushRange c.id.core (e.pa a) 16).discover (c.reader a) (e.pa a) 16 = s2 ∧
        s2.mem.anyPoison (e.pa a) 16 = false)
      (fun s c =>
        let cell := cellAdd (s2.mem.nat (e.pa a) 16) ((tyFmt p.ty).read false (x s c).nat)
        let s3 := s2.homeStore (e.pa a) (toBytes 16 cell.1) false []
        .done (c.did (if cell.2 then s3.modTenant e.tenant (fun t => { t with fxovf := true }) else s3) 2 true [crcUnit 32 a (x s c).nat] 0))) ∧
    (∀ a s1, Does (.atfx p) (fun s c => c.passes s p.ord p.sc ∧ c.defers s (free s c) s1 w [1] false a ∧
        (x s c).poison = false ∧ c.performsNow (free s c) true)
      (fun s c => .done (c.did (s1.logsEntry c 3 (subOf p.ty 0) p.ord p.sc a (toBytes 16 (x s c).nat)) 2 true [crcUnit 32 a (x s c).nat] 0)))) ∧
  (∀ (cell : Nat), cell < 2 ^ 128 →
      (∀ (n : Bool) (m : Nat) (e : Int),
        let q : Int := if 0 ≤ e + 64 then m * 2 ^ (e + 64).toNat else (m : Int) / 2 ^ (-(e + 64)).toNat
        let sum := (BitVec.ofNat 127 cell).toInt + (if n then -q else q)
        let r := cellAdd cell (.fin n m e)
        (BitVec.ofNat 127 r.1).toInt = max (-2 ^ 126) (min sum (2 ^ 126 - 1)) ∧ bitOf r.1 127 = bitOf cell 127 ∧ r.1 < 2 ^ 128 ∧
          (r.2 = true ↔ sum < -2 ^ 126 ∨ 2 ^ 126 - 1 < sum)) ∧
      (∀ x : Sys2Proof.Machine.Num, (x.isNaN || x.isInf) = true → cellAdd cell x = (cell % 2 ^ 127 + 2 ^ 127, false)))

/-! ## Cross-lane instructions -/

/-- R165, R394: a rendezvous of the weave executes once, at the arrival of its last thread, for every thread of the weave
that has not exited; before that the arriving thread is held. -/
def Obligations.Rendezvous : Prop :=
  ∀ (i : Instr) s sh u c, i.wf = true →
    (match i with | .xshf _ | .xred _ | .xscan _ | .xvote _ | .xcmx _ | .meet _ | .electWv _ => True | _ => False) →
    useOf i = some u → Begins s sh u c → u.mayArrive c →
    let s1 := c.heldAt (s.begun sh u c) (.rendezvous (guardTrue u.head c.th.ccs) i)
    (∀ b s2, Gathered i u s1 b c (b.weave (weaveOf c.id.tid)) s2 →
      (∀ x ∈ b.weave (weaveOf c.id.tid), ∃ g, x.status = .rendezvous g i) →
      exec i s = .next ((s2.met i u b (b.weave (weaveOf c.id.tid))).tryElect c.id.core c.id.ent)) ∧
    (∀ b, s1.block? c.id.core c.id.ent = some b →
      (∃ x ∈ b.weave (weaveOf c.id.tid), x.status = .run) → exec i s = .next (s1.tryElect c.id.core c.id.ent))

/-- R170, R373: `ELECT.BLK` executes at the arrival of the last thread of the block that has neither exited nor been
demoted; a demoted thread passes at once. An election passes the token to the lowest of its participants that are not
demoted and have a true guard, and to nobody when there is none. The only thread left of a block, with a true guard, elects itself and
goes on. -/
def Obligations.Elections : Prop :=
  (∀ p s sh u c, (Instr.electBlk p).wf = true → useOf (.electBlk p) = some u → Begins s sh u c → u.mayArrive c →
    c.th.dem = false → c.th.tid = c.id.tid →
    let s1 := c.heldAt (s.begun sh u c) (.electBlk (guardTrue u.head c.th.ccs) (.electBlk p))
    let pool := fun (b : Block) => b.threads.filter (fun x => !x.exited && !x.dem)
    (∀ b s2, Gathered (.electBlk p) u s1 b c (pool b) s2 →
      (∀ x ∈ pool b, ∃ g, x.status = .electBlk g (.electBlk p)) →
      exec (.electBlk p) s = .next (s2.met (.electBlk p) u b (pool b))) ∧
    (∀ b, s1.block? c.id.core c.id.ent = some b → (∃ x ∈ pool b, x.status = .run) → exec (.electBlk p) s = .next s1)) ∧
  (∀ p s sh u c, (Instr.electBlk p).wf = true → useOf (.electBlk p) = some u → Begins s sh u c → u.mayArrive c → c.th.dem = true →
    exec (.electBlk p) s = .next ((s.ends sh u c (.done (s.begun sh u c))).tryMeet c.id)) ∧
  (∀ p s sh u c, (Instr.electBlk p).wf = true → useOf (.electBlk p) = some u → Solo s sh u c → c.th.dem = false →
    c.th.tid = c.id.tid → c.blk.threads.filter (fun x => !x.exited && !x.dem) = [c.th] → c.th.absent u = [] → c.blk.flag 1 = false →
    ∃ t th, exec (.electBlk p) s = .next t ∧ t.thread? c.id = some th ∧ th.pc = s.after sh u c ∧ th.status = .run ∧
      (p.d.nwb = false → (th.reg (c.th.fbase + p.d.reg.toNat)).val = 1) ∧
      (t.block? c.id.core c.id.ent).map (·.token) = some (some c.id.tid)) ∧
  (∀ (d : Dst) (s : State) (ps : List Part),
    let pool := ps.filter (fun x => x.guard && !x.c.th.dem)
    (pool = [] → ∀ core ent, ((electEffect d s ps).block? core ent).map (·.token) = (s.block? core ent).map (·.token)) ∧
    (∀ w ∈ pool, (∀ x ∈ pool, w.c.id.tid ≤ x.c.id.tid) →
      (∀ x ∈ pool, x.c.id.core = w.c.id.core ∧ x.c.id.ent = w.c.id.ent) →
      ∀ b, (electEffect d s ps).block? w.c.id.core w.c.id.ent = some b → b.token = some w.c.id.tid))

/-- R394: every receiving participant, and no other thread, gets the result that the instruction gives it. -/
def Obligations.RendezvousResults : Prop :=
  ∀ (ps : List Part) (s : State) (d : Dst) (wide : Bool) (f : Part → UVal × Option Flags × BitVec 5),
    (ps.map (·.c.id)).Nodup →
    (∀ x ∈ ps, x.guard = true → ∀ th, s.thread? x.c.id = some th →
      (deliverAll ps s d wide f).thread? x.c.id =
        some { th.writes d wide (f x).1 (f x).2.1 with fpstat := th.fpstat ||| (f x).2.2 }) ∧
    (∀ id, (∀ x ∈ ps, x.guard = true → x.c.id ≠ id) → (deliverAll ps s d wide f).thread? id = s.thread? id) ∧
    (deliverAll ps s d wide f).mem = s.mem

/-- R396, R399, R400: the source lane of a shuffle, the results of the votes, and the order of compare-exchange keys. -/
def Obligations.ExchangesAndVotes : Prop :=
  (∀ (w : Bool) (l dv : Nat), l < 32 →
    let dist := if w then 32 / 2 ^ dv else dv
    shuffleLane .up w l dv = (l : Int) - dist ∧ shuffleLane .down w l dv = (l : Int) + dist ∧
      shuffleLane .xor w l dv = (l ^^^ dist : Nat) ∧ shuffleLane .idx w l dv = dist) ∧
  (∀ (k : BitVec 2) (l : Nat) (x : List (Option Contrib)), x.length = 32 →
    let b := bitsOf x
    let true_ := fun i => ∃ v, b[i]? = some (some v) ∧ v ≠ 0
    ((voteOf .orp k l x).1 = 1 ↔ ∃ i, true_ i) ∧
    ((voteOf .andp k l x).1 = 1 ↔ ∀ v, some v ∈ b → v ≠ 0) ∧
    (k = 0 → ∀ i < 32, (bitOf (voteOf .map k l x).1 i = true ↔ true_ i)) ∧
    (k ≠ 0 → (voteOf .map k l x).1 = 0) ∧
    ((voteOf .eqv k l x).1 = 1 ↔ ∀ v v', some v ∈ b → some v' ∈ b → v = v') ∧
    (voteOf .cnt k l x).1 = b.countP (fun v => match v with | some v => v != 0 | none => false) ∧
    ((∀ i, ¬ true_ i) → (voteOf .first k l x).1 = 0xFFFFFFFF) ∧
    (∀ i, true_ i → (∀ j < i, ¬ true_ j) → (voteOf .first k l x).1 = i) ∧
    (voteOf .below k l x).1 = (b.take l).countP (fun v => match v with | some v => v != 0 | none => false)) ∧
  (∀ a b : Word,
    let total := fun (x : Word) => if x.getLsbD 31 then ~~~x else x ||| 0x80000000#32
    (keyLt .f32 a.toNat b.toNat = true ↔ (total a).toNat < (total b).toNat) ∧
    (keyLt .i32 a.toNat b.toNat = true ↔ a.toInt < b.toInt) ∧ (keyLt .n32 a.toNat b.toNat = true ↔ a.toNat < b.toNat))

/-- R397, R398: the butterfly of an integer `.ADD` gives every lane the sum of all contributions, the scan gives each lane
the sum of those before it, and the worked FP32 example of R398 comes out as the spec gives it. -/
def Obligations.Reductions : Prop :=
  (∀ (ty : Ty) (x : List (Option Contrib)), ty ∈ [Ty.i32, .n32, .i64, .n64] → x.length = 32 →
    (∀ c, some c ∈ x → c.bits < 2 ^ tyWidth ty) → (∃ c, some c ∈ x) →
    ∀ l < 32, ((runAll (fun x j => butterfly ty .add false j x) (List.range 5) x)[l]?.getD none).map (·.bits) =
      some ((x.map (fun v => match v with | some c => c.bits | none => 0)).sum % 2 ^ tyWidth ty)) ∧
  (∀ (ty : Ty) (x : List (Option Contrib)), ty ∈ [Ty.i32, .n32, .i64, .n64] →
    (∀ c, some c ∈ x → c.bits < 2 ^ tyWidth ty) → (∃ c, some c ∈ x) →
    (x.foldl (redOp2 ty .add false) none).map (·.bits) =
      some ((x.map (fun v => match v with | some c => c.bits | none => 0)).sum % 2 ^ tyWidth ty)) ∧
  (let x := [some ⟨0x3F800000, false, 0⟩, some ⟨0x4B800000, false, 0⟩, some ⟨0x3F800000, false, 0⟩,
      some ⟨0xCB7FFFFF, false, 0⟩] ++ List.replicate 28 none
    let res := fun (r : Option Contrib) => r.map (fun c => (c.bits, c.flags))
    ((runAll (fun x j => butterfly .f32 .add false j x) (List.range 5) x).take 4).map res =
      List.replicate 4 (some (0x40000000, fNX)) ∧
    ((List.range 4).map (fun l => res ((x.take (l + 1)).foldl (redOp2 .f32 .add false) none))) =
      [some (0x3F800000, 0), some (0x4B800000, fNX), some (0x4B800000, fNX), some (0x3F800000, fNX)])

/-! ## Synchronisation -/

/-- R242, R243, R412, R413: barriers on an object of the own scratchpad or of a gang member's. `INIT` sets it up, `EXPECT` and
an arrival change its counts, which flip its phase when both are zero; `WAIT` and `ARRWAIT` go on when the phase differs from
their token and hold otherwise; gang scope releases before an arrival and acquires after a wait; an arrival too many takes
the overrun trap, a reserved bit the format trap, a poisoned operand the poison trap, and a demoted thread passes. R241, R243: a barrier object reads back from scratchpad as it was written, and the four steps of R243 do what they
say. Each of the five completes on an object of the own scratchpad and leaves the object as its step makes it. -/
def Obligations.Barriers : Prop :=
   (let bad := fun (i : Instr) (gang : Bool) (m : MemOp) =>
      (∀ mem off b, Does i (fun s c => c.object s gang m mem off b ∧ (s.barObj b off).reserved = true)
        (fun s _ => .trap { kind := 0x12, addr := off } s)) ∧
      Does i (fun s c => c.th.dem = false ∧ c.formObj s m 16 3 (if gang then [1, 2] else [1]) = .poison)
        (fun s c => c.poisonTrap s 0x02 0 0) ∧
      ∀ t, Does i (fun s c => c.th.dem = false ∧ c.formObj s m 16 3 (if gang then [1, 2] else [1]) = .trap t) (fun s _ => .trap t s)
    let tainted := fun (i : Instr) (gang : Bool) (m : MemOp) (wide : Bool) (x : Src) =>
      ∀ mem off b, Does i (fun s c => c.names s gang m mem off b ∧ (c.src s 0 wide x).poison = true) (fun s c => c.poisonTrap s 0x03 0 0)
    (∀ p : BarV, (Instr.barInit p).wf = true →
      let v := fun (s : State) (c : Ctx) => c.src s 0 true p.c
      bad (.barInit p) p.gang p.m ∧ tainted (.barInit p) p.gang p.m true p.c ∧
      Does (.barInit p) (fun _ c => c.th.dem = true) (fun s _ => .done s) ∧
      (∀ mem off b, Does (.barInit p) (fun s c => c.names s p.gang p.m mem off b ∧ c.stepsNow s mem ∧ (v s c).poison = false ∧
          (v s c).val.extractLsb' 48 16 = 0)
        (fun s c => .done (c.stepped (s.setBar b off
          ⟨(v s c).val.extractLsb' 0 32, false, ((v s c).val.extractLsb' 32 16).toNat, (v s c).val.extractLsb' 0 32,
            ((v s c).val.extractLsb' 32 16).toNat, false⟩) mem (crcUnit 80 off (v s c).nat) 0))) ∧
      (∀ mem off b, Does (.barInit p) (fun s c => c.names s p.gang p.m mem off b ∧ (v s c).poison = false ∧
          (v s c).val.extractLsb' 48 16 ≠ 0) (fun s _ => .trap { kind := 0x12, addr := off } s))) ∧
    (∀ p : BarV, (Instr.barExpect p).wf = true →
      let n := fun (s : State) (c : Ctx) => c.src s 0 false p.c
      bad (.barExpect p) p.gang p.m ∧ tainted (.barExpect p) p.gang p.m false p.c ∧
      Does (.barExpect p) (fun _ c => c.th.dem = true) (fun s _ => .done s) ∧
      (∀ mem off b, Does (.barExpect p) (fun s c => c.names s p.gang p.m mem off b ∧ c.stepsNow s mem ∧ (n s c).poison = false ∧
          (n s c).val.getLsbD 31 = false)
        (fun s c =>
          let o := s.barObj b off
          .done (c.stepped (s.stepBar b off (settled { o with bytes := o.bytes - (n s c).val.extractLsb' 0 32 }) []) mem
            (crcUnit 81 off (n s c).nat) 0))) ∧
      (∀ mem off b, Does (.barExpect p) (fun s c => c.names s p.gang p.m mem off b ∧ (n s c).poison = false ∧
          (n s c).val.getLsbD 31 = true) (fun s _ => .trap { kind := 0x12, addr := off } s))) ∧
    (∀ p : BarD, (Instr.barArrive p).wf = true →
      bad (.barArrive p) p.gang p.m ∧
      (∀ mem off b, Does (.barArrive p) (fun s c => c.names s p.gang p.m mem off b ∧ c.arrivesNow s p.gang mem ∧
          1 ≤ (s.barObj b off).arrivals)
        (fun s c => .done (c.arrived s p mem off b))) ∧
      (∀ mem off b, Does (.barArrive p) (fun s c => c.names s p.gang p.m mem off b ∧ (p.gang = true → c.releasesNow s) ∧
          (s.barObj b off).arrivals = 0)
        (fun s c => .trap { kind := 0x13, addr := off } (c.released s p.gang))) ∧
      Does (.barArrive p) (fun _ c => c.th.dem = true) (fun s c => .done (s.writeDst c p.d false ⟨0, false⟩ none))) ∧
    (∀ p : BarV, (Instr.barWait p).wf = true →
      let tok := fun (s : State) (c : Ctx) => (c.src s 0 false p.c).val.getLsbD 0
      bad (.barWait p) p.gang p.m ∧ tainted (.barWait p) p.gang p.m false p.c ∧
      Does (.barWait p) (fun _ c => c.th.dem = true) (fun s _ => .done s) ∧
      (∀ mem off b, Does (.barWait p) (fun s c => c.names s p.gang p.m mem off b ∧ (c.src s 0 false p.c).poison = false ∧
          (s.barObj b off).phase ≠ tok s c) (fun s c => .done (if p.gang then s.acquireAfter c.id else s))) ∧
      (∀ mem off b, Does (.barWait p) (fun s c => c.names s p.gang p.m mem off b ∧ (c.src s 0 false p.c).poison = false ∧
          (s.barObj b off).phase = tok s c)
        (fun s c => .park (.bar ⟨b.rec_.rank, off + 4⟩ (tok s c) mem.isSome p.gang) (s.seqPc c) s))) ∧
    (∀ p : BarD, (Instr.barArrwait p).wf = true →
      bad (.barArrwait p) p.gang p.m ∧
      Does (.barArrwait p) (fun _ c => c.th.dem = true) (fun s c => .done (s.writeDst c p.d false ⟨0, false⟩ none)) ∧
      ∀ mem off b, Does (.barArrwait p) (fun s c => c.names s p.gang p.m mem off b ∧ c.arrivesNow s p.gang mem ∧
          1 ≤ (s.barObj b off).arrivals)
        (fun s c =>
          let t := c.arrived s p mem off b
          if (t.barObj b off).phase ≠ (s.barObj b off).phase then .done (if p.gang then t.acquireAfter c.id else t)
          else .park (.bar ⟨b.rec_.rank, off + 4⟩ (s.barObj b off).phase mem.isSome p.gang) (t.seqPc c) t))) ∧
   ((∀ (m : ByteMem) (a : Nat) (o : BarObj), o.arrivals < 2 ^ 16 → o.arrivalsInit < 2 ^ 16 → o.reserved = false →
      let m' := m.store a o.toBytes false []
      BarObj.ofWords (m'.nat a 4) (m'.nat (a + 4) 4) (m'.nat (a + 8) 4) (m'.nat (a + 12) 4) = o) ∧
    (∀ o : BarObj, ∀ n : Word, o.expect n = settled { o with bytes := o.bytes - n } ∧
      o.add n = settled { o with bytes := o.bytes + n }) ∧
    (∀ (o : BarObj) (k : Nat), o.arrive k = if o.arrivals < k then none else some (settled { o with arrivals := o.arrivals - k })) ∧
    (∀ o : BarObj, (settled o).phase ≠ o.phase ↔ o.bytes = 0 ∧ o.arrivals = 0)) ∧
   (let completes := fun (i : Instr) (gang : Bool) (m : MemOp) (cond : State → Ctx → Block → Nat → Prop)
        (object : State → Ctx → Block → Nat → BarObj) =>
      ∀ s sh u c off b, i.wf = true → useOf i = some u → Solo s sh u c → c.names (s.begun sh u c) gang m none off b →
        cond (s.begun sh u c) c b off →
        ∃ t, exec i s = .next t ∧ (t.thread? c.id).map (·.pc) = some (s.after sh u c) ∧
          t.barObj b off = object (s.begun sh u c) c b off
    (∀ p : BarV, completes (.barInit p) p.gang p.m
      (fun s c _ _ => (c.src s 0 true p.c).poison = false ∧ (c.src s 0 true p.c).val.extractLsb' 48 16 = 0)
      (fun s c _ _ =>
        let v := (c.src s 0 true p.c).val
        ⟨v.extractLsb' 0 32, false, (v.extractLsb' 32 16).toNat, v.extractLsb' 0 32, (v.extractLsb' 32 16).toNat, false⟩)) ∧
    (∀ p : BarV, completes (.barExpect p) p.gang p.m
      (fun s c _ _ => (c.src s 0 false p.c).poison = false ∧ (c.src s 0 false p.c).val.getLsbD 31 = false)
      (fun s c b off =>
        let o := s.barObj b off
        settled { o with bytes := o.bytes - (c.src s 0 false p.c).val.extractLsb' 0 32 })) ∧
    (∀ p : BarD, completes (.barArrive p) p.gang p.m
      (fun s c b off => (p.gang = true → c.releasesNow s) ∧ 1 ≤ (s.barObj b off).arrivals)
      (fun s _ b off =>
        let o := s.barObj b off
        settled { o with arrivals := o.arrivals - 1 })) ∧
    (∀ p : BarV, completes (.barWait p) p.gang p.m
      (fun s c b off => (c.src s 0 false p.c).poison = false ∧ (s.barObj b off).phase ≠ (c.src s 0 false p.c).val.getLsbD 0)
      (fun s _ b off => s.barObj b off)) ∧
    (∀ p : BarD, completes (.barArrwait p) p.gang p.m
      (fun s c b off => (p.gang = true → c.releasesNow s) ∧ (s.barObj b off).arrivals = 1 ∧ (s.barObj b off).bytes = 0)
      (fun s _ b off =>
        let o := s.barObj b off
        settled { o with arrivals := 0 })))

/-- R226 to R229, R248, R415, R416: phase boundaries and fences. At block scope they only go on; an acquire of a wider
scope makes the core forget its clean lines once the thread's loads have returned; a release of a wider
scope writes the core's dirty bytes back once the side log of the block is empty, and waits for it before; one of system
scope ends when its markers are acknowledged; `WAITA` holds until the word
changes. R234 in this model's terms: a release publishes every dirty byte of its core and no other; a load after an acquire gives what is
published by then, or the byte that its own core holds dirty; a load again gives the same byte, whatever others publish, until
the next acquire; and a core loads what it stored. -/
def Obligations.PhasesAndFences : Prop :=
  (∀ p : Scoped, (Instr.phaseAcq p).wf = true →
    Does (.phaseAcq p) (fun _ c => c.th.dem = true ∨ p.sc = .blk) (fun s _ => .done s) ∧
    Does (.phaseAcq p) (fun s c => c.th.dem = false ∧ p.sc ≠ .blk ∧ (c.now s).loads = []) (fun s c => .done (s.acquire c.id.core)) ∧
    Does (.phaseAcq p) (fun s c => c.th.dem = false ∧ p.sc ≠ .blk ∧ (c.now s).loads ≠ []) (fun s _ => .wait .loads s)) ∧
  (∀ p : Scoped, (Instr.phaseRel p).wf = true →
    Does (.phaseRel p) (fun _ c => c.th.dem = true ∨ p.sc = .blk) (fun s _ => .done s) ∧
    Does (.phaseRel p) (fun s c => c.releasesNow s ∧ (p.sc = .gang ∨ p.sc = .dev)) (fun s c => .done (s.writeBackAll c.id.core)) ∧
    Does (.phaseRel p) (fun s c => c.th.dem = false ∧ p.sc ≠ .blk ∧ c.blk.verify = .single ∧ (c.now s).released = false ∧
      s.sideLogClear c.blk = false) (fun s _ => .wait (.release false) s) ∧
    Does (.phaseRel p) (fun s c => c.releasesNow s ∧ p.sc = .sys ∧ s.fabricSent c.id.core = true ∧
        (c.sysSent s).fabricClear c.id.core = false) (fun s c => .wait (.release true) (c.sysSent s)) ∧
    Does (.phaseRel p) (fun s c => c.releasesNow s ∧ p.sc = .sys ∧ c.sysDone s) (fun s c => .done (c.sysSent s))) ∧
  (∀ p : Scoped, (Instr.phaseAr p).wf = true →
    Does (.phaseAr p) (fun _ c => c.th.dem = true ∨ p.sc = .blk) (fun s _ => .done s) ∧
    Does (.phaseAr p) (fun s c => c.releasesNow s ∧ (p.sc = .gang ∨ p.sc = .dev) ∧ (c.now (s.writeBackAll c.id.core)).loads = [])
      (fun s c => .done ((s.writeBackAll c.id.core).acquire c.id.core)) ∧
    Does (.phaseAr p) (fun s c => c.releasesNow s ∧ p.sc = .sys ∧ c.sysDone s ∧ (c.now (c.sysSent s)).loads = [])
      (fun s c => .done ((c.sysSent s).acquire c.id.core))) ∧
  (∀ p : Scoped, (Instr.fence p).wf = true →
    Does (.fence p) (fun s c => c.th.dem = true ∨ p.sc = .blk ∨ s.fenceClear c.blk (p.sc == .gang) = true) (fun s _ => .done s) ∧
    Does (.fence p) (fun s c => c.th.dem = false ∧ p.sc ≠ .blk ∧ s.fenceClear c.blk (p.sc == .gang) = false)
      (fun s _ => .wait (.fence (p.sc == .gang)) s)) ∧
  (∀ p : Waita, (Instr.waita p).wf = true →
    Does (.waita p) (fun _ c => c.th.dem = true) (fun s c => .done (s.writeDst c p.d false ⟨0, false⟩ none)) ∧
    (∀ off, Does (.waita p) (fun s c => c.th.dem = false ∧ c.formObj s p.m 4 1 [1] = .scr none off)
      (fun s c => .park (.waita ⟨c.blk.rec_.rank, off⟩ (BitVec.ofNat 32 (s.scratch.nat (c.own off) 4)) p.d (s.seqPc c)) c.th.pc s)) ∧
    (∀ t, Does (.waita p) (fun s c => c.th.dem = false ∧ c.formObj s p.m 4 1 [1] = .trap t) (fun s _ => .trap t s))) ∧
  (∀ (s : State) (core : Nat), ((s.l1.filter (fun l => l.core == core)).map (·.line)).Nodup →
    (∀ l ∈ s.l1, l.core = core → 128 * l.line + 128 ≤ Config.tier2Base) →
    let t := s.writeBackAll core
    (∀ l ∈ s.l1, l.core = core → ∀ i < 128, l.dirty.getLsbD i = true → t.mem.get (128 * l.line + i) = l.data[i]?.getD 0) ∧
    (∀ a, (∀ l ∈ s.l1, l.core = core → l.line = a / 128 → l.dirty.getLsbD (a % 128) = false) → t.mem.get a = s.mem.get a)) ∧
  (∀ (s : State) (w : Reader) (core va cache : Nat) (e : TlbEntry), e.tier = 0 → s.latent = [] →
    let r := (s.acquire core).l1Load w core e va 1 cache
    r.2.1 = [match s.l1.find? (fun l => l.is core (e.pa va / 128) && l.dirty != 0) with
      | some l => if l.dirty.getLsbD (e.pa va % 128) then l.data[e.pa va % 128]?.getD 0 else s.mem.get (e.pa va)
      | none => s.mem.get (e.pa va)]) ∧
  (∀ (s : State) (w : Reader) (core va : Nat) (e : TlbEntry) (m : ByteMem), e.tier = 0 → s.latent = [] →
    let r := s.l1Load w core e va 1 0
    ((({ r.1 with mem := m } : State)).l1Load w core e va 1 0).2.1 = r.2.1) ∧
  (∀ (s : State) (w : Reader) (core va : Nat) (e : TlbEntry) (bs : List Byte), bs ≠ [] → e.pa va % 128 + bs.length ≤ 128 →
    (∀ l ∈ s.l1, l.data.length = 128) →
    (((s.l1Store core e va 0 bs false []).l1Load w core e va bs.length 0).2.1 = bs))

/-! ## Engines -/

/-- R417, R420 to R424, R456: a copy command whose records, group and completion fields are valid joins the queue of its
block, one of no bytes completes at once, and `MXLDB` copies into the tile and leaves the interval unprotected. A side
beyond its limit takes the bounds trap with the place where it begins (the model's choice, log entry 38), a record of a wrong form the
record-format trap. -/
def Obligations.CopyCommands : Prop :=
  let shape := fun (mk : Cpy → Instr) (form n : Nat) => ∀ p : Cpy, (mk p).wf = true →
    let g := fun (c : Ctx) => c.group p.g.toNat n
    let v := fun (c : Ctx) => (g c).map UVal.nat
    let src := fun (c : Ctx) => c.blk.record4 (if form = 3 then p.dst else p.src)
    let dst := fun (c : Ctx) => c.blk.record4 (if form = 3 then p.src else p.dst)
    let clean := fun (c : Ctx) => c.th.dem = false ∧ (src c).2 = false ∧ (dst c).2 = false ∧ (∀ x ∈ g c, x.poison = false)
    let ranged := fun (c : Ctx) => copyRanges form (v c) = true
    let outside := fun (c : Ctx) => outsideAt (copySides form c.blk.alloc (Rec.of (src c).1) (Rec.of (dst c).1) (v c) ++
      [(16 * p.comp.toNat, decide ((p.bar = true → 16 * p.comp.toNat + 16 ≤ c.blk.alloc) ∧
        (p.flg = true → 16 * p.comp.toNat + (if p.bar then 20 else 4) ≤ c.blk.alloc)))])
    let fits := fun (c : Ctx) => ranged c ∧ outside c = none
    let at_ : Done := ⟨if p.bar then some (16 * p.comp.toNat) else none, none⟩
    let done_ := fun (c : Ctx) => if p.flg then
        { at_ with flag := some (16 * p.comp.toNat + (if p.bar then 16 else 0), BitVec.ofNat 32 ((v c)[n - 1]?.getD 0)) }
      else at_
    let cmd := fun (c : Ctx) => (⟨form, c.id.tid, c.th.pc, (src c).1, (dst c).1, (v c).map (BitVec.ofNat 64), done_ c,
      16 * p.comp.toNat, c.blk.cmdSeq, false, [], 0, false⟩ : CopyCmd)
    let good := fun (c : Ctx) => copyRecordsOk form c.blk.rec_.gsize (Rec.of (src c).1) (Rec.of (dst c).1) = true
    let allowed := fun (c : Ctx) => (Rec.of (src c).1).allows 1 = true ∧ (Rec.of (dst c).1).allows 2 = true
    Does (mk p) (fun _ c => c.th.dem = true) (fun s _ => .done s) ∧
    Does (mk p) (fun _ c => clean c ∧ good c ∧ allowed c ∧ fits c ∧ (cmd c).count ≠ 0)
      (fun s c => .done ((c.untyped s (crcWords 96 ((cmd c).words c.blk.alloc))).modBlock c.id.core c.id.ent (fun b =>
        { b with copies := b.copies ++ [cmd c], cmdSeq := b.cmdSeq + 1 }))) ∧
    Does (mk p) (fun _ c => clean c ∧ good c ∧ allowed c ∧ fits c ∧ (cmd c).count = 0)
      (fun s c => .done (s.complete c.blk (done_ c) 0)) ∧
    Does (mk p) (fun _ c => clean c ∧ ¬ good c) (fun s _ => .trap { kind := 0x14 } s) ∧
    Does (mk p) (fun _ c => clean c ∧ good c ∧ ¬ allowed c) (fun s _ => .trap { kind := 0x0B } s) ∧
    Does (mk p) (fun _ c => clean c ∧ good c ∧ allowed c ∧ ¬ ranged c) (fun s _ => .trap { kind := 0x09 } s) ∧
    (∀ a, Does (mk p) (fun _ c => clean c ∧ good c ∧ allowed c ∧ ranged c ∧ outside c = some a)
      (fun s _ => .trap { kind := 0x09, addr := a } s))
  shape .cpyLin 0 4 ∧ shape .cpyGath 1 4 ∧ shape .cpytG2s 2 6 ∧ shape .cpytS2g 3 6 ∧
  (∀ p : Mxldb, (Instr.mxldb p).wf = true →
    let v := fun (c : Ctx) => (c.group p.g.toNat 4).map UVal.nat
    let a := fun (c : Ctx) i => (v c)[i]?.getD 0
    let w := fun (c : Ctx) => c.blk.record4 p.src
    let r := fun (c : Ctx) => Rec.of (w c).1
    let bytes := fun (c : Ctx) => a c 2 % 2 ^ 24
    let columns := fun (c : Ctx) => if bitOf (a c 2) 24 then 128 else 256
    Does (.mxldb p) (fun _ c => c.th.dem = true) (fun s _ => .done s) ∧
    Does (.mxldb p) (fun _ c => c.th.dem = false ∧ (w c).2 = false ∧ (∀ x ∈ c.group p.g.toNat 4, x.poison = false) ∧
        (r c).engineOk c.blk.rec_.gsize [0, 1, 3] = true ∧ (r c).allows 1 = true ∧ a c 1 % 64 = 0 ∧ bytes c % 64 = 0 ∧
        64 ≤ bytes c ∧ a c 2 / 2 ^ 25 = 0 ∧ a c 1 + bytes c ≤ 32768 ∧
        (r c).holds c.blk.alloc ((r c).start (a c 0)) (columns c * bytes c) = true ∧
        compOk c.blk.alloc p.bar p.flg (16 * p.comp.toNat) = true)
      (fun s c => .done (c.enqueue (c.unprotect s) 4 (w c).1 ⟨0, 0, 0, 0⟩ (v c)
        (doneOf p.bar p.flg (16 * p.comp.toNat) (BitVec.ofNat 32 (a c 3))) (16 * p.comp.toNat))))

/-- R425 to R428: `PUT`, `PUTS` and `GET` read their 64-byte command from scratchpad and post it; a misaligned command
takes the alignment trap, one outside the allocation the bounds trap, one of a wrong form the record-format trap; a demoted
thread posts nothing. -/
def Obligations.FabricCommands : Prop :=
  let off := fun (p : Fab) (s : State) (c : Ctx) => (c.src s 0 false p.c).nat
  let rcd := fun (p : Fab) (c : Ctx) => match p.a with | .s r => some (c.blk.record4 r) | _ => none
  let words := fun (p : Fab) (s : State) (c : Ctx) => toDwords 8 (s.scratch.read (c.own (off p s c)) 64)
  let clean := fun (p : Fab) (s : State) (c : Ctx) => c.th.dem = false ∧ (c.src s 0 false p.c).poison = false ∧
    (∀ w, rcd p c = some w → w.2 = false ∧ (c.src s 0 false p.b).poison = false)
  let loc := fun (p : Fab) (s : State) (c : Ctx) =>
    (rcd p c).map (fun w => (w.1, (Rec.of w.1).start (c.src s 0 false p.b).nat))
  let valid := fun (form : Nat) (p : Fab) (s : State) (c : Ctx) => clean p s c ∧ off p s c % 64 = 0 ∧ off p s c + 64 ≤ c.blk.alloc ∧
    s.scratch.anyPoison (c.own (off p s c)) 64 = false ∧ fabBlockOk form c.blk.alloc (rcd p c).isNone (words p s c) = true ∧
    (∀ w, rcd p c = some w → (Rec.of w.1).engineOk c.blk.rec_.gsize [0] = true ∧
      (Rec.of w.1).allows (if form = 2 then 2 else 1) = true ∧
      (Rec.of w.1).holds c.blk.alloc ((Rec.of w.1).start (c.src s 0 false p.b).nat) (dword (words p s c) 1 % 2 ^ 31) = true)
  let traps := fun (mk : Fab → Instr) => ∀ p : Fab, (mk p).wf = true →
    Does (mk p) (fun _ c => c.th.dem = true) (fun s _ => .done s) ∧
    Does (mk p) (fun s c => clean p s c ∧ off p s c % 64 ≠ 0) (fun s c => .trap { kind := 0x0A, addr := off p s c } s) ∧
    Does (mk p) (fun s c => clean p s c ∧ off p s c % 64 = 0 ∧ c.blk.alloc < off p s c + 64)
      (fun s c => .trap { kind := 0x09, addr := off p s c } s)
  let posts := fun (mk : Fab → Instr) (form : Nat) => ∀ p : Fab, (mk p).wf = true → (form = 1 → releases p.ord = false) →
    Does (mk p) (fun s c => valid form p s c ∧ c.performsNow s true) (fun s c =>
      let s1 := c.postCmd s form false (words p s c) (loc p s c)
      .done (c.logged s1 true (crcWords 48 (words p s c)) (c.newEffect s1 3 0 (some (.command s.fabric.nextId)))))
  traps .put ∧ traps .puts ∧ traps .get ∧ posts .put 0 ∧ posts .puts 1 ∧
  (∀ p : Fab, (Instr.puts p).wf = true → releases p.ord = true →
    Does (.puts p) (fun s c => valid 1 p s c ∧ c.releasesNow s ∧ s.fabricSent c.id.core = true ∧ c.performsNow (c.sysSent s) true)
      (fun s c =>
        let s0 := c.sysSent s
        let s1 := c.postCmd s0 1 true (words p s c) (loc p s c)
        .done (c.logged s1 true (crcWords 48 (words p s c)) (c.newEffect s1 3 0 (some (.command s0.fabric.nextId)))))) ∧
  (∀ p : Fab, (Instr.get p).wf = true →
    Does (.get p) (fun s c => valid 2 p s c)
      (fun s c => .done (c.postCmd (c.untyped s (crcWords 49 (words p s c))) 2 false (words p s c) (loc p s c))))

/-- R107 to R110, R113, R227, R430, R431: `LAUNCH` and `NSIG`, by a thread that passes its release. `LAUNCH` and `NSIG.CAN`
need the token. A launch that the checks of R98 pass makes the tenant's lowest free node, READY when it waits for nothing;
`ARM` makes an event node; `DEC` takes one from the count of an armed node, `CAN` ends a node's work, `QRY` reads its words. -/
def Obligations.LaunchesAndNodes : Prop :=
  let clean := fun (us : List UVal) => ∀ u ∈ us, u.poison = false
  (∀ p : Launch, (Instr.launch p).wf = true →
    let a := fun (s : State) (c : Ctx) => c.src s p.imm true p.a
    let n := fun (s : State) (c : Ctx) => c.src s p.imm false p.b
    let unit := fun (s : State) (c : Ctx) => [crcUnit 64 (a s c).nat (n s c).nat]
    let free := fun (s : State) (c : Ctx) => s.writeBackAll c.id.core
    let ready := fun (s : State) (c : Ctx) => c.mayAct ∧ clean [a s c, n s c] ∧ c.actsNow s
    Does (.launch p) (fun _ c => ¬ c.mayAct) (fun s _ => .trap { kind := 0x07 } s) ∧
    Does (.launch p) (fun s c => ready s c ∧ ¬ goodRecord (a s c).val)
      (fun s c => .done (c.answers (c.did (free s c) 5 true (unit s c) 0x15) p.d 0x15)) ∧
    Does (.launch p) (fun s c => ready s c ∧ goodRecord (a s c).val ∧ 65535 < (n s c).nat)
      (fun s c => .done (c.answers (c.did (free s c) 5 true (unit s c) 0x13) p.d 0x13)) ∧
    (∀ s1 s2 bs code, Does (.launch p) (fun s c => ready s c ∧ goodRecord (a s c).val ∧ (n s c).nat ≤ 65535 ∧
        c.readUnits (free s c) (a s c).nat 2 = (s1, .ok bs false) ∧
        s1.checkLaunch c.blk.tenant (toDwords 15 bs) = (s2, .error code) ∧ code < 2 ^ 16)
      (fun s c => .done (c.answers (c.did s2 5 true (unit s c) (BitVec.ofNat 64 code)) p.d (BitVec.ofNat 64 code)))) ∧
    (∀ s1 s2 bs l s3 k, Does (.launch p) (fun s c => ready s c ∧ goodRecord (a s c).val ∧ (n s c).nat ≤ 65535 ∧
        c.readUnits (free s c) (a s c).nat 2 = (s1, .ok bs false) ∧
        s1.checkLaunch c.blk.tenant (toDwords 15 bs) = (s2, .ok l) ∧
        s2.createGrid c.blk.tenant (n s c).nat (dword (toDwords 15 bs) 8) l = (s3, k))
      (fun s c =>
        let r := BitVec.ofNat 64 (0x01 + 2 ^ 16 * k)
        .done (c.answers (c.did s3 5 true (unit s c) r) p.d r))) ∧
    (∀ s1 t, Does (.launch p) (fun s c => ready s c ∧ goodRecord (a s c).val ∧ (n s c).nat ≤ 65535 ∧
        c.readUnits (free s c) (a s c).nat 2 = (s1, .trap t)) (fun _ _ => .trap t s1)) ∧
    (∀ s1, Does (.launch p) (fun s c => ready s c ∧ goodRecord (a s c).val ∧ (n s c).nat ≤ 65535 ∧
        c.readUnits (free s c) (a s c).nat 2 = (s1, .lines)) (fun _ _ => .wait .lines s1))) ∧
  (∀ (s : State) t n w8 l k, s.freeNode t = some k →
    let r := s.createGrid t n w8 l
    r.2 = k ∧ (r.1.node k).st = (if n = 0 then .ready else .armed) ∧ (r.1.node k).pred = n ∧ (r.1.node k).event = false ∧
      (r.1.node k).gen = (s.node k).gen + 1 ∧ (r.1.node k).cseq = s.cseq + 1 ∧ (r.1.node k).tenant = t ∧
      (r.1.node k).launch = some l ∧ (r.1.node k).cnode = w8 % 2 ^ 16 ∧ (r.1.node k).ecap = w8 / 2 ^ 32 % 2 ^ 32 ∧
      r.1.cseq = s.cseq + 1 ∧ ∀ m, m ≠ k → r.1.node m = s.node m) ∧
  (∀ p : Launch, (Instr.nsigArm p).wf = true →
    let a := fun (s : State) (c : Ctx) => c.src s p.imm false p.a
    let b := fun (s : State) (c : Ctx) => c.src s p.imm false p.b
    Does (.nsigArm p) (fun _ c => c.th.dem = true) (fun s c => .done (c.answers s p.d 1)) ∧
    (∀ t r, Does (.nsigArm p) (fun s c => c.th.dem = false ∧ clean [a s c, b s c] ∧ c.actsNow s ∧
        (s.writeBackAll c.id.core).armNode c.blk.tenant (a s c).nat (b s c).nat = (t, r))
      (fun s c => .done (c.answers (c.did t 6 true [crcUnit 65 (a s c).nat (b s c).nat] r) p.d r)))) ∧
  (∀ (s : State) (t cnt link : Nat), link < 2 ^ 32 →
    let bad := cnt = 0 ∨ 65535 < cnt ∨ (1 ≤ link / 2 ^ 24 % 64 ∧ link / 2 ^ 24 % 64 ≤ 7) ∨
      (bitOf link 16 = true ∧ s.ownsNode t (link % 2 ^ 16) = false)
    let zero := link / 2 ^ 17 % 2 ^ 7 = 0 ∧ link / 2 ^ 30 = 0
    (¬ zero → s.armNode t cnt link = (s, 0x11)) ∧
    (zero → bad → s.armNode t cnt link = (s, 0x17)) ∧
    (zero → ¬ bad → s.freeNode t = none → s.armNode t cnt link = (s, 0x18)) ∧
    (∀ k, zero → ¬ bad → s.freeNode t = some k →
      ∃ u, s.armNode t cnt link = (u, BitVec.ofNat 64 (0x01 + 2 ^ 16 * k)) ∧ (u.node k).event = true ∧ (u.node k).st = .armed ∧
        (u.node k).pred = cnt ∧ (u.node k).vec = link / 2 ^ 24 % 64 ∧ (u.node k).tenant = t ∧
        (u.node k).gen = (s.node k).gen + 1 ∧ (u.node k).cseq = s.cseq + 1 ∧ ∀ m, m ≠ k → u.node m = s.node m)) ∧
  (∀ p : Coll, (Instr.nsigDec p).wf = true →
    let a := fun (s : State) (c : Ctx) => c.src s p.imm false p.a
    Does (.nsigDec p) (fun _ c => c.th.dem = true) (fun s c => .done (c.answers s p.d 1)) ∧
    (∀ t r, Does (.nsigDec p) (fun s c => c.th.dem = false ∧ (a s c).poison = false ∧ c.actsNow s ∧
        (s.writeBackAll c.id.core).decNode c.blk.tenant (a s c).nat = (t, r))
      (fun s c => .done (c.answers (c.did t 6 true [crcUnit 66 (a s c).nat 0] r) p.d r)))) ∧
  (∀ (s : State) (t n : Nat),
    let ok := n < 65536 ∧ s.ownsNode t n = true ∧ (s.node n).st = .armed ∧ (s.node n).pred ≠ 0
    (¬ ok → s.decNode t n = (s, 6)) ∧
    (ok → 1 < (s.node n).pred → s.decNode t n = (s.setNode { s.node n with pred := (s.node n).pred - 1 }, 1)) ∧
    (ok → (s.node n).pred = 1 → (s.node n).event = false → (s.node n).failin = false →
      ∃ u, s.decNode t n = (u, 1) ∧ (u.node n).st = .ready ∧ (u.node n).pred = 0)) ∧
  (∀ p : Coll, (Instr.nsigCan p).wf = true →
    let a := fun (s : State) (c : Ctx) => c.src s p.imm false p.a
    let done_ := fun (s : State) (c : Ctx) t r => c.did t 6 true [crcUnit 67 (a s c).nat 0] r
    let acts := fun (s : State) (c : Ctx) (t : State) (r : DWord) => c.mayAct ∧ (a s c).poison = false ∧ c.actsNow s ∧
      (s.writeBackAll c.id.core).canNode c.blk.tenant (a s c).nat = (t, r)
    Does (.nsigCan p) (fun _ c => ¬ c.mayAct) (fun s _ => .trap { kind := 0x07 } s) ∧
    (∀ t r, Does (.nsigCan p) (fun s c => acts s c t r ∧
        ∃ th, (done_ s c t r).thread? c.id = some th ∧ th.exited = false)
      (fun s c => .done (c.answers (done_ s c t r) p.d r))) ∧
    (∀ t r, Does (.nsigCan p) (fun s c => acts s c t r ∧
        ∃ th, (done_ s c t r).thread? c.id = some th ∧ th.exited = true) (fun s c => .gone (done_ s c t r)))) ∧
  (∀ (s : State) (t n : Nat),
    (¬ (n < 65536 ∧ s.ownsNode t n = true) → s.canNode t n = (s, 6)) ∧
    (n < 65536 → s.ownsNode t n = true → ((s.node n).st = .free ∨ (s.node n).st = .ending) → s.canNode t n = (s, 1)) ∧
    (n < 65536 → s.ownsNode t n = true → ((s.node n).st = .armed ∨ (s.node n).st = .ready) →
      s.canNode t n = (s.retire n 5 nodeFuel, 1)) ∧
    (n < 65536 → s.ownsNode t n = true → (s.node n).st = .running → s.canNode t n = (s.endNode n 5, 1))) ∧
  (∀ p : Launch, (Instr.nsigQry p).wf = true →
    let a := fun (s : State) (c : Ctx) => c.src s p.imm false p.a
    let b := fun (s : State) (c : Ctx) => c.src s p.imm false p.b
    Does (.nsigQry p) (fun _ c => c.th.dem = true) (fun s c => .done (s.writeDst c p.d true ⟨0, false⟩ none)) ∧
    Does (.nsigQry p) (fun s c => c.th.dem = false ∧ clean [a s c, b s c] ∧ c.performsNow s true)
      (fun s c =>
        let n := (a s c).nat
        let r := if n < 65536 ∧ s.ownsNode c.blk.tenant n = true then BitVec.ofNat 64 ((s.node n).word (b s c).nat) else 0
        .done ((c.did s 1 true [crcUnit 68 (a s c).nat (b s c).nat] r).writeDst c p.d true ⟨r, false⟩ none)))

/-- R57, R58, R429: `COLL`, by the holder of the token that passes its release. The step form reads the step's 64 bytes and
starts a chain; the set-up form reads a record and its rank map and enters the communicator; the release form takes a
communicator of the tenant out of its table. A bad address, or a record that cannot be read, answers 0x08. -/
def Obligations.CollectiveCommands : Prop :=
  let free := fun (s : State) (c : Ctx) => s.writeBackAll c.id.core
  let shape := fun (mk : Coll → Instr) (p : Coll) (op : Nat) (run : Nat → Ctx → State → Eff) =>
    let a := fun (s : State) (c : Ctx) => c.src s p.imm true p.a
    Does (mk p) (fun _ c => ¬ c.mayAct) (fun s _ => .trap { kind := 0x07 } s) ∧
    Does (mk p) (fun s c => c.mayAct ∧ (a s c).poison = false ∧ ¬ goodRecord (a s c).val)
      (fun s c => .done (c.answers s p.d 8)) ∧
    Does (mk p) (fun s c => c.mayAct ∧ (a s c).poison = true)
      (fun s c => c.poisonTrap s 0x03 0 0) ∧
    ∀ t r,
      Does (mk p) (fun s c => c.mayAct ∧ (a s c).poison = false ∧ goodRecord (a s c).val ∧ c.actsNow s ∧
          run (a s c).nat c (free s c) = .done r t)
        (fun s c => .done (c.answers (c.did t 4 true [crcUnit op (a s c).nat 0] r) p.d r))
  (∀ p : Coll, (Instr.collStep p).wf = true → shape .collStep p 69 (fun a c s => c.collStart a s)) ∧
  (∀ p : Coll, (Instr.collSetup p).wf = true → shape .collSetup p 70 (fun a c s => c.collPost a s)) ∧
  (∀ (c : Ctx) (a : Nat) (s s1 : State) (bs : List Byte), s.coll.chains.length < Config.chainMax →
    (c.collRead s [(a, 64)] = (s1, .ok bs false) → ∃ t h, c.collStart a s = .done 0 t ∧
      t = { s1 with coll := { s1.coll with chains := s1.coll.chains ++ [h], nextChain := s1.coll.nextChain + 1 } } ∧
      h.id = s1.coll.nextChain ∧ h.tenant = c.blk.tenant ∧ h.core = c.id.core ∧ h.addr = BitVec.ofNat 54 a ∧
      h.words = toDwords 8 bs ∧ h.phase = .read) ∧
    (c.collRead s [(a, 64)] = (s1, .refused) → c.collStart a s = .done 8 s1)) ∧
  (∀ (c : Ctx) (a : Nat) (s s1 s2 : State) (bs rs : List Byte),
    let w := toDwords 8 bs
    let size := dword w 0 / 2 ^ 16 % 2 ^ 12
    let rank := dword w 0 / 2 ^ 32 % 2 ^ 12
    let id := dword w 0 % 2 ^ 8
    c.collRead s [(a, 32), (a + 32, 32)] = (s1, .ok bs false) →
    (commRecordOk c.blk.alloc w = false → ∃ t, c.collPost a s = .done 8 t ∧ t.coll = s1.coll) ∧
    (commRecordOk c.blk.alloc w = true →
      c.collRead s1 (granuleSpans (dword w 4 % 2 ^ 54) (4 * size + 1) (4 * size)) = (s2, .ok rs false) →
      ((rankMapOk size rs = false ∨ (rankMap size rs)[rank]? ≠ some (s2.boot.self.toNat, c.blk.tenant) ∨
        (s2.comm? id).isSome = true) → ∃ t, c.collPost a s = .done 8 t ∧ t.coll = s2.coll) ∧
      (rankMapOk size rs = true → (rankMap size rs)[rank]? = some (s2.boot.self.toNat, c.blk.tenant) → s2.comm? id = none →
        ∃ k, c.collPost a s = .done 0 { s2 with coll := { s2.coll with comms := s2.coll.comms ++ [k] } } ∧
          k.id = id ∧ k.tenant = c.blk.tenant ∧ k.size = size ∧ k.rank = rank ∧ k.ranks = rankMap size rs ∧ k.st = .setup ∧
          k.ceil = dword w 1 % 2 ^ 16 ∧ k.winBase = dword w 2 % 2 ^ 54 ∧ k.winSize = dword w 3 % 2 ^ 40))) ∧
  (∀ p : Coll, (Instr.collFree p).wf = true →
    let a := fun (s : State) (c : Ctx) => c.src s p.imm false p.a
    Does (.collFree p) (fun _ c => ¬ c.mayAct) (fun s _ => .trap { kind := 0x07 } s) ∧
    ∀ t r, Does (.collFree p) (fun s c => c.mayAct ∧ (a s c).poison = false ∧ c.actsNow s ∧
        (free s c).freeComm c.blk.tenant (a s c).nat = (t, r))
      (fun s c => .done (c.answers (c.did t 4 true [crcUnit 71 (a s c).nat 0] r) p.d r))) ∧
  (∀ (s : State) (t n : Nat),
    (s.comm? n = none → s.freeComm t n = (s, 8)) ∧
    ∀ k, s.comm? n = some k →
      ((k.tenant ≠ t ∨ k.st = .setup) → s.freeComm t n = (s, 8)) ∧
      (k.tenant = t → k.st ≠ .setup → ∃ u, s.freeComm t n = (u, 1) ∧ u.comm? n = none))

/-- R437, R444, R446, R457, R459, R460: `MXOP` and `MXACC` post an entry on the quad's engine once their parameters pass;
`MXSTAT` reads the engine as the gang sees it, and clears the marked sticky bits. In a gang of several blocks a post needs the
token; a demoted thread posts nothing. -/
def Obligations.MatrixCommands : Prop :=
  let may := fun (c : Ctx) => c.th.dem = false ∧ (c.blk.rec_.gsize = 1 ∨ c.blk.token = some c.id.tid)
  let never := fun (i : Instr) =>
    Does i (fun _ c => c.blk.rec_.gsize ≠ 1 ∧ ¬ c.mayAct) (fun s _ => .trap { kind := 0x07 } s) ∧
    Does i (fun _ c => c.blk.rec_.gsize = 1 ∧ c.th.dem = true) (fun s _ => .done s)
  (∀ (c : Ctx) (s : State) (r : MxReq),
    let q := c.id.core / 4
    let s0 := c.untyped (c.unprotect s) (crcWords 112 r.words)
    let e := s0.engine q
    (c.post s r).engine q = { e with
      quad := q, posts := e.posts + 1,
      table := e.table ++ [⟨e.posts, c.blk.gang, c.id.core, c.id.ent, c.id.tid, c.th.pc, c.blk.tenant, r, 0, false, 0, false, 0, []⟩] } ∧
    (c.post s r).mem = s0.mem ∧ (c.post s r).scratch = s0.scratch ∧
    (((s.block? c.id.core c.id.ent).bind (·.snap)) = none → e = s.engine q ∧ s0.mem = s.mem ∧ s0.scratch = s.scratch)) ∧
  (∀ p : Mxop, (Instr.mxop p).wf = true →
    let a := fun (s : State) (c : Ctx) => c.src s p.imm false p.a
    let words := fun (s : State) (c : Ctx) => toDwords 8 (s.scratch.read (c.blk.place (a s c).nat) 64)
    let x := fun (s : State) (c : Ctx) => MxParams.of (words s c)
    let rcd := fun (c : Ctx) => match p.b with | .s r => some (c.blk.record4 r) | _ => none
    let here := fun (s : State) (c : Ctx) => may c ∧ (a s c).poison = false ∧ (a s c).nat % 64 = 0 ∧
      (a s c).nat + 64 ≤ c.blk.alloc ∧ s.scratch.anyPoison (c.blk.place (a s c).nat) 64 = false
    let form := fun (s : State) (c : Ctx) => mxFormOk (words s c) c.blk.contract.rpt (rcd c).isSome = true ∧
      (x s c).bankOk c.blk.contract.rpt = true
    let outside := fun (s : State) (c : Ctx) =>
      outsideAt ((x s c).objects c.blk.alloc ++ (x s c).regions c.blk.alloc ++ (x s c).slices)
    let fits := fun (s : State) (c : Ctx) => outside s c = none
    let global := fun (s : State) (c : Ctx) (w : RecWords) => here s c ∧ form s c ∧ fits s c ∧ rcd c = some (w, false) ∧
      (Rec.of w).ok c.blk.rec_.gsize = true ∧ (Rec.of w).space = 0 ∧ (Rec.of w).allows 2 = true
    let holds := fun (s : State) (c : Ctx) (w : RecWords) => (Rec.of w).oob ≠ 0 ∨ (x s c).wfmt = 0 ∨
      (x s c).woff + ((x s c).m - 1) * (x s c).wstride + (x s c).n * (x s c).cSize ≤ (Rec.of w).extent
    let pages := fun (s : State) (c : Ctx) (w : RecWords) =>
      s.destPages c.blk false (if (x s c).wfmt = 0 then [] else (x s c).destAddrs (Rec.of w))
    never (.mxop p) ∧
    Does (.mxop p) (fun s c => may c ∧ (a s c).poison = false ∧ (a s c).nat % 64 ≠ 0)
      (fun s c => .trap { kind := 0x0A, addr := (a s c).nat } s) ∧
    Does (.mxop p) (fun s c => may c ∧ (a s c).poison = false ∧ (a s c).nat % 64 = 0 ∧ c.blk.alloc < (a s c).nat + 64)
      (fun s c => .trap { kind := 0x09, addr := (a s c).nat } s) ∧
    Does (.mxop p) (fun s c => here s c ∧ ¬ form s c) (fun s _ => .trap { kind := 0x14 } s) ∧
    (∀ o, Does (.mxop p) (fun s c => here s c ∧ form s c ∧ outside s c = some o) (fun s _ => .trap { kind := 0x09, addr := o } s)) ∧
    Does (.mxop p) (fun s c => here s c ∧ form s c ∧ fits s c ∧ rcd c = none)
      (fun s c => .done (c.post s (.op (words s c) none))) ∧
    (∀ w, Does (.mxop p) (fun s c => global s c w ∧ ¬ holds s c w)
      (fun s c => .trap { kind := 0x09, addr := (Rec.of w).base + (x s c).woff } s)) ∧
    (∀ w s1 m, Does (.mxop p) (fun s c => global s c w ∧ holds s c w ∧ pages s c w = (s1, .ok m))
      (fun s c => .done (c.post (if m = true ∧ c.blk.verify ≠ .secondary then s1.countMismatch c.blk.tenant else s1)
        (.op (words s c) (some w))))) ∧
    (∀ w s1 va, Does (.mxop p) (fun s c => global s c w ∧ holds s c w ∧ pages s c w = (s1, .hold va)) (fun _ _ => .hold va true s1)) ∧
    (∀ w s1 t, Does (.mxop p) (fun s c => global s c w ∧ holds s c w ∧ pages s c w = (s1, .trap t)) (fun _ _ => .trap t s1))) ∧
  (let acc := fun (mk : Mxacc → Instr) (o : Nat) => ∀ p : Mxacc, (mk p).wf = true →
    let q := fun (c : Ctx) => c.group p.g.toNat 4
    let v := fun (c : Ctx) => (q c).map (fun u => u.val.extractLsb' 0 32)
    let wide := fun (c : Ctx) => p.f = 4 ∧ ¬ (c.blk.contract.rpt = 2 ∧ (AccArgs.of (v c)).bank ≤ 1)
    let clean := fun (c : Ctx) => may c ∧ ∀ u ∈ q c, u.poison = false
    never (mk p) ∧
    let good := fun (c : Ctx) => accArgsOk o p.f.toNat (v c) = true
    let outside := fun (c : Ctx) => outsideAt (accPlaces o p.f.toNat (v c) c.blk.alloc)
    Does (mk p) (fun _ c => clean c ∧ ¬ good c) (fun s _ => .trap { kind := 0x09 } s) ∧
    (∀ x, Does (mk p) (fun _ c => clean c ∧ good c ∧ outside c = some x) (fun s _ => .trap { kind := 0x09, addr := x } s)) ∧
    Does (mk p) (fun _ c => clean c ∧ good c ∧ outside c = none ∧ wide c) (fun s _ => .trap { kind := 0x14 } s) ∧
    Does (mk p) (fun _ c => clean c ∧ good c ∧ outside c = none ∧ ¬ wide c)
      (fun s c => .done (c.post s (.acc o p.f.toNat (v c))))
  acc .mxaccZero 0 ∧ acc .mxaccLd 1 ∧ acc .mxaccSt 2 ∧ acc .mxaccFree 3) ∧
  (∀ p : DstOnly, (Instr.mxstat p).wf = true →
    Does (.mxstat p) (fun _ _ => True) (fun s c =>
      .done (c.answers s p.d (BitVec.ofNat 64 (statusSays (s.engine (c.id.core / 4)) c.blk.gang))))) ∧
  (∀ p : Coll, (Instr.mxstatClr p).wf = true →
    let a := fun (s : State) (c : Ctx) => c.src s p.imm false p.a
    let read := fun (s : State) (c : Ctx) =>
      c.answers s p.d (BitVec.ofNat 64 (statusSays (s.engine (c.id.core / 4)) c.blk.gang))
    Does (.mxstatClr p) (fun _ c => c.th.dem = true) (fun s c => .done (read s c)) ∧
    Does (.mxstatClr p) (fun s c => c.th.dem = false ∧ (a s c).poison = true) (fun s c => c.poisonTrap s 0x02 0 0) ∧
    Does (.mxstatClr p) (fun s c => c.th.dem = false ∧ (a s c).poison = false)
      (fun s c => .done ((read s c).modEngine (c.id.core / 4) (fun e =>
        e.setSticky c.blk.gang (e.sticky c.blk.gang &&& ~~~((a s c).val.extractLsb' 0 4).zeroExtend 32)))))

/-- R21, R23, R28, R31, R34, R35, R37, R80, R84, R88, R91, R95, R101, R107: what the spec gives for reset. The module is
before its first bring-up step, the sustained limit is 2,200 W, every tenant and every node is as its table says, no vector
is pending, each slot expects sequence number 1, and nothing is resident. The memories are empty by the model's choice
(assumption 3) and in canonical form. -/
def Obligations.ResetState : Prop :=
  State.reset.halfNs = 0 ∧ State.reset.boot.step = 0 ∧ State.reset.boot.fail = false ∧ State.reset.boot.updst = 0 ∧
  State.reset.boot.meas = List.replicate 4 (zeroBytes 32) ∧
  (∀ q < 48, State.reset.boot.quadMap[q]? = some ⟨true, decide (24 ≤ q), BitVec.ofNat 5 (q % 24)⟩) ∧
  State.reset.power.limit = 2200 ∧ State.reset.power.power = 0 ∧ State.reset.power.tmax = 0 ∧
  State.reset.power.trip = false ∧ State.reset.power.alarm = false ∧ State.reset.power.droop = false ∧
  State.reset.power.therm = false ∧ State.reset.power.stopped = false ∧ State.reset.power.module = 0 ∧
  (∀ p ∈ State.reset.fabric.ports, p = ⟨0, 0, false, 0⟩) ∧ State.reset.fabric.ports.length = 16 ∧
  (∀ t, let x := State.reset.tenant t
    x.enable = false ∧ x.maxprio = 0 ∧ x.nodecnt = 0 ∧ x.nodefirst = 0 ∧ x.tbudget = 0 ∧ x.agemax = 0x400 ∧ x.paths = 3 ∧
    x.portmask = 0xFFFF ∧ (∀ w ∈ x.twin, w = 0) ∧ x.hostBase = 0 ∧ x.hostSize = 0 ∧ (∀ e ∈ x.peers, e = 0) ∧ x.ptroot = 0 ∧
    x.seed = 0 ∧ x.aperbase = 0 ∧ x.energy = 0 ∧ x.mismatch = 0 ∧ x.sigref = 0 ∧ x.migdrop = 0 ∧ x.apererr = 0 ∧
    (∀ n ∈ x.stamps, n = 0) ∧ x.migqbase = 0 ∧ x.tmeas = zeroBytes 32 ∧ x.fxovf = false ∧
    (∀ k < 32, x.slots[k]? = some ⟨zeroBytes 128, 1, 0, 0⟩) ∧ (∀ v ∈ x.vectors, v.pending = false)) ∧
  (∀ n, (State.reset.node n).st = .free ∧ (State.reset.node n).gen = 0 ∧ (State.reset.node n).outcome = 0) ∧
  (∀ core ent, State.reset.block? core ent = none) ∧ (∀ q, (State.reset.engine q).posts = 0 ∧ (State.reset.engine q).table = []) ∧
  State.reset.shed = none ∧ State.reset.wf = true

/-- R2, R146, R174, R325: a step. With a formed shed it runs exactly the instruction that decodes from the word at the shed's PC,
and a word that does not decode makes every thread of the shed take the illegal-instruction trap with the whole word. The
word is that slot of the fetch block that the thread's core holds. Without a shed the next occasion of the agenda takes
place, else the device's own next event, else a cycle passes (the agenda is the model's own, assumption 1). At its end a block
of a `DET` grid that has parked with threads at a `YIELD` passes control. -/
def Obligations.StepRunsDecoded : Prop :=
  (∀ s sh i, s.shed = some sh → decode (BitVec.ofNat 96 (s.shedWord sh)) = .ok i → step s = endStep (exec i s)) ∧
  (∀ s sh e, s.shed = some sh → decode (BitVec.ofNat 96 (s.shedWord sh)) = .error e →
    step s = endStep (.next (runAll (fun (x : State) id => x.trapAt id { kind := 0x00, word := s.shedWord sh } false sh.pc.toNat)
      sh.members { s with shed := none }))) ∧
  (∀ (s : State) sh c k, sh.members = [c.id] → s.ctx c.id = some c →
    s.ibufFind c.id c.blk.tenant (sh.pc.toNat / 64 * 64) = some k →
    s.shedWord sh = (k.words[(sh.pc.toNat % 64 - 4) / 12]?.getD 0).toNat) ∧
  (∀ s o os, s.shed = none → s.agenda = o :: os → o.dt ≤ s.room →
    step s = endStep (exec o.ev (({ s with agenda := os } : State).pass o.dt))) ∧
  (∀ s o os, s.shed = none → s.agenda = o :: os → s.room < o.dt → s.duty = none →
    step s = endStep (.next (({ s with agenda := { o with dt := o.dt - s.room } :: os } : State).pass s.room))) ∧
  (∀ s r, s.shed = none → (s.agenda = [] ∨ ∃ o os, s.agenda = o :: os ∧ s.room < o.dt) → s.duty = some r → step s = endStep r) ∧
  (∀ s ev, s.shed = none → s.agenda = [] → s.duty = none → s.choose = some ev → step s = endStep (exec ev s)) ∧
  (∀ s, s.shed = none → s.agenda = [] → s.duty = none → s.choose = none → step s = endStep (.next (s.pass 1))) ∧
  (∀ (s : State) r, s.boot.report = some r → s.boot.due ≤ s.halfNs → s.duty = some (.next (s.bringUp r))) ∧
  (∀ (s : State) ev, s.boot.report = none → s.dueEvent = some ev → s.duty = some (exec ev s)) ∧
  (∀ (s : State) w i, decode (BitVec.ofNat 96 (w % 2 ^ 96)) = .ok i → step (s.withFetchWord 96 w) = endStep (exec i (s.withFetchWord 96 w))) ∧
  (∀ r : Host.Outcome State Fault Refusal, (∀ t, r ≠ .next t) → endStep r = r) ∧
  (∀ t : State, (∀ c ∈ t.cores, c.control = []) → endStep (.next t) = .next t.trimCode) ∧
  (∀ t : State, (∀ c ∈ t.cores, ∀ k ∈ c.ibuf, k.only = none) → t.trimCode = t) ∧
  (∀ (t : State) c e es b, t.cores = [c] → c.control = e :: es → e ∉ es → t.block? c.num e = some b → b.parked = true →
    (∃ th ∈ b.threads, th.status = .yield) → ∃ u, endStep (.next t) = .next u ∧ (u.core c.num).control = es ++ [e] ∧
      ∀ k y, u.thread? ⟨c.num, e, k⟩ = some y → ∃ th, t.thread? ⟨c.num, e, k⟩ = some th ∧
        y = if th.status = .yield then { th with status := .run } else th)

/-- R308 to R319 and the descriptions of the instructions: the encoder and the decoder agree on every well-formed instruction
of a program, with every operand at every value that its encoding admits. -/
def Obligations.DecodeInvertsEncode : Prop := ∀ i : Instr, i.isProgram = true → i.wf = true → decode (encode i) = .ok i

/-- R8, R286, R287 as the model holds memory: every step keeps the four memories in canonical form, so that equal memories
are equal data. -/
def Obligations.StepsKeepMemoriesCanonical : Prop := ∀ s t : State, s.wf = true → step s = .next t → t.wf = true

/-- R8, R286, R287: bytes stored read back, every other byte reads as before, and so does every granule's poison outside the
store. A store of poisoned data poisons the granules it touches; a store of unpoisoned data clears those it covers whole, and
those that its shed covers together. Memories that read alike are equal. -/
def Obligations.StoredBytes : Prop :=
  (∀ (m : ByteMem) a bs p full, m.wf = true →
    (m.store a bs p full).wf = true ∧ (m.store a bs p full).read a bs.length = bs ∧
    (∀ x, (m.store a bs p full).get x = if a ≤ x ∧ x < a + bs.length then bs[x - a]?.getD 0 else m.get x) ∧
    (∀ g, (m.store a bs p full).poisoned g = if touches a bs.length g then
        p || (m.poisoned g && !(full.contains g || (decide (a ≤ 32 * g) && decide (32 * g + 32 ≤ a + bs.length))))
      else m.poisoned g)) ∧
  (∀ (m : ByteMem) a n, m.wf = true → (m.zero a n).wf = true ∧
    (∀ x, (m.zero a n).get x = if a ≤ x ∧ x < a + n then 0 else m.get x) ∧
    (∀ g, (m.zero a n).poisoned g = (m.poisoned g && !(decide (a ≤ 32 * g) && decide (32 * g < a + n))))) ∧
  (∀ (m : ByteMem) a n, m.anyPoison a n = true ↔ ∃ g, m.poisoned g = true ∧ touches a n g = true) ∧
  (∀ m n : ByteMem, m.wf = true → n.wf = true → (∀ x, m.get x = n.get x) → (∀ g, m.poisoned g = n.poisoned g) → m = n)

/-- R154, R159, R161, R288, R317, R322, R325, R346: what comes before an instruction's own effect. A thread whose guard is
false only frees its last uses, keeps its chain's count and goes on to the next instruction; a poisoned guard register is
consumed; an operand beyond the frame and a latch that may not be read trap; an eighth instruction of a chain with CHAIN is
illegal. -/
def Obligations.ChecksBeforeEffect : Prop :=
  (∀ i s sh u c, single i = true → useOf i = some u → Guarded s sh u c false →
    ∃ t, exec i s = .next t ∧ Ended s t c { c.th.issued u c s.cycle false with pc := s.after sh u c } ∧ t.laneFor c.id = c.ln ∧
      ∀ n, (t.core n).ibuf = (s.core n).ibuf) ∧
  (∀ (th : Thread) (u : Use) (c : Ctx) now r,
    let x := th.issued u c now r
    x.notBefore = now + (u.cycles c.blk).2 * (if c.blk.flag 1 then 2 else 1) + u.head.gap.toNat ∧ x.chain = c.th.chainAfter u.head.chain ∧ x.ccs = th.ccs ∧
      x.fpstat = th.fpstat ∧ x.fbase = th.fbase ∧ x.depth = th.depth ∧ x.pc = th.pc ∧ x.status = th.status ∧
      ∀ k v, (k, v) ∈ th.regs → (k, v) ∈ x.regs ∨ (c.th.fbase ≤ k ∧ u.frees r (k - c.th.fbase) = true)) ∧
  (∀ i s sh u c, single i = true → useOf i = some u → Begins s sh u c → u.guardPoison c = true →
    exec i s = .next (s.ends sh u c (c.poisonTrap (s.begun sh u c) 0x02 0 0))) ∧
  (∀ i s sh u c, single i = true → useOf i = some u → Guarded s sh u c true → u.beyondFrame c.th.frame = true →
    exec i s = .next (s.ends sh u c (if u.quiet || (u.quietDem && c.th.dem) then .done (s.begun sh u c) else
      .trap { kind := 0x05 } (s.begun sh u c)))) ∧
  (∀ i s sh u c, single i = true → useOf i = some u → Guarded s sh u c true → u.beyondFrame c.th.frame = false →
    u.latchBad c = true →
    exec i s = .next (s.ends sh u c (if u.quiet || (u.quietDem && c.th.dem) then .done (s.begun sh u c) else
      .trap { kind := 0x06 } (s.begun sh u c)))) ∧
  (∀ i s sh u c, single i = true → useOf i = some u → s.shed = some sh → sh.members = [c.id] →
    ({ s with shed := none } : State).ctx c.id = some c → sh.twinCtx [c] = none → u.chainTooLong c = true →
    let s1 := ({ s with shed := none } : State).occupy sh (u.shedCycles [c])
    exec i s = .next (s1.trapAt c.id { kind := 0x00, word := s1.wordAt c } false sh.pc.toNat))

/-- R163, R329, R330: taking a trap. The handler is entered like a call, one depth deeper and above the current frame, with
its registers `v0` to `v11` as R330 lists them and with no latch valid; a table or a handler that is not as R329 asks, a
depth of 255, a frame that does not fit and one of fewer than 12 registers kill the gang; a page that is not valid holds the
thread with its trap. A trap in a chain abandons it and returns to the chain's first instruction. -/
def Obligations.TakingATrap : Prop :=
  (∀ (s s4 : State) id b th t inChain ipc h k y, TrapReady s id b th t ipc h k s4 y → y.fbase = th.fbase → y.frame = th.frame →
    y.depth = th.depth →
    ∃ z, (s.takeTrap id t inChain ipc).thread? id = some z ∧ z.pc = BitVec.ofNat 54 (h + 4) ∧ z.depth = th.depth + 1 ∧
      z.fbase = th.fbase + th.frame ∧ z.frame = k.frame ∧ z.status = .run ∧ z.chain = none ∧ z.wait = none ∧
      z.trapNext = y.trapNext ∧ z.ccs = y.ccs ∧ z.fpstat = y.fpstat ∧
      (let v := fun j => z.reg (th.fbase + th.frame + j)
      let w := fun n => (⟨BitVec.ofNat 32 n, false⟩ : RegVal)
      v 0 = w (t.kind + (if inChain then 2 ^ 8 else 0)) ∧ v 1 = w t.info ∧ v 2 = w (th.pc.toNat % 2 ^ 32) ∧
      v 3 = w (th.pc.toNat / 2 ^ 32) ∧ v 4 = w (ipc % 2 ^ 32) ∧ v 5 = w (ipc / 2 ^ 32) ∧ v 6 = w (t.addr % 2 ^ 32) ∧
      v 7 = w (t.addr / 2 ^ 32) ∧ v 8 = w (t.word % 2 ^ 32) ∧ v 9 = w (t.word / 2 ^ 32 % 2 ^ 32) ∧
      v 10 = w (t.word / 2 ^ 64 % 2 ^ 32) ∧ v 11 = w 0) ∧
      (∀ j, (s.takeTrap id t inChain ipc).mem = s4.mem ∧ (j < th.fbase + th.frame → z.reg j = y.reg j)) ∧
      ∀ l, (((s.takeTrap id t inChain ipc).laneFor id).latch l).valid = false) ∧
  (∀ (s s1 s2 : State) id b th t inChain ipc h k, s.block? id.core id.ent = some b → s.thread? id = some th →
    s.trapEntry id b t.kind ipc = (s1, .ready, h) → s1.reach id b.tenant h ipc true true = (s2, .ok k) →
    (th.depth = 255 ∨ b.rec_.frame < th.fbase + th.frame + k.frame ∨ k.frame < 12) →
    s.takeTrap id t inChain ipc = s2.killGang b.core b.ent) ∧
  (∀ (s s1 s2 : State) id b th t inChain ipc h n m, s.block? id.core id.ent = some b → s.thread? id = some th →
    s.trapEntry id b t.kind ipc = (s1, .ready, h) → s1.reach id b.tenant h ipc true true = (s2, .trap n m) →
    s.takeTrap id t inChain ipc = s2.killGang b.core b.ent) ∧
  (∀ (s s1 : State) id b th t inChain ipc va h, s.block? id.core id.ent = some b → s.thread? id = some th →
    s.trapEntry id b t.kind ipc = (s1, .hold va, h) → ∀ y, s1.thread? id = some y →
    ∃ z, (s.takeTrap id t inChain ipc).thread? id = some z ∧ z.status = .fault va false ∧ z.pc = y.pc ∧
      z.trapNext = some ⟨t.kind, t.addr, t.info, t.word, inChain, some (BitVec.ofNat 54 ipc)⟩) ∧
  (∀ (s s1 : State) id (b : Block) k pc e,
    let va := b.rec_.trapTab.toNat + 8 * k
    let kills := fun (x : State) => ∃ r, s.trapEntry id b k pc = (x.killGang b.core b.ent, .killed, r)
    ((s.xlat id.core b.tenant va .load = (s1, .perm) ∨ s.xlat id.core b.tenant va .load = (s1, .format)) → kills s1) ∧
    ((s.xlat id.core b.tenant va .load = (s1, .notValid) ∨ s.xlat id.core b.tenant va .load = (s1, .blocked)) → s.trapEntry id b k pc = (s1, .hold va, 0)) ∧
    (s.xlat id.core b.tenant va .load = (s1, .ok e) → (e.kind = 1 ∨ 2 ≤ e.tier) → kills s1) ∧
    (∀ s2 bs p, s.xlat id.core b.tenant va .load = (s1, .ok e) → ¬ (e.kind = 1 ∨ 2 ≤ e.tier) →
      (s1.countAt b.grid e va).homeRead (.thread_ b.tenant id pc va) (e.pa va) 8 = (s2, bs, p) →
      let h := ofBytes bs
      if h = 0 ∨ h / 2 ^ 54 % 2 ^ 10 ≠ 0 ∨ h % 64 ≠ 0 then kills s2 else s.trapEntry id b k pc = (s2, .ready, h))) ∧
  (∀ (s : State) id th t more ipc, s.thread? id = some th →
    s.trapAt id t more ipc = (s.modThread id Thread.abortChain).takeTrap id t (th.chain.isSome || more) ipc) ∧
  (∀ th : Thread, (∀ k, th.chain = some k → th.abortChain.pc = k.first ∧ th.abortChain.regs = k.regs ∧
      th.abortChain.ccs = k.ccs ∧ th.abortChain.fpstat = k.fpstat ∧ th.abortChain.chain = none) ∧
    (th.chain = none → th.abortChain = th))

/-- R2: no program instruction and no event of an agent of this part stops the machine. Every instruction of a program
answers a next state in every state; nothing is refused; and the one fault is that of an event that names an agent which this
part does not have (the model's choice, assumption 8). -/
def Obligations.NothingStops : Prop :=
  (∀ i s, i.isProgram = true → ∃ t, exec i s = .next t) ∧
  (∀ i s r, exec i s ≠ .refused r) ∧ (∀ i s f, exec i s = .fault f → f = .noSuchAgent ∧ i.isProgram = false) ∧
  (∀ s r, step s ≠ .refused r)

/-- R308, R310, R314, R316, R318, R319, R325 and the encodings of the opcodes: words written field by field, with the
instructions that they stand for, one or more of each class of opcodes; and words that the checks of R325 reject, each by its
own. -/
def Obligations.DecodedWords : Prop :=
  let word := fun (gap : BitVec 2) (last : BitVec 3) (chain : BitVec 1) (cond : BitVec 4) (csel : BitVec 2) (imm : BitVec 32)
    (fb fa fd : BitVec 12) (mod op : BitVec 8) => decode (gap ++ last ++ chain ++ cond ++ csel ++ imm ++ fb ++ fa ++ fd ++ mod ++ op)
  let al : Head := ⟨14, 0, false, false, false, false, 0⟩
  let v := fun (r : BitVec 8) => (⟨false, false, 0, r⟩ : Dst)
  word 0 0 0 14 0 0xFFFFFFFE 0 0 0x006 0x06 0x0B = .ok (.loop ⟨al, 6, 0xFFFFFFFE⟩) ∧
  word 1 1 1 1 1 16 0xC01 2 0x604 0x02 0x10 =
    .ok (.iadd ⟨⟨1, 1, true, true, false, false, 1⟩, .i32, false, ⟨false, true, 2, 4⟩, .v 2, .sp .imm, 16⟩) ∧
  word 0 0 0 14 0 0 0x405 2 8 0x12 0x28 = .ok (.rotR ⟨al, .i32, false, v 8, .v 2, .s 5, 0⟩) ∧
  word 0 0 0 14 0 0x12 0 4 4 0x07 0x31 = .ok (.movi ⟨al, true, v 4, .v 4, 0x12⟩) ∧
  word 0 0 0 14 0 4 3 2 6 0x1A 0x43 = .ok (.ffma ⟨al, .f32, .rtz, v 6, .v 2, .v 3, .v 4⟩) ∧
  word 0 0 0 14 0 0 0x402 2 5 0x06 0x60 = .ok (.xshf ⟨al, .xor, true, false, v 5, .v 2, .s 2, 0⟩) ∧
  word 0 0 0 14 0 0 0 0 0 0x0B 0x81 = .ok (.phaseAr ⟨al, .dev⟩) ∧
  word 0 0 0 14 0 0 3 0x404 5 0 0x96 = .ok (.launch ⟨al, v 5, .s 4, .v 3, 0⟩) ∧
  word 0 0 0 14 0 128 0x404 0xC01 0 0 0xA0 = .ok (.mxop ⟨al, .sp .imm, .s 4, 128⟩) ∧
  word 0 0 0 14 0 0x0FFFC004 2 0x404 6 0x97 0x72 = .ok (.atom ⟨al, .add, .n64, .acq, .dev, v 6, ⟨4, .v 2, 0xFFFC⟩, .v 4⟩) ∧
  word 0 0 0 14 0 0 0 0 0 0 0x0D = .error .reservedOpcode ∧ word 3 7 1 15 3 0xFFFFFFFF 0xFFF 0xFFF 0xFFF 0xFF 0xFF = .error .reservedOpcode ∧
  word 0 0 0 14 0 0 0 0 0 1 0 = .error .reservedMod ∧ word 0 0 0 14 0 1 0 0 0 0 0 = .error .unusedField ∧
  word 0 0 0 15 0 0 0 0 0 0 0 = .error .illegalGuard ∧ word 0 0 0 14 1 0 0 0 0 0 0 = .error .illegalGuard ∧
  word 0 0 0 14 0 0xC00 3 2 8 0x02 0x17 = .ok (.imadw ⟨al, .i32, false, v 8, .v 2, .v 3, .sp .zero⟩) ∧
  word 0 0 0 14 0 0xC12 3 2 8 0x02 0x17 = .error .forbiddenOperand ∧
  word 0 0 0 14 0 0 2 0x102 4 0x02 0x10 = .error .forbiddenOperand ∧ word 0 0 0 14 0 0 2 3 4 0x03 0x10 = .error .forbiddenOperand

/-- R22 to R35, R60, R74, R75, R101, R130, R132 to R134, R284, R285, R290: the device events of bring-up, power, repair and
error handling, each with its own effect. Temperatures are in quarters of a degree and instants in half nanoseconds. An event
whose occasion has not come leaves the state; one that names a quad, stack, port or lane that the part has not faults (the
model's choices, assumptions 1 and 8). -/
def Obligations.ModuleEvents : Prop :=
  let repaired := fun (s t : State) (row die item : Nat) =>
    t.boot.repairSeq = s.boot.repairSeq + 1 ∧ t.mem = s.mem ∧
      t.boot.meas = modifyAt (fun m => sha256 (m ++ sha256 (t.mapBytes ++ t.boot.repairRecord))) s.boot.meas 1 ∧
      (s.boot.repairSeq < 64 → t.boot.repairs = s.boot.repairs ++
        [⟨BitVec.ofNat 64 s.time, BitVec.ofNat 64 (row + die * 2 ^ 8 + item % 32 * 2 ^ 9), BitVec.ofNat 64 s.boot.repairSeq⟩])
  let given := fun (xs : List (Nat × Nat)) (k : Nat) => ((xs.filter (fun x => x.1 == k)).map (·.2)).sum
  (∀ r s, exec (.moduleReset r) s = .next { State.reset with
    host := s.host, messages := s.messages, reads := s.reads, agenda := s.agenda,
    boot := { State.reset.boot with report := some r, due := Config.bringUpTime 1 } }) ∧
  (∀ r s, let t := s.bringUp r
    let done := fun k => t.boot.step = k ∧ t.boot.fail = s.boot.fail
    let fails := t = { s with boot := { s.boot with fail := true, report := none } }
    (s.boot.step = 0 → if r.romOk then done 1 ∧ t.boot.repairRecord = r.repairRecord else fails) ∧
    (s.boot.step = 1 → if Config.verifyImage r.main.image r.main.signature || Config.verifyImage r.alt.image r.alt.signature
      then done 2 else fails) ∧
    (∀ fw, s.boot.step = 2 → ((Config.verifyImage r.main.image r.main.signature = true ∧ fw = r.main) ∨
        (Config.verifyImage r.main.image r.main.signature = false ∧ Config.verifyImage r.alt.image r.alt.signature = true ∧ fw = r.alt)) →
      done 3 ∧ t.boot.fevar = fw.version ∧
        t.boot.meas = modifyAt (fun m => sha256 (m ++ sha256 fw.image)) s.boot.meas 0) ∧
    (s.boot.step = 3 → done 4 ∧ t.power.process = r.process ∧ (∀ k, k ∈ t.boot.absent ↔ k ∈ r.absentStacks) ∧
      ∀ k, r.spares = [k] → repaired s t 3 (k / 4) k) ∧
    (s.boot.step = 4 → done 5 ∧ (r.record = [] → r.badQuads = [] → t.boot.spareFree = (true, true) ∧
        t.boot.meas = modifyAt (fun m => sha256 (m ++ sha256 (t.mapBytes ++ s.boot.repairRecord))) s.boot.meas 1 ∧
        ∀ n < 48, t.boot.quadMap[n]? = some ⟨true, decide (24 ≤ n), BitVec.ofNat 5 (n % 24)⟩) ∧
      (∀ n < 48, r.record = [] → r.badQuads = [(decide (24 ≤ n), BitVec.ofNat 5 (n % 24))] →
        t.boot.quadMap[n]? = some ⟨true, decide (24 ≤ n), 24⟩ ∧ t.boot.repairSeq = s.boot.repairSeq + 1 ∧
          t.boot.spareFree = (decide (24 ≤ n), decide (n < 24)))) ∧
    (s.boot.step = 5 → done 6 ∧ t.boot.self = r.self ∧ t.boot.routes = r.routes ∧
      ∀ i < 16, ∀ x, s.fabric.ports[i]? = some x →
        t.fabric.ports[i]? = some { x with up := r.laneOk[i]?.getD 0 != 0, lanes := r.laneOk[i]?.getD 0 }) ∧
    (s.boot.step = 6 → done 7 ∧ t.boot.report = none)) ∧
  (∀ w g s, exec (.linkTraining w g) s = .next { s with boot := { s.boot with linkWidth := min w 16, linkRate := min g 6 } }) ∧
  (∀ fn r s, exec (.unsupportedRequest fn r) s =
    if fn ≤ 16 then .next { s with reads := ⟨[], false, true⟩ :: s.reads } else .fault .noSuchAgent) ∧
  (∀ fw s, (s.boot.step < 7 → exec (.liveFirmwareUpdate fw) s = .next s) ∧
    (7 ≤ s.boot.step → Config.verifyImage fw.image fw.signature = true → ∃ t, exec (.liveFirmwareUpdate fw) s = .next t ∧
      t.blocks = s.blocks ∧ t.boot.fevar = fw.version ∧ t.boot.updst = 1 ∧ t.boot.pausedUntil = s.halfNs + 4000000 ∧
      ∃ s1 : State, s1.boot.meas = modifyAt (fun m => sha256 (m ++ sha256 fw.image)) s.boot.meas 2 ∧
        s1.boot.repairSeq = s.boot.repairSeq ∧ s1.boot.repairs = s.boot.repairs ∧ s1.halfNs = s.halfNs ∧ s1.mem = s.mem ∧
        repaired s1 t 6 0 0) ∧
    (7 ≤ s.boot.step → Config.verifyImage fw.image fw.signature = false → ∃ t, exec (.liveFirmwareUpdate fw) s = .next t ∧
      t.blocks = s.blocks ∧ t.boot = { s.boot with updst := 2 } ∧ (s.boot.updst = 2 → t = s))) ∧
  (∀ m s, let h := hottest m.temps
    let hot := 380 ≤ h ∨ (s.power.hot = true ∧ 368 ≤ h)
    let bad := 180 < m.coolIn ∨ 80 < m.coolOut - m.coolIn
    let holds := s.power.limit * 105 < m.power10 * 100 ∨ m.droops ≠ [] ∨ hot ∨ bad
    (s.halfNs / 2000 ≤ s.power.samples → exec (.monitorSample m) s = .next s) ∧ (s.power.samples < s.halfNs / 2000 →
    ∃ t, exec (.monitorSample m) s = .next t ∧ t.mem = s.mem ∧ t.power.power = m.power1000 ∧
      t.power.sample = some m ∧ t.power.samples = s.halfNs / 2000 ∧
      (0 ≤ h → h < 1024 → (t.power.tmax : Int) = h / 4) ∧ (t.power.hot = true ↔ hot) ∧ (t.power.therm = true ↔ hot ∨ bad) ∧
      (t.power.condition = true ↔ holds) ∧ (t.power.alarm = true ↔ s.power.alarm = true ∨ holds) ∧
      (h < 420 → t.power.trip = s.power.trip ∧ t.power.retune = s.power.retune) ∧
      (420 ≤ h → t.power.retune.getD t.power.trip = true) ∧
      (420 ≤ h → (∀ e ∈ s.engines, e.passing = false) → t.power.trip = true) ∧
      (420 ≤ h → (∃ e ∈ s.engines, e.passing = true) → t.power.trip = s.power.trip) ∧
      (h < 460 → t.blocks = s.blocks ∧ t.power.stopped = s.power.stopped) ∧
      (460 ≤ h → s.power.stopped = false → t.power.stopped = true ∧ t.blocks = [] ∧
        ∀ n, (s.node n).st ≠ .free → (t.node n).st = .free ∧ (t.node n).outcome = 7))) ∧
  (∀ s, exec .powerAlarmClear s = .next (if s.power.alarm = true ∧ s.power.condition = false ∧
      s.power.lastCondition + 200000 ≤ s.halfNs then { s with power := { s.power with alarm := false } } else s)) ∧
  (∀ s, exec .thermalTripEnd s = .next (if s.power.trip = true ∧ s.power.lastHot + 2000000 ≤ s.halfNs then s.tune false else s)) ∧
  (∀ s : State, (∀ e ∈ s.engines, e.passing = false) → s.power.trip = true →
    s.tune false = { s with power := { s.power with trip := false, retune := none } }) ∧
  (∀ c s, exec (.processMonitorRead c) s = .next (if 4 ≤ s.boot.step ∧ s.power.processReads < s.halfNs / 2000000000 then
    { s with power := { s.power with process := c, processReads := s.halfNs / 2000000000 } } else s)) ∧
  (∀ us unit x, ∀ y ∈ sharesOf us unit x, y.1 ∈ us ∧ y.1.unit = unit ∧ y.1.num = x.1 ∧
    y.2 = x.2 * y.1.count / ((us.filter (fun u => u.unit == unit && u.num == x.1)).map (·.count)).sum) ∧
  (∀ e s, s.halfNs / 20000 ≤ s.power.updates → exec (.energyMeterUpdate e) s = .next s) ∧
  (∀ e s, s.power.updates < s.halfNs / 20000 → ∃ t, exec (.energyMeterUpdate e) s = .next t ∧ t.power.meterTime = s.time ∧
    t.power.updates = s.halfNs / 20000 ∧ t.power.used = [] ∧
    let cs := e.cores.flatMap (sharesOf s.power.used 0) ++ e.engines.flatMap (sharesOf s.power.used 1)
      ++ e.requests.flatMap (sharesOf s.power.used 2)
    t.power.module = s.power.module + max e.module (cs.map (·.2)).sum ∧
    (∀ k < 192, lookupNat 0 t.power.coreMeters k = lookupNat 0 s.power.coreMeters k + given e.cores k) ∧
    (∀ k < 48, lookupNat 0 t.power.engineMeters k = lookupNat 0 s.power.engineMeters k + given e.engines k) ∧
    (∀ k < 16, k < s.tenants.length →
      (t.tenant k).energy = (s.tenant k).energy + ((cs.filter (fun y => y.1.tenant == k)).map (·.2)).sum) ∧
    ∀ u x n, cs = [(u, x)] → u.grid = some (n, (s.node n).gen) → (s.node n).event = false →
      ((s.node n).st = .running ∨ (s.node n).st = .ending) → (s.node n).energy + ((s.node n).micro + x) / 1000 < 2 ^ 32 →
      (t.node n).energy = (s.node n).energy + ((s.node n).micro + x) / 1000 ∧
        ((s.node n).energy < (s.node n).ecap → (s.node n).ecap ≤ (t.node n).energy → (s.node n).outcome = 0 →
          (t.node n).outcome = 3 ∧ ((t.node n).st = .ending ∨ (t.node n).st = .free))) ∧
  (∀ s, s.boot.step < 7 ∨ s.halfNs / 2000000 ≤ s.power.interval → exec .planningInterval s = .next s) ∧
  (∀ s, 7 ≤ s.boot.step → s.power.interval < s.halfNs / 2000000 → ∃ t, exec .planningInterval s = .next t ∧
    t.power.limit = s.power.newLimit.getD s.power.limit ∧ t.power.newLimit = none ∧
    t.power.interval = s.halfNs / 2000000 ∧ t.power.spent = 0 ∧ t.blocks = s.blocks ∧
    let limit := s.power.newLimit.getD s.power.limit
    let ks := List.range 16
    let total := ((ks.filter (fun k => (s.tenant k).enable)).map (fun k => (s.tenant k).tbudget)).sum
    let g := fun k => if (s.tenant k).enable = false then 0
      else if limit < total then (s.tenant k).tbudget * limit / total else (s.tenant k).tbudget
    let idle := (s.power.spent - (ks.map (fun k => (s.tenant k).spent)).sum) / 1000
    let spare := if s.power.alarm then 0 else limit - idle - (ks.map g).sum
    let act := (ks.filter s.active).length
    let h := fun k => if s.active k = true then spare / act else 0
    ∀ k < 16, k < s.tenants.length →
      (t.tenant k).budget = min ((s.tenant k).budget + g k + h k - ((s.tenant k).spent / 1000 : Nat)) (10 * (g k + h k)) ∧
      (t.tenant k).spent = 0 ∧ ((t.tenant k).paced = true ↔ (t.tenant k).budget < 0)) ∧
  (∀ v s, exec (.pwrlimWrite v) s = .next (if s.boot.step < 7 then s else
    { s with power := { s.power with newLimit := some (max 1400 (min 2200 (v.toNat % 2 ^ 12))) } })) ∧
  (∀ q r s, (48 ≤ q → exec (.quadFailureRepair ⟨q, r⟩) s = .fault .noSuchAgent) ∧
    (q < 48 → exec (.quadFailureRepair ⟨q, false⟩) s = exec (.quadFailureRepair ⟨q, true⟩) (s.quadDead q))) ∧
  (∀ q (s : State) g, q < 48 → s.blocks.map Block.gang = [g] → (∀ b ∈ s.blocks, b.core / 4 = q ∧ b.killed = false) →
    s.block? ((s.blocks.map (·.core)).headD 0) ((s.blocks.map (·.ent)).headD 0) = s.blocks.head? →
    s.quadDead q = (s.stopGang g).endNode g.1 2) ∧
  (∀ q s, (q < 48 →
    let spare := if q < 24 then s.boot.spareFree.1 else s.boot.spareFree.2
    (s.quadOk q = false → exec (.quadFailureRepair ⟨q, true⟩) s = .next s) ∧
    (s.quadOk q = true → spare = true → q ∉ s.boot.remapping →
      exec (.quadFailureRepair ⟨q, true⟩) s = .next { s with boot := { s.boot with remapping := s.boot.remapping ++ [q] } }) ∧
    (s.quadOk q = true → q ∈ s.boot.remapping → s.inRemap q = false → exec (.quadFailureRepair ⟨q, true⟩) s = .next s) ∧
    (∀ e, s.boot.quadMap[q]? = some e → e.ok = true →
      ((spare = false ∧ s.boot.remapping = []) ∨ (spare = true ∧ s.inRemap q = true)) →
      ∃ t, exec (.quadFailureRepair ⟨q, true⟩) s = .next t ∧ t.boot.quadMap[q]? = some { e with ok := false } ∧ q ∉ t.boot.remapping ∧
        repaired s t 2 (q / 24) e.pq.toNat))) ∧
  (∀ q pq s, (48 ≤ q → exec (.quadRemap q pq) s = .fault .noSuchAgent) ∧ (q < 48 →
    let due := s.inRemap q = true ∧ (if q < 24 then s.boot.spareFree.1 else s.boot.spareFree.2) = true ∧ pq = 24 ∧
      ∀ b ∈ s.blocks, b.core / 4 ≠ q
    (¬ due → exec (.quadRemap q pq) s = .next s) ∧
    (due → ∀ e, s.boot.quadMap[q]? = some e → ∃ t, exec (.quadRemap q pq) s = .next t ∧
      t.boot.quadMap[q]? = some { e with pq := pq } ∧ q ∉ t.boot.remapping ∧ s.boot.repairSeq < t.boot.repairSeq ∧
      (if q < 24 then t.boot.spareFree.1 else t.boot.spareFree.2) = false ∧
      (s.images = [] → s.boot.remapping = [q] →
        repaired s t 1 (q / 24) pq.toNat ∧ t.bstore = s.bstore.zero (q * 8388608) 8388608)))) ∧
  (∀ k s, (8 ≤ k → exec (.hbmRowSpare k) s = .fault .noSuchAgent) ∧
    (k < 8 → ∃ t, exec (.hbmRowSpare k) s = .next t ∧ repaired s t 3 (k / 4) k ∧ t.blocks = s.blocks)) ∧
  (∀ fs s, ∃ t, exec (.hbmPageRetire fs) s = .next t ∧ (∀ f, f ∈ t.boot.retired ↔ f ∈ fs ∨ f ∈ s.boot.retired) ∧
    ∀ k, fs ≠ [] → (∀ f ∈ fs, f * 65536 / 0xC00000000 = k) → t.boot.repairSeq = s.boot.repairSeq + 1 ∧
      (s.boot.repairSeq < 64 → t.boot.repairs = s.boot.repairs ++
        [⟨BitVec.ofNat 64 s.time, BitVec.ofNat 64 (4 + k / 4 * 2 ^ 8 + k % 32 * 2 ^ 9), BitVec.ofNat 64 s.boot.repairSeq⟩])) ∧
  (∀ p l s, ((16 ≤ p ∨ 8 ≤ l) → exec (.fabricLaneRetire p l) s = .fault .noSuchAgent) ∧ (p < 16 → l < 8 →
    ∃ t, exec (.fabricLaneRetire p l) s = .next t ∧ repaired s t 5 0 p ∧
      ∀ x, s.fabric.ports[p]? = some x → ∃ y, t.fabric.ports[p]? = some y ∧ y.proterr = x.proterr ∧ y.crcerr = x.crcerr ∧
        (∀ i < 8, y.lanes.getLsbD i = (x.lanes.getLsbD i && decide (i ≠ l))) ∧ (y.up = true ↔ x.up = true ∧ y.lanes ≠ 0))) ∧
  (∀ m s, ∃ t, exec (.moduleHotSwap m) s = .next t ∧ t.boot.repairSeq = s.boot.repairSeq + 1 ∧
    ∀ c ∈ s.coll.comms, s.comm? c.id = some c → c.st = .up → (∃ r ∈ c.ranks, r.1 = m.toNat) →
      ∃ d, t.comm? c.id = some d ∧ d.st = .failed) ∧
  (∀ s, ∃ t, exec .memoryScrub s = .next t ∧ t.latent = [] ∧ t.blocks = s.blocks ∧ t.mem.cells = s.mem.cells ∧
    ∀ g, t.mem.poisoned g = (s.mem.poisoned g || s.latent.any (fun l => l.granule == g))) ∧
  (∀ y s, (∀ core ent b, s.block? core ent = some b → b.killed = false →
      ∃ t d, exec (.hiddenStructureError (.slotEntry core ent) y) s = .next t ∧ t.block? core ent = some d ∧ d.killed = true ∧
        d.threads.all (·.exited) = true) ∧
    (∀ n k i, s.images.find? (fun i => i.rec_.node == n && i.rec_.block == k) = some i → i.rec_.gen = (s.node n).gen →
      ∃ t, exec (.hiddenStructureError (.image n k) y) s = .next t ∧ i ∉ t.images) ∧
    (∀ n k f l, exec (.hiddenStructureError (.imageHeader n k f l) y) s = .next { s with images := s.images.map (fun i =>
        if i.rec_.node = n ∧ i.rec_.block = k then { i with format := f, lanes := l } else i) }) ∧
    (∀ n, (s.node n).st ≠ .free → (s.node n).cnv = false → ∃ t, exec (.hiddenStructureError (.nodeEntry n) y) s = .next t ∧
      (t.node n).st = .free ∧ (t.node n).outcome = 2) ∧
    ∃ t, exec (.hiddenStructureError .unattributed y) s = .next t ∧ t.blocks = [] ∧ t.power = s.power ∧ t.mem = s.mem ∧
      ∀ n, (s.node n).st ≠ .free → (t.node n).st = .free ∧ (t.node n).outcome = 7) ∧
  (∀ c s, 13 < c.src.toNat → exec (.correctedError c) s = .next s) ∧
  (∀ c s, c.src.toNat ≤ 13 → let unit := c.src.toNat * 4096 + c.core % 4096
    let was := s.merged.find? (fun x => x.1 == unit)
    (∀ since n, was = some (unit, since, n) → s.halfNs < since + 2000000 → exec (.correctedError c) s =
      .next { s with merged := (unit, since, min (n + 1) (max n 65535)) :: s.merged.filter (fun x => x.1 != unit) }) ∧
    ((was = none ∨ ∃ u since n, was = some (u, since, n) ∧ since + 2000000 ≤ s.halfNs) → ∃ t, exec (.correctedError c) s = .next t ∧
      t.pf.errq.seq = (s.pf.errq.seq + 1) % 2 ^ 18 ∧ t.merged = (unit, s.halfNs, 0) :: s.merged.filter (fun x => x.1 != unit) ∧
      t.mem = s.mem ∧ t.blocks = s.blocks))

/-- R12, R37, R74 to R103, R145: what the host does to the part, each access with its own effect. Function 0 is the physical
function, function `n` the virtual one of tenant `n - 1`; a virtual function answers once it is enabled after bring-up. An
access of a function that does not answer leaves the state; one that names a function, slot, port or vector that the part has
not faults (the model's choice, assumption 8). -/
def Obligations.HostAccesses : Prop :=
  let up := fun (s : State) => 7 ≤ s.boot.step
  let opens := fun (s : State) (vf : Nat) => vf < 16 ∧ up s ∧ (s.tenant vf).vfOn = true
  let gone := fun (mk : Nat → Instr) (n : Nat) => ∀ k s, n ≤ k → exec (mk k) s = .fault .noSuchAgent
  let shut := fun (mk : Nat → Instr) => ∀ k s, k < 16 → ¬ opens s k → exec (mk k) s = .next s
  let cfg := fun (i : Instr) (s : State) (t off : Nat) (v : DWord) (f : Tenant → Tenant) =>
    exec i s = .next (if s.boot.step < 7 then s else
      { s.modTenant t f with boot := { s.boot with meas := modifyAt (fun m => sha256 (m ++ sha256
        (toBytes 4 (off + t * 2 ^ 16) ++ toBytes 8 v.toNat))) s.boot.meas 3 } })
  let cut := fun (v : DWord) (lo n : Nat) => BitVec.ofNat 64 (v.toNat / 2 ^ lo % 2 ^ n * 2 ^ lo)
  let walks := fun (s : State) (vf : Nat) (spans : List (Nat × Nat)) =>
    runAll (fun (s : State) (x : Nat × Nat) => s.walked vf x.1) spans s
  let noTlb := fun (t : State) (k : Nat) => (∀ c ∈ t.cores, ∀ e ∈ c.tlb, e.tenant ≠ k) ∧ ∀ x ∈ t.quadTlb, x.2.tenant ≠ k
  (∀ n s, exec (.sriovVfEnable n) s = if 16 < n then .fault .noSuchAgent else if s.boot.step < 7 then .next s else
    .next { s with boot := { s.boot with numVfs := n },
                   tenants := (List.range 16).map (fun i => { s.tenant i with vfOn := decide (i < n) }) }) ∧
  (∀ off bs, gone (fun k => .launchSlotWrite k off bs) 16 ∧ shut (fun k => .launchSlotWrite k off bs) ∧
    ∀ vf s, opens s vf → inSlot off bs.length = true → ¬ (off % 128 ≤ 120 ∧ 128 ≤ off % 128 + bs.length) →
      exec (.launchSlotWrite vf off bs) s = .next (s.modTenant vf (fun x => { x with
        slots := modifyAt (fun y => { y with bytes := overwrite y.bytes (off % 128) bs }) x.slots (off / 128) }))) ∧
  (∀ off bs, gone (fun k => .launchCommit k off bs) 16 ∧ shut (fun k => .launchCommit k off bs) ∧
    ∀ vf s, opens s vf → inSlot off bs.length = true → off % 128 ≤ 120 → 128 ≤ off % 128 + bs.length → vf < s.tenants.length →
      (s.tenant vf).slots.length = 32 →
      let k := off / 128
      let s0 := s.slotBytes vf off bs
      let y := (s.tenant vf).slot k
      let ws := toDwords 16 (overwrite y.bytes (off % 128) bs)
      let next := if y.expseq + 1 = 0 then 1 else y.expseq + 1
      let s1 := s0.modSlot vf k (fun z => { z with expseq := next })
      let ends := fun (t : State) (code node : Nat) (e : Word) =>
        ((t.tenant vf).slot k).code = code ∧ ((t.tenant vf).slot k).node = node ∧ ((t.tenant vf).slot k).expseq = e
      let right := BitVec.ofNat 32 (dword ws 15) = y.expseq
      (¬ right → ∃ t, exec (.launchCommit vf off bs) s = .next t ∧ ends t 0x10 0 y.expseq ∧ t.nodes = s.nodes) ∧
      (right → dword ws 15 / 2 ^ 32 % 2 ^ 32 ≠ 0 → ∃ t, exec (.launchCommit vf off bs) s = .next t ∧ ends t 0x11 0 next ∧
        t.nodes = s.nodes) ∧
      (∀ s2 c, right → dword ws 15 / 2 ^ 32 % 2 ^ 32 = 0 → s1.checkLaunch vf (ws.take 15) = (s2, .error c) →
        (s2.tenant vf).slots = (s1.tenant vf).slots → vf < s2.tenants.length →
        ∃ t, exec (.launchCommit vf off bs) s = .next t ∧ ends t c 0 next ∧ t.nodes = s2.nodes) ∧
      (∀ s2 l u n, right → dword ws 15 / 2 ^ 32 % 2 ^ 32 = 0 → s1.checkLaunch vf (ws.take 15) = (s2, .ok l) →
        (s2.tenant vf).slots = (s1.tenant vf).slots → vf < s2.tenants.length → s2.createGrid vf 0 (dword ws 8) l = (u, n) →
        ∃ t, exec (.launchCommit vf off bs) s = .next t ∧ ends t 1 n next ∧ t.nodes = u.nodes)) ∧
  (∀ slot, gone (fun k => .slotStatusRead k slot) 16 ∧ (slot < 32 → shut (fun k => .slotStatusRead k slot)) ∧
    ∀ vf s, (32 ≤ slot → exec (.slotStatusRead vf slot) s = .fault .noSuchAgent) ∧
      (opens s vf → slot < 32 → let y := (s.tenant vf).slot slot
        exec (.slotStatusRead vf slot) s = .next { s with reads := ⟨toBytes 8 (BitVec.ofNat 64 (y.expseq.toNat + y.code * 2 ^ 40 +
          (if y.code = 1 then y.node * 2 ^ 48 else 0))).toNat, false, false⟩ :: s.reads })) ∧
  (∀ v, gone (fun k => .tcfgWrite k v) 16 ∧ ∀ t s, t < 16 → cfg (.tcfgWrite t v) s t 0x000 v (fun x =>
    let first := v.toNat / 2 ^ 48 % 2 ^ 16
    let cnt := v.toNat / 2 ^ 16 % 2 ^ 17
    { x with enable := v.getLsbD 0, maxprio := v.toNat / 2 ^ 8 % 2 ^ 8, nodefirst := if x.enable then x.nodefirst else first,
             nodecnt := if x.enable then x.nodecnt else min cnt (65536 - first),
             budget := if v.getLsbD 0 && !x.enable then 0 else x.budget, fxovf := x.fxovf && !(v.getLsbD 0 && !x.enable) })) ∧
  (∀ off v, gone (fun k => .memoryWindowWrite k off v) 16 ∧ ∀ t s, t < 16 →
    (¬ (0x040 ≤ off ∧ off < 0x090 ∧ off % 8 = 0) ∨ s.boot.step < 7 → exec (.memoryWindowWrite t off v) s = .next s) ∧
    (up s → t < s.tenants.length → (0x040 ≤ off ∧ off < 0x090 ∧ off % 8 = 0) → ∃ u, exec (.memoryWindowWrite t off v) s = .next u ∧
      noTlb u t ∧ u.mem = s.mem ∧ u.tenant t = (
        if off < 0x080 then { s.tenant t with twin := modifyAt (fun _ => v &&& 0xFFFFFFFFFFFFFFF9) (s.tenant t).twin ((off - 0x040) / 8) }
        else if off = 0x080 then { s.tenant t with hostBase := cut v 16 48 }
        else { s.tenant t with hostSize := cut v 0 40 }))) ∧
  (∀ e v, gone (fun k => .peerEntryWrite k e v) 16 ∧ ∀ t s, (64 ≤ e → exec (.peerEntryWrite t e v) s = .fault .noSuchAgent) ∧
    (t < 16 → e < 64 → cfg (.peerEntryWrite t e v) s t (0x100 + 8 * e) v (fun x =>
      { x with peers := modifyAt (fun _ => v &&& 0x000007FF07FF00F7) x.peers e }))) ∧
  (∀ v, gone (fun k => .pathcfgWrite k v) 16 ∧ ∀ t s, t < 16 → cfg (.pathcfgWrite t v) s t 0x018 v (fun x =>
    { x with paths := v.toNat % 2 ^ 4, portmask := v.extractLsb' 16 16 })) ∧
  (∀ v, gone (fun k => .agemaxWrite k v) 16 ∧ ∀ t s, t < 16 → cfg (.agemaxWrite t v) s t 0x010 v (fun x =>
    { x with agemax := max 64 (v.toNat % 2 ^ 16) })) ∧
  (∀ v, gone (fun k => .ptrootWrite k v) 16 ∧ shut (fun k => .ptrootWrite k v) ∧ ∀ vf s, opens s vf → vf < s.tenants.length →
    ∃ t, exec (.ptrootWrite vf v) s = .next t ∧ (t.tenant vf) = { s.tenant vf with ptroot := cut v 16 36 } ∧ noTlb t vf ∧
      t.mem = s.mem) ∧
  (∀ i v, gone (fun k => .stampWrite k i v) 16 ∧ (i < 16 → shut (fun k => .stampWrite k i v)) ∧ ∀ vf s,
    (16 ≤ i → exec (.stampWrite vf i v) s = .fault .noSuchAgent) ∧ (opens s vf → i < 16 → exec (.stampWrite vf i v) s = .next (
      if i = 0 then s else s.modTenant vf (fun x => { x with stamps := modifyAt (fun _ => v.toNat % 2 ^ 16) x.stamps i })))) ∧
  (∀ v, gone (fun k => .tmeasinWrite k v) 16 ∧ shut (fun k => .tmeasinWrite k v) ∧ ∀ vf s, opens s vf →
    exec (.tmeasinWrite vf v) s = .next (s.modTenant vf (fun x =>
      let d := overwrite x.tmeasin 24 (toBytes 8 v.toNat)
      { x with tmeasin := d, tmeas := sha256 (x.tmeas ++ d) }))) ∧
  (let asks := fun (mk : Nat → Instr) (op : Nat) => gone mk 17 ∧ ∀ fn s, fn ≤ 16 →
      ((s.fnOpen fn = false ∨ (s.attest fn).busy = true) → exec (mk fn) s = .next s) ∧
      (s.fnOpen fn = true → (s.attest fn).busy = false → exec (mk fn) s = .next { s.modAttest fn (fun a => { a with
        op := op, busy := true }) with requests := s.requests ++ [⟨fn, op, (s.attest fn).addr, (s.attest fn).nonce⟩] })
  asks .attestationReport 1 ∧ asks .attestationCertificate 2) ∧
  (∀ w s, (s.requests = [] → exec (.attestationRequestEnd w) s = .next s) ∧
    (∀ r rs, s.requests = r :: rs → (r.fn = 0 ∨ r.fn ≤ s.tenants.length) →
      let outside := r.fn ≠ 0 ∧ s.inHostWindow (r.fn - 1) r.addr.toNat (if r.op = 1 then 16544 else 16288) = false
      ∃ t, exec (.attestationRequestEnd w) s = .next t ∧ t.requests = rs ∧ (t.attest r.fn).busy = false ∧ t.mem = s.mem ∧
        (outside → (t.attest r.fn).st = 2 ∧ t.host = s.host) ∧
        (¬ outside → w = true → (t.attest r.fn).st = 1 ∧ t.host = s.host.write r.addr.toNat (({ s with requests := rs } : State).attestOutput r)) ∧
        (¬ outside → w = false → (t.attest r.fn).st = 3 ∧ t.host = s.host))) ∧
  (∀ off size v, gone (fun k => .registerWrite k off size v) 17 ∧ ∀ fn s, fn ≤ 16 →
    let wr := exec (.registerWrite fn off size v) s
    (s.fnOpen fn = false → wr = .next s) ∧
    (s.fnOpen fn = true → (off < 0x2000 ∨ 0x3000 ≤ off) → ¬ (size = 4 ∧ off % 4 = 0) → ¬ (size = 8 ∧ off % 8 = 0) → wr = .next s) ∧
    (s.fnOpen fn = true → size = 4 → off = 0x108C → wr = .next (s.modErrq fn (fun q => { q with tail := v.toNat % 2 ^ 8 }))) ∧
    (s.fnOpen 0 = true → fn = 0 → size = 4 → off = 0 →
      wr = .next { s with power := { s.power with newLimit := some (max 1400 (min 2200 (v.toNat % 2 ^ 12))) } }) ∧
    (s.fnOpen fn = true → fn ≠ 0 → size = 8 →
      (off = 0x1000 → wr = .next s) ∧
      (off = 0x1010 → wr = .next (s.modTenant (fn - 1) (fun x => { x with seed := v }))) ∧
      (off = 0x1018 → wr = .next (s.modTenant (fn - 1) (fun x => { x with aperbase := cut v 34 20 }))) ∧
      (off = 0x1080 → wr = .next (s.modTenant (fn - 1) (fun x => { x with errq := { x.errq with base := cut v 14 40 } }))) ∧
      (off = 0x1090 → wr = .next (s.modTenant (fn - 1) (fun x => { x with migqbase := cut v 16 38 }))) ∧
      (off = 0x10A0 → wr = .next (s.modTenant (fn - 1) (fun x => { x with att := { x.att with addr := cut v 12 52 } }))) ∧
      (off = 0x1008 → wr = exec (.ptrootWrite (fn - 1) v) s) ∧ (off = 0x10F8 → wr = exec (.tmeasinWrite (fn - 1) v) s))) ∧
  (∀ p, gone (fun k => .flinkRead k p) 17 ∧ ∀ fn s, (16 ≤ p → exec (.flinkRead fn p) s = .fault .noSuchAgent) ∧
    (∀ x, fn ≤ 16 → p < 16 → s.fabric.ports[p]? = some x →
      let n := if s.fnOpen fn = true then x.lanes.toNat + (if x.up then 2 ^ 8 else 0) + x.crcerr * 2 ^ 16 + x.proterr * 2 ^ 24 else 0
      ∃ t, exec (.flinkRead fn p) s = .next t ∧ t.reads = ⟨toBytes 4 n, false, false⟩ :: s.reads ∧
        t.fabric.ports[p]? = some (if fn = 0 ∧ up s then { x with proterr := 0, crcerr := 0 } else x) ∧
        (fn ≠ 0 → t.fabric = s.fabric))) ∧
  (∀ w, gone (fun k => .msixUnmask k w) 17 ∧ ∀ fn s, ((if fn = 0 then 8 else 64) ≤ w → exec (.msixUnmask fn w) s = .fault .noSuchAgent) ∧
    (fn ≤ 16 → w < (if fn = 0 then 8 else 64) → (s.fnOpen fn = false → exec (.msixUnmask fn w) s = .next s) ∧
      ∀ x, s.fnOpen fn = true → (s.vectorsOf fn)[w]? = some x → (fn = 0 ∨ fn ≤ s.tenants.length) →
        ∃ t, exec (.msixUnmask fn w) s = .next t ∧
        (t.vectorsOf fn)[w]? = some { x with masked := false, pending := false } ∧
        t.messages = s.messages ++ (if x.pending then [⟨fn, w, x.addr, x.data⟩] else []))) ∧
  (gone .functionLevelReset 16 ∧ shut .functionLevelReset ∧ ∀ vf s, opens s vf → vf < s.tenants.length →
    ∃ t, exec (.functionLevelReset vf) s = .next t ∧ t.mem = s.mem ∧ t.host = s.host ∧ t.scratch = s.scratch ∧
      t.blocks = s.blocks.filter (fun b => b.tenant != vf) ∧ t.images = s.images.filter (fun i => i.rec_.tenant != vf) ∧
      (∀ n, (s.node n).tenant = vf → (s.node n).st ≠ .free → (t.node n).st = .free ∧ (t.node n).outcome = 8) ∧
      (∀ n, (s.node n).tenant ≠ vf → t.node n = s.node n) ∧ noTlb t vf ∧ (∀ h ∈ t.coll.chains, h.tenant ≠ vf) ∧
      let x := s.tenant vf
      let y := t.tenant vf
      y.ptroot = 0 ∧ y.seed = 0 ∧ y.aperbase = 0 ∧ y.mismatch = 0 ∧ y.sigref = 0 ∧ y.migdrop = 0 ∧ y.apererr = 0 ∧ y.migqbase = 0 ∧
        y.energy = 0 ∧ (∀ n ∈ y.stamps, n = 0) ∧ y.tmeas = zeroBytes 32 ∧ y.slots = List.replicate 32 ⟨zeroBytes 128, 1, 0, 0⟩ ∧
        y.errq.base = 0 ∧ y.errq.head = 0 ∧ y.errq.tail = 0 ∧ y.enable = x.enable ∧ y.nodecnt = x.nodecnt ∧
        y.nodefirst = x.nodefirst ∧ y.agemax = x.agemax ∧ y.twin = x.twin ∧ y.peers = x.peers ∧ y.hostBase = x.hostBase) ∧
  (∀ off n, gone (fun k => .apertureRead k off n) 16 ∧ shut (fun k => .apertureRead k off n) ∧ ∀ vf s, opens s vf →
    (¬ (1 ≤ n ∧ off + n ≤ 2 ^ 34) → exec (.apertureRead vf off n) s = .next s) ∧
    (1 ≤ n → off + n ≤ 2 ^ 34 →
      let spans := aperSpans ((s.tenant vf).aperbase.toNat + off) n
      let w := walks s vf spans
      (∀ s1 bs ps, w.aperOk vf .load spans = true → w.destReadAll vf 0 spans = (s1, bs, ps) →
        exec (.apertureRead vf off n) s = .next { s1 with reads := ⟨bs, !ps.isEmpty, false⟩ :: s1.reads }) ∧
      (w.aperOk vf .load spans = false → ∃ t, exec (.apertureRead vf off n) s = .next t ∧ t.mem = w.mem ∧
        t.reads = ⟨List.replicate n 0xFF, false, false⟩ :: w.reads ∧
        (vf < w.tenants.length → (t.tenant vf).apererr = min (2 ^ 32 - 1) ((w.tenant vf).apererr + 1) ∨ 2 ^ 32 - 1 < (w.tenant vf).apererr)))) ∧
  (∀ off bs, gone (fun k => .apertureWrite k off bs) 16 ∧ shut (fun k => .apertureWrite k off bs) ∧ ∀ vf s, opens s vf →
    (¬ (1 ≤ bs.length ∧ off + bs.length ≤ 2 ^ 34) → exec (.apertureWrite vf off bs) s = .next s) ∧
    (1 ≤ bs.length → off + bs.length ≤ 2 ^ 34 →
      let va := (s.tenant vf).aperbase.toNat + off
      let spans := aperSpans va bs.length
      let w := walks s vf spans
      (w.aperOk vf .store spans = true → exec (.apertureWrite vf off bs) s = .next (runAll (fun (s : State) (x : Nat × Nat) =>
        (if x.1 = va ∨ x.1 % 128 = 0 then s.destCount vf x.1 .store else s).destStore vf (x.1, (bs.drop (x.1 - va)).take x.2, false))
          spans w)) ∧
      (w.aperOk vf .store spans = false → ∃ t, exec (.apertureWrite vf off bs) s = .next t ∧ t.mem = w.mem ∧ t.host = w.host ∧
        (vf < w.tenants.length → (t.tenant vf).apererr = min (2 ^ 32 - 1) ((w.tenant vf).apererr + 1) ∨ 2 ^ 32 - 1 < (w.tenant vf).apererr))))

/-- R37 to R44, R49, R50, R53, R54, R65, R71: packets that arrive, their acknowledgements, resends and holds. A port that the
part has not faults (assumption 8), a port that is down takes nothing in, and a packet in the wrong form is discarded and counted. A
request performs once: its endpoint admits it or refuses it, a page that is not valid holds it, and an acknowledgement by SEQ ends it. -/
def Obligations.ArrivingPackets : Prop :=
  let shape := fun (mk : Nat → Packet → Instr) (kind : BitVec 8) (cls : BitVec 2) => ∀ port p s,
    (16 ≤ port → exec (mk port p) s = .fault .noSuchAgent) ∧
    (port < 16 → s.takesIn port p = false → exec (mk port p) s = .next s) ∧
    (port < 16 → s.takesIn port p = true → (p.kind ≠ kind ∨ p.cls ≠ cls ∨ packetOk p = false) →
      exec (mk port p) s = .next (s.modPort port (fun x => { x with proterr := if x.proterr < 255 then x.proterr + 1 else x.proterr })))
  let once := fun (mk : Nat → Packet → Instr) (kind : BitVec 8) => shape mk kind 2 ∧ ∀ port p s, Arrives s port p kind 2 →
    packetKey p ∈ s.fabric.seen → exec (mk port p) s = .next ((s.took p).answer 0x40 p 1)
  let waits := fun (mk : Nat → Packet → Instr) (kind : BitVec 8) => ∀ port p s, Arrives s port p kind 2 →
    let x := s.took p
    (packetKey p ∉ x.fabric.seen → (∃ h ∈ x.fabric.held, packetKey h.packet = packetKey p ∧ h.packet.kind = p.kind) →
      exec (mk port p) s = .next (x.answer 0x40 p 0)) ∧
    (x.fresh p → (∃ k ∈ p.follows, (p.smod, k.1, k.2.1, k.2.2) ∉ x.fabric.seen) → exec (mk port p) s =
      .next { x with fabric := { x.fabric with held := x.fabric.held ++ [⟨p, none⟩] } })
  let held := fun (x : State) (p : Packet) (va : Option Nat) (a : Acc) =>
    let y : State := match va with | some v => x.notPresent p.dten.toNat v (a != Acc.load) | none => x
    ({ y with fabric := { y.fabric with held := y.fabric.held ++ [⟨p, some (x.halfNs + 2000000000)⟩] } } : State).answer 0x40 p 0
  let requests := fun (mk : Nat → Packet → Instr) (kind : BitVec 8) (rd wr : Packet → Bool) (n : Packet → Nat) (a : Packet → Acc)
      (kinds : List Nat) (done : State → Packet → State) => once mk kind ∧ waits mk kind ∧ ∀ port p s, Arrives s port p kind 2 → (s.took p).fresh p →
    (s.took p).gathered p = true →
    let x := (s.took p).walkedFor p
    let at_ := x.regionOk p.dten.toNat p.addr.toNat (n p) (a p) kinds
    (x.peerOk p (rd p) (wr p) = false → exec (mk port p) s = .next (x.refuse p 3)) ∧
    (x.peerOk p (rd p) (wr p) = true →
      (∀ va, at_ = .hold va → exec (mk port p) s = .next (held x p va (a p))) ∧
      (∀ st, at_ = .refuse st → exec (mk port p) s = .next (x.refuse p st)) ∧
      (at_ = .ok → exec (mk port p) s = .next (done x p)))
  (∀ port s, exec (.flitLinkCheckFailure port) s = if 16 ≤ port then .fault .noSuchAgent else
    .next (s.modPort port (fun x => { x with crcerr := if x.crcerr < 255 then x.crcerr + 1 else x.crcerr }))) ∧
  (∀ p, packetOk p = true ↔ p.rsv = Reserved.zero ∧ p.sigkind.toNat ≤ 3 ∧ (p.kind = 0x20 → p.opnd2.toNat < 2 ^ 14) ∧
    p.payload.length ≤ 4096) ∧
  (∀ p, p.payload.length ≤ 4096 → packetOf (packetHeader p) p.payload p.marks p.follows p.port = some p) ∧
  (∀ (s : State) p, s.gathered p = true ↔ ∀ k ∈ p.follows, (p.smod, k.1, k.2.1, k.2.2) ∈ s.fabric.seen) ∧
  (∀ (s : State) p, let a := (s.acknowledge p).fabric
    a.seen.contains (packetKey p) = true ∧ (s.acknowledge p).mem = s.mem ∧ ∃ q, a.out = s.fabric.out ++ [q] ∧ q.kind = 0x40 ∧
      q.dmod = p.smod ∧ q.sten = p.dten ∧ q.dten = p.sten ∧ q.seq = p.seq) ∧
  (∀ (s : State) p n, n < 256 → (s.refuse p n).mem = s.mem ∧ (s.refuse p n).fabric.seen = s.fabric.seen ∧
    ∃ q, (s.refuse p n).fabric.out = s.fabric.out ++ [q] ∧ q.kind = 0x41 ∧ q.dmod = p.smod ∧ q.seq = p.seq ∧ q.opnd.toNat = n) ∧
  (∀ (s : State) p rd wr, s.peerOk p rd wr = true ↔ ∃ e ∈ (s.tenant p.dten.toNat).peers, e.getLsbD 0 = true ∧
    (rd = true → e.getLsbD 1 = true) ∧ (wr = true → e.getLsbD 2 = true) ∧ e.extractLsb' 4 4 = p.sten ∧
    e.extractLsb' 16 11 ≤ p.smod ∧ p.smod ≤ e.extractLsb' 32 11) ∧
  requests .writePacket 0x01 (fun _ => false) (fun _ => true) (fun p => p.payload.length) (fun _ => .store) [0, 1, 2]
    (fun x p => (x.destWrite p).acknowledge p) ∧
  requests .writeWithSignalPacket 0x02 (fun _ => false) (fun _ => true) (fun p => p.payload.length) (fun _ => .store) [0, 1, 2]
    (fun x p => (x.destWrite p).performSignal p) ∧
  (∀ port p s, port < 16 → s.takesIn port p = true → 3 < p.sigkind.toNat → exec (.writeWithSignalPacket port p) s =
    .next (s.modPort port (fun x => { x with proterr := if x.proterr < 255 then x.proterr + 1 else x.proterr }))) ∧
  (∀ (s : State) p, let va := p.opnd2.toNat % 2 ^ 54
    let t := p.dten.toNat
    (p.sigkind = 0 → s.performSignal p = s.acknowledge p) ∧
    (p.sigkind = 1 → s.regionOk t va 8 .store [0, 1, 2] = .ok →
      s.performSignal p = ((s.destCount t va .store).destStore t (va, toBytes 8 p.opnd.toNat, false)).acknowledge p) ∧
    (p.sigkind = 2 → s.regionOk t va 8 .store [0, 2] = .ok → s.performSignal p = ((s.destCount t va .store).destStore t
      (va, toBytes 8 (BitVec.ofNat 64 (ofBytes (s.destRead t va 8).2.1) + p.opnd).toNat, false)).acknowledge p) ∧
    (∀ u, p.sigkind = 3 → s.decrement t p.signode.toNat false nodeFuel = (u, true) → s.performSignal p = u.acknowledge p) ∧
    (∀ u, p.sigkind = 3 → s.decrement t p.signode.toNat false nodeFuel = (u, false) →
      s.performSignal p = (u.modTenant t (fun x => { x with sigref := satInc x.sigref })).refuse p 6)) ∧
  requests .readRequestPacket 0x03 (fun _ => true) (fun _ => false) (fun p => p.opnd.toNat % 2 ^ 13) (fun _ => .load) [0, 1, 2]
    (fun x p =>
      let n := p.opnd.toNat % 2 ^ 13
      let r := x.destReadAll p.dten.toNat 0 (granuleSpans p.addr.toNat n n)
      (r.1.acknowledge p).send none .response { Packet.to 0x04 2 p.smod p.dten p.sten p.addr.toNat with
        payload := r.2.1, marks := r.2.2, opnd2 := p.seq.zeroExtend 64 }) ∧
  (once .atomicRequestPacket 0x05 ∧ waits .atomicRequestPacket 0x05 ∧ ∀ port p s, Arrives s port p 0x05 2 → (s.took p).fresh p →
    (s.took p).gathered p = true →
    let x := (s.took p).walkedFor p
    let t := p.dten.toNat
    let a := p.addr.toNat
    let n := tySize (tyOfSub (atomicSub p))
    let ret := !p.signode.getLsbD 8
    let acc := if ret then Acc.atom else .red
    let y := x.destCount t a acc
    (x.peerOk p ret true = false → exec (.atomicRequestPacket port p) s = .next (x.refuse p 3)) ∧
    (∀ st, x.peerOk p ret true = true → x.regionOk t a n acc [0, 2] = .refuse st →
      exec (.atomicRequestPacket port p) s = .next (x.refuse p st)) ∧
    (∀ va, x.peerOk p ret true = true → x.regionOk t a n acc [0, 2] = .hold va →
      exec (.atomicRequestPacket port p) s = .next (held x p va acc)) ∧
    (∀ e x1 bs, x.peerOk p ret true = true → x.regionOk t a n acc [0, 2] = .ok → y.walkFor t a acc = .ok e → e.tier ≤ 1 →
      y.homeRead (.tenant_ t a) (e.pa a) n = (x1, bs, true) → exec (.atomicRequestPacket port p) s = .next (x1.refuse p 8)) ∧
    (∀ e x1 bs v, x.peerOk p ret true = true → x.regionOk t a n acc [0, 2] = .ok → y.walkFor t a acc = .ok e → e.tier ≤ 1 →
      y.homeRead (.tenant_ t a) (e.pa a) n = (x1, bs, false) → x1.walkFor t a .red = .ok e → atomicOf p (ofBytes bs) = some v →
      ∃ u, exec (.atomicRequestPacket port p) s = .next u ∧
        u.mem = (x1.homeStore (e.pa a) (toBytes n v) false []).mem ∧
        u.fabric.seen.contains (packetKey p) = true ∧
        (ret = true → ∃ q, u.fabric.out.getLast? = some q ∧ q.kind = 0x06 ∧ q.dmod = p.smod ∧
          q.opnd = BitVec.ofNat 64 (ofBytes bs) ∧ q.opnd2 = p.seq.zeroExtend 64))) ∧
  (shape .flushMarkerPacket 0x10 2 ∧ ∀ port p s, Arrives s port p 0x10 2 →
    let x := s.took p
    let ahead := ∃ h ∈ x.fabric.held, h.packet.smod = p.smod ∧ h.packet.path = p.path ∧ h.packet.kind ≠ 0x10 ∧
      (p.sten, p.dten, p.seq) ∉ h.packet.follows
    (packetKey p ∈ x.fabric.seen → exec (.flushMarkerPacket port p) s = .next (x.answer 0x11 p 1)) ∧
    (x.fresh p → ahead → exec (.flushMarkerPacket port p) s =
      .next { x with fabric := { x.fabric with held := x.fabric.held ++ [⟨p, none⟩] } }) ∧
    (x.fresh p → ¬ ahead → exec (.flushMarkerPacket port p) s = .next ((x.delivered p).answer 0x11 p 1).performFollowers)) ∧
  (∀ s : State, (∀ h ∈ s.fabric.held, h.deadline = none → h.packet.kind ≠ 0x10 → s.gathered h.packet = false) →
    s.performFollowers = s) ∧
  (shape .markerAckPacket 0x11 1 ∧ ∀ port p s, Arrives s port p 0x11 1 →
    let x := s.took p
    ∃ t, exec (.markerAckPacket port p) s = .next t ∧ t.mem = s.mem ∧
      t.fabric.markers = x.fabric.markers.filter (fun m => !(m.dmod == p.smod && m.sten == p.dten && m.dten == p.sten && m.seq == p.seq)) ∧
      ∀ u, x.unacked? p p.seq = some u → if u.packet.kind = 0x10 then t.unacked? p p.seq = none else t.fabric.unacked = x.fabric.unacked) ∧
  (shape .deliveryAckPacket 0x40 1 ∧ ∀ port p s, Arrives s port p 0x40 1 → p.opnd.toNat / 2 ^ 8 % 2 ^ 8 = 0 →
    let x := s.took p
    let held := p.opnd.toNat % 2 ^ 8 = 0
    (x.unacked? p p.seq = none → exec (.deliveryAckPacket port p) s = .next x) ∧
    ∀ u, x.unacked? p p.seq = some u →
      (u.acked = true → exec (.deliveryAckPacket port p) s = .next x) ∧
      (u.acked = false → held → ∃ t, exec (.deliveryAckPacket port p) s = .next t ∧ t.mem = s.mem ∧
        t.unacked? p p.seq = some { u with held := true, sends := 1, deadline := x.halfNs + 2000000000 + 100000 }) ∧
      (u.acked = false → ¬ held → u.responds = true → ∃ t, exec (.deliveryAckPacket port p) s = .next t ∧
        t.unacked? p p.seq = some { u with acked := true } ∧ t.mem = s.mem) ∧
      (u.acked = false → ¬ held → u.responds = false → ∃ t, exec (.deliveryAckPacket port p) s = .next t ∧ t.unacked? p p.seq = none ∧
        ((∃ o, u.origin = .store o) ∨ (∃ id, u.origin = .command id) → t.mem = s.mem) ∧ ∀ id k, u.origin = .command id → x.cmd? id = some k → t.cmd? id = some { k with waiting := k.waiting - 1 })) ∧
  (let told := fun (mk : Nat → Packet → Instr) (kind : BitVec 8) => ∀ port p s c r, Arrives s port p kind 1 →
      let x := s.took p
      let tag := BitVec.ofNat 16 (p.addr.toNat / 256)
      let paired := p.opnd.getLsbD 16
      let status := p.opnd.toNat % 2 ^ 8
      let sub := p.opnd.toNat / 2 ^ 8 % 2 ^ 8
      x.commFor p = some c → c.rankOf p = some r →
        (sub = 1 → x.listens c.id tag paired r = true → exec (mk port p) s =
          .next { x with coll := { x.coll with notes := x.coll.notes ++ [⟨c.id, tag, r, paired, status⟩] } }) ∧
        (sub = 1 → x.listens c.id tag paired r = false → exec (mk port p) s = .next x) ∧
        (sub = 2 → exec (mk port p) s = .next (x.failComm c.id false))
  told .deliveryAckPacket 0x40 ∧ told .deliveryRefusalPacket 0x41) ∧
  (shape .deliveryRefusalPacket 0x41 1 ∧ ∀ port p s, Arrives s port p 0x41 1 → p.opnd.toNat / 2 ^ 8 % 2 ^ 8 = 0 →
    let x := s.took p
    ∀ u, x.unacked? p p.seq = some u → u.packet.addr = p.addr → ∃ t, exec (.deliveryRefusalPacket port p) s = .next t ∧
      (u.origin = .response → t.unacked? p p.seq = none ∧ t.mem = s.mem) ∧
      (∀ o req, u.origin = .load o req → t = (x.dropUnacked u).failLoads req u.packet.addr.toNat (p.opnd.toNat % 2 ^ 8)) ∧
      (∀ o b th, u.origin = .store [o] → x.ownerBlock o = some b → x.thread? (b.idOf o.tid.tid) = some th → th.exited = false →
        th.trapNext = none → ∃ y, t.thread? (b.idOf o.tid.tid) = some y ∧
          y.trapNext = some ⟨0x11, u.packet.addr.toNat, p.opnd.toNat % 2 ^ 8, 0, false, none⟩) ∧
      (∀ id k, u.origin = .command id → x.cmd? id = some k → k.fail = none →
        t.cmd? id = some { k with waiting := k.waiting - 1, fail := some ⟨0x11, u.packet.addr.toNat, p.opnd.toNat % 2 ^ 8⟩ })) ∧
  (let answers := fun (mk : Nat → Packet → Instr) (kind : BitVec 8) (take : State → Nat → Packet → State) =>
      once mk kind ∧ ∀ port p s, Arrives s port p kind 2 → packetKey p ∉ (s.took p).fabric.seen →
        let x := (s.took p).acknowledge p
        (x.unacked? p (p.opnd2.extractLsb' 0 32) = none → exec (mk port p) s = .next x) ∧
        ∀ u o req, x.unacked? p (p.opnd2.extractLsb' 0 32) = some u → u.responds = true → u.origin = .load o req →
          exec (mk port p) s = .next (take (x.dropUnacked u) req p)
  answers .readResponsePacket 0x04 (fun y req p => y.answerLoad req (fun l off _ =>
    ⟨BitVec.ofNat 64 (loadValue l.ty (ofBytes ((p.payload.drop off).take (tySize l.ty)))),
      (granules off (tySize l.ty)).any p.marks.contains⟩)) ∧
  answers .atomicResponsePacket 0x06 (fun y req p => y.answerAtomic req p.opnd.toNat)) ∧
  (∀ (s : State) req f id th, s.thread? id = some th →
    ∃ y, (s.answerLoad req f).thread? id = some y ∧ y.regs = th.regs ∧ y.pc = th.pc ∧ y.loads.length = th.loads.length ∧
      ∀ (i : Nat) l, th.loads[i]? = some l →
        (∀ off before, l.await = some (.answer req off before) → y.loads[i]? = some { l with val := f l off before, await := none }) ∧
        ((∀ off before, l.await ≠ some (.answer req off before)) → y.loads[i]? = some l)) ∧
  (∀ dmod sten dten seq s, let named := fun (u : Unacked) => u.packet.dmod == dmod && u.packet.sten == sten && u.packet.dten == dten && u.packet.seq == seq
    let r := exec (.packetResendTimeout dmod sten dten seq) s
    (s.fabric.unacked.find? named = none → r = .next s) ∧ ∀ u, s.fabric.unacked.find? named = some u →
      ((u.acked = true ∨ s.halfNs < u.deadline) → r = .next s) ∧
      (u.acked = false → u.deadline ≤ s.halfNs → u.sends < 8 → ∃ t v, r = .next t ∧ t.fabric.unacked.find? named = some v ∧
        v.sends = u.sends + 1 ∧ v.deadline = s.halfNs + 100000 ∧ v.packet = { u.packet with path := s.otherPath u.packet, port := s.portOf sten.toNat dmod (s.otherPath u.packet) } ∧
        t.fabric.out = s.fabric.out ++ [v.packet] ∧ t.mem = s.mem) ∧
      (u.acked = false → u.deadline ≤ s.halfNs → 8 ≤ u.sends → ∃ t, r = .next t ∧
        (∀ id k, u.origin = .command id → s.cmd? id = some k → k.fail = none →
          t.cmd? id = some { k with waiting := k.waiting - 1, fail := some ⟨0x11, u.packet.addr.toNat, 2⟩ }) ∧
        (∀ c ∈ s.coll.comms, (∃ m ∈ c.ranks, m.1 = dmod.toNat) → ∀ x, t.comm? c.id = some x → x.st ≠ .up) ∧
        (∀ core, u.origin = .marker core → t.fabric.markers = s.fabric.markers.filter (fun m =>
          !(m.dmod == u.packet.dmod && m.sten == u.packet.sten && m.dten == u.packet.dten && m.seq == u.packet.seq))))) ∧
  (∀ smod sten dten seq s, let named := fun (h : HeldPacket) => packetKey h.packet == (smod, sten, dten, seq) && h.packet.kind != 0x10
    let r := exec (.remoteHoldTimeout smod sten dten seq) s
    (s.fabric.held.find? named = none → r = .next s) ∧ ∀ h, s.fabric.held.find? named = some h →
      ((h.deadline = none ∨ ∃ d, h.deadline = some d ∧ s.halfNs < d) → r = .next s) ∧
      (∀ d, h.deadline = some d → d ≤ s.halfNs → r = .next ((({ s with fabric := { s.fabric with
        held := s.fabric.held.filter (fun x => x != h) } } : State).refuse h.packet 4).performMarkers))) ∧
  (∀ s : State, (∀ h ∈ s.fabric.held, h.packet.kind = 0x10 → s.aheadOf h.packet = true) → s.performMarkers = s) ∧
  (shape .stepReadyPacket 0x20 1 ∧ ∀ port p s, Arrives s port p 0x20 1 →
    let x := s.took p
    (x.peerOk p true false = false → x.peerOk p false true = false → exec (.stepReadyPacket port p) s =
      .next (x.refuse p (if p.opnd2.toNat % 2 ^ 4 ≤ 3 then 3 + 2 ^ 16 else 3))) ∧
    ∀ c r, (x.peerOk p true false = true ∨ x.peerOk p false true = true) → x.commFor p = some c → c.rankOf p = some r →
      ∃ t, exec (.stepReadyPacket port p) s = .next t ∧ t.mem = s.mem ∧
        ⟨c.id, BitVec.ofNat 16 (p.addr.toNat / 256), r, p.opnd2.toNat % 16, p.opnd2.toNat / 2 ^ 4 % 16, p.opnd2.toNat / 2 ^ 8 % 16,
          p.opnd2.toNat / 2 ^ 12 % 4, p.opnd.toNat / 2 ^ 16 % 2 ^ 32⟩ ∈ t.coll.ready) ∧
  (once .stepDataPacket 0x21 ∧ ∀ port p s, Arrives s port p 0x21 2 → packetKey p ∉ (s.took p).fabric.seen →
    let x := s.took p
    (x.peerOk p false true = false → exec (.stepDataPacket port p) s = .next (x.refuse p 3)) ∧
    ∀ c r, x.peerOk p false true = true → x.commFor p = some c → c.rankOf p = some r →
      let tag := BitVec.ofNat 16 (p.addr.toNat / 256)
      let paired := p.opnd2.getLsbD 55
      (x.listens c.id tag paired r = true →
        ∃ t d, exec (.stepDataPacket port p) s = .next t ∧ t.coll.data = s.coll.data ++ [d] ∧ d.comm = c.id ∧ d.tag = tag ∧ d.rank = r ∧
          d.paired = paired ∧ d.round = p.opnd2.toNat / 2 ^ 40 % 2 ^ 15 ∧ d.first = p.opnd2.toNat % 2 ^ 40 ∧ t.mem = s.mem ∧
          t.fabric.seen.contains (packetKey p) = true) ∧
      (x.listens c.id tag paired r = false → exec (.stepDataPacket port p) s = .next (x.acknowledge p))) ∧
  (shape .barrierArrivalPacket 0x30 0 ∧ ∀ port p s, Arrives s port p 0x30 0 →
    let x := s.took p
    ∀ c r, x.commFor p = some c → c.rankOf p = some r → r ∈ c.below → c.st ≠ .failed → exec (.barrierArrivalPacket port p) s =
      .next ((x.modComm c.id (fun c => { c with arrived := addNat c.arrived r })).barrierGo c.id)) ∧
  (shape .barrierReleasePacket 0x31 0 ∧ ∀ port p s, Arrives s port p 0x31 0 →
    let x := s.took p
    ∀ c, x.commFor p = some c → ((c.joined = true ∧ c.passedUp = true ∧ c.rankOf p = some c.above) →
      exec (.barrierReleasePacket port p) s = .next (x.barrierRelease c)) ∧
      (¬ (c.joined = true ∧ c.passedUp = true ∧ c.rankOf p = some c.above) → exec (.barrierReleasePacket port p) s = .next x))

/-- R58, R60 to R72, R429: the collective engine and the pod barrier. A step that has been read is checked and posted, matched
with its partners' steps, its inputs read, its rounds exchanged, its results written; it ends when every partner has written.
How its packets name it is the model's choice (assumption 24). -/
def Obligations.CollectiveSteps : Prop :=
  let ends := fun (i : Instr) (s : State) (n status : Nat) => ∃ t k, exec i s = .next t ∧ t.chain? n = some k ∧ k.phase = .ended ∧
    k.status = status ∧ t.mem = s.mem
  let goes := fun (i : Instr) (s : State) (n : Nat) (h : Chain) (p : Chain → Prop) => ∃ t k, exec i s = .next t ∧
    t.chain? n = some k ∧ k.words = h.words ∧ k.id = h.id ∧ t.mem = s.mem ∧ p k
  let read := fun (mk : Nat → Instr) (kind : Nat) => ∀ n (s : State),
    ((∀ h, s.chain? n = some h → h.kind ≠ kind) → exec (mk n) s = .next s) ∧
    ∀ h, s.chain? n = some h → h.kind = kind → h.phase = .read →
      let st := s.stepCheck h (s.ownerAlloc h.owner)
      (st ≠ 0 → ends (mk n) s n st) ∧
      ∀ c, st = 0 → s.comm? h.comm = some c →
        (kind ≠ 7 → s.postedTwice h = true → ends (mk n) s n 10) ∧
        (kind ≠ 7 → s.postedTwice h = false → (∃ r ∈ h.partners c, s.reachable h.tenant (BitVec.ofNat 11 (c.place r).1) = false) →
          exec (mk n) s = .next (s.failComm c.id true)) ∧
        (kind = 7 ∨ (s.postedTwice h = false ∧ ∀ r ∈ h.partners c, s.reachable h.tenant (BitVec.ofNat 11 (c.place r).1) = true) → goes (mk n) s n h (fun k => k.phase = .posted ∧
          k.deadline = (if c.tmo = 0 ∨ kind = 7 then none else some (s.halfNs + c.tmo * 2000000))))
  let step := fun (mk : Nat → Instr) (kind : Nat) => read mk kind ∧ ∀ n (s : State) h c,
    (Stands s kind n .posted h c →
      (s.readyAll h c = none → exec (mk n) s = .next s) ∧
      ∀ rs, s.readyAll h c = some rs →
        let worst := (rs.map (fun r => r.compare h)).foldl max 0
        (worst ≠ 0 → ends (mk n) s n worst) ∧
        (worst = 0 → goes (mk n) s n h (fun k => k.phase = .matched ∧ k.deadline = none))) ∧
    (Stands s kind n .matched h c →
      let z := elemSize h.dtype
      let m := h.sendElems c.size
      (∀ s1 bs, s.regionRead h (c.winBase + h.sendOff) (m * z) = (s1, .ok bs false) → s1.coll = s.coll → ∃ t k,
        exec (mk n) s = .next t ∧ t.chain? n = some k ∧ k.phase = .moving ∧ k.count = m ∧ k.lo = 0 ∧ t.mem = s1.mem ∧
        k.acc = (elemsOf z m bs).map (fun v => (BitVec.ofNat 128 (h.widen v), false))) ∧
      (∀ s1 st, s.regionRead h (c.winBase + h.sendOff) (m * z) = (s1, .fail st) →
        exec (mk n) s = .next (s1.stepFails h c st)) ∧
      (∀ s1, s.regionRead h (c.winBase + h.sendOff) (m * z) = (s1, .wait) →
        exec (mk n) s = .next (s1.awaitPage h c)) ∧
      (∀ s1 e ls, s.regionRead h (c.winBase + h.sendOff) (m * z) = (s1, .ask e ls) → exec (mk n) s = .next (s1.askChain h e ls)) ∧
      (∀ s1, s.regionRead h (c.winBase + h.sendOff) (m * z) = (s1, .owed) → exec (mk n) s = .next s1)) ∧
    (Stands s kind n .moving h c → h.round < h.rounds c →
      (h.sent = false → goes (mk n) s n h (fun k => k.sent = true ∧ k.phase = .moving ∧ k.round = h.round)) ∧
      (h.sent = true → s.receivedAll h (h.swaps c) = none → exec (mk n) s = .next s) ∧
      (∀ got, h.sent = true → s.receivedAll h (h.swaps c) = some got → (h.absorb c (contractOf c.agreed).vsub got).id = h.id →
        ∃ t, exec (mk n) s = .next t ∧ t.mem = s.mem ∧ t.chain? n = some (h.absorb c (contractOf c.agreed).vsub got))) ∧
    (Stands s kind n .moving h c → h.rounds c ≤ h.round →
      (h.recvElems c.size = 0 → goes (mk n) s n h (fun k => k.phase = .written)) ∧
      (∀ s1 h1, kind ≠ 0 → h.recvElems c.size ≠ 0 →
        s.regionWrite h (c.winBase + h.recvOff) (h.acc.flatMap (fun v =>
          toBytes (elemSize h.dtype) (h.narrow (contractOf c.agreed).vsub v.1.toNat))) = (s1, .ok [] false) → s1.chain? n = some h1 →
        ∃ t k, exec (mk n) s = .next t ∧ t.chain? n = some k ∧ k.phase = (if h1.owed = 0 then .written else .writing) ∧
          k.words = h1.words ∧ t.mem = s1.mem)) ∧
    (Stands s kind n .writing h c →
      (h.owed = 0 → goes (mk n) s n h (fun k => k.phase = .written)) ∧ (h.owed ≠ 0 → exec (mk n) s = .next s)) ∧
    (Stands s kind n .written h c →
      (s.allWritten h c = true → ends (mk n) s n 1) ∧ (s.allWritten h c = false → exec (mk n) s = .next s))
  step .exchr 0 ∧ step .exchc 1 ∧ step .send 2 ∧ step .recv 3 ∧ step .rscat 4 ∧ step .allred 5 ∧ step .agath 6 ∧
  (∀ (r : Ready) (h : Chain), (h.paired = true → r.kind ≤ 3) → (r.compare h = 0 ↔
    h.elems = r.count ∧ h.dtype = r.dtype ∧ h.accCode = r.acc ∧ if h.paired = true then
      (h.kind = 0 ∧ r.kind = 0 ∧ h.opn = r.opn) ∨ (h.kind = 1 ∧ r.kind = 1) ∨ (h.kind = 2 ∧ r.kind = 3) ∨ (h.kind = 3 ∧ r.kind = 2)
      else h.kind = r.kind ∧ h.opn = r.opn) ∧
    (r.compare h = 8 ↔ h.paired = true ∧ ((h.kind = 2 ∧ r.kind ≠ 3) ∨ (h.kind ≠ 2 ∧ r.kind = 3) ∨ (h.kind = 3 ∧ r.kind ≠ 2) ∨
      (h.kind ≠ 3 ∧ r.kind = 2)))) ∧
  (∀ (h : Chain) flush x y, h.accFmt = none → h.dtype ≠ 8 → x.1.toNat < 2 ^ (8 * elemSize h.dtype) →
    y.1.toNat < 2 ^ (8 * elemSize h.dtype) →
    let w := 8 * elemSize h.dtype
    let r := (h.combine flush x y).1.toNat
    (h.opn = 0 → r = (x.1.toNat + y.1.toNat) % 2 ^ w) ∧ (h.opn = 3 → r = x.1.toNat &&& y.1.toNat) ∧
    (h.opn = 4 → r = x.1.toNat ||| y.1.toNat) ∧ (h.opn = 5 → r = x.1.toNat ^^^ y.1.toNat) ∧
    (h.opn = 1 → h.dtype = 5 ∨ h.dtype = 7 → r = min x.1.toNat y.1.toNat) ∧
    (h.opn = 2 → h.dtype = 5 ∨ h.dtype = 7 → r = max x.1.toNat y.1.toNat)) ∧
  (∀ (h : Chain) (flush : Bool) x y f, h.accFmt = some f → h.opn = 0 → x.1.toNat < 2 ^ 64 → y.1.toNat < 2 ^ 64 →
    (h.combine flush x y).1 = BitVec.ofNat 128 (f.addR .rne false (f.read flush x.1.toNat) (f.read flush y.1.toNat)).1) ∧
  (∀ (h : Chain) c flush got, h.paired = false → h.kind ≠ 6 → c.mode ≠ 0 → (h.absorb c flush got).acc =
    (((List.range c.size).map (h.contribution c got)).drop 1).foldl (fun acc x => h.combineAll flush true acc x)
      (((List.range c.size).map (h.contribution c got)).headD [])) ∧
  (read .barrier 7 ∧ ∀ n (s : State) h c, s.chain? n = some h → h.kind = 7 → h.phase = .posted → s.comm? h.comm = some c →
    (h.released = false → (∀ b, s.ownerBlock h.owner = some b → s.sideLogClear b = true) → s.fabricSent h.core = true →
      exec (.barrier n) s = .next (((s.writeBackAll h.core).sendMarkers h.core).modChain n (fun x => { x with released := true }))) ∧
    (h.released = false → s.fabricSent h.core = false → exec (.barrier n) s = .next s) ∧
    (h.released = true → (s.fabricClear h.core = false ∨ c.joined = true) → exec (.barrier n) s = .next s) ∧
    (h.released = true → s.fabricClear h.core = true → c.joined = false → c.passedUp = false →
      let s1 := (s.modChain n (fun x => { x with phase := .moving })).modComm c.id (fun c => { c with joined := true })
      ((∃ r ∈ c.below, r ∉ c.arrived) → exec (.barrier n) s = .next s1) ∧
      ((∀ r ∈ c.below, r ∈ c.arrived) → c.rank = 0 → exec (.barrier n) s = .next (s1.barrierRelease { c with joined := true })) ∧
      ((∀ r ∈ c.below, r ∈ c.arrived) → c.rank ≠ 0 → ∃ t q, exec (.barrier n) s = .next t ∧ t.mem = s.mem ∧ t.scratch = s.scratch ∧
        t.fabric.out = s.fabric.out ++ [q] ∧ q.kind = 0x30 ∧ q.cls = 0 ∧ q.dmod = BitVec.ofNat 11 (c.place c.above).1 ∧
        q.dten = BitVec.ofNat 4 (c.place c.above).2))) ∧
  (∀ (c : Comm) r, r ∈ c.below ↔ 16 * c.rank < r ∧ r ≤ 16 * c.rank + 16 ∧ r < c.size) ∧
  (∀ n (s : State),
    (s.chain? n = none → exec (.collStepComplete n) s = .next s) ∧
    ∀ h, s.chain? n = some h →
      let s1 := s.pageWrite (.chainWrite n) h.page (h.addr.toNat + 56) (toBytes 8 h.status)
      let s3 := fun (s2 : State) => match h.node with
        | some x => if h.nodeOk = true then s2.signal h.tenant x (decide (h.status ≠ 1)) else s2
        | none => s2
      let after := fun (s2 : State) => exec (.collStepComplete n) s =
        .next (if h.status = 1 ∧ h.next ≠ 0 then (s3 s2).readStep h h.next else (s3 s2).dropChain n)
      (h.phase = .ended → h.page.tier ≠ 2 → h.owed = 0 → (h.status ≠ 1 ∨ h.barOff = none) → after s1) ∧
      (h.phase = .ended → h.page.tier ≠ 2 → h.owed ≠ 0 → exec (.collStepComplete n) s = .next s) ∧
      (h.phase = .ended → h.page.tier = 2 → h.sent = false → s.reachable h.tenant (tierPacket h.page 1 (h.addr.toNat + 56)).dmod = true →
        ∃ t k q, exec (.collStepComplete n) s = .next t ∧ t.chain? n = some k ∧ k.sent = true ∧ k.owed = h.owed + 1 ∧ k.phase = .ended ∧
          t.fabric.out = s.fabric.out ++ [q] ∧ q.kind = 1 ∧ q.payload = toBytes 8 h.status) ∧
      (∀ off c, h.phase = .ended → h.page.tier ≠ 2 → h.owed = 0 → h.status = 1 → h.barOff = some off → s.comm? h.comm = some c →
        after (s1.stepAdds h off (h.bytes c.size))) ∧
      (h.phase = .reading → exec (.collStepComplete n) s = .next (s.readStep h h.addr.toNat)) ∧
      (h.phase = .read → 8 ≤ h.kind → ends (.collStepComplete n) s n 8) ∧
      (h.phase = .posted ∨ h.phase = .matched ∨ h.phase = .moving ∨ h.phase = .writing ∨ h.phase = .written →
        exec (.collStepComplete n) s = .next s)) ∧
  (∀ (s : State) n h va e s1 x lo hi p q, s.chain? n = some h → s.collPage h.tenant va .load = .ok e →
    (s.readSpans h.tenant h.remote [(va, 32)]).2 = .ok lo p → (s.readSpans h.tenant h.remote [(va + 32, 32)]).2 = .ok hi q →
    s.readSpans h.tenant h.remote [(va, 64)] = (s1, x) → s1.coll = s.coll → p = false → q = false →
    ∃ k, (s.readStep h va).chain? n = some k ∧
      k.phase = .read ∧ k.words = toDwords 8 (lo ++ hi) ∧ k.status = 0 ∧ k.addr = BitVec.ofNat 54 va) ∧
  (∀ n (s : State),
    ((∀ h, s.chain? n = some h → h.phase ≠ .reading ∨ h.deadline = none ∨ ∃ d, h.deadline = some d ∧ s.halfNs < d) →
      exec (.chainStepReadTimeout n) s = .next s) ∧
    ∀ h d, s.chain? n = some h → h.phase = .reading → h.deadline = some d → d ≤ s.halfNs →
      exec (.chainStepReadTimeout n) s = .next ((s.tenantRecord h.tenant {
        kind := 0x24, sev := 2, src := 10, core := h.core, vaddr := h.addr.toNat, synd := 8, gen := h.owner.gen.toNat,
        node := h.owner.node, block := h.owner.block }).dropChain n)) ∧
  (∀ n (s : State),
    ((∀ h, s.chain? n = some h → h.phase ≠ .posted ∨ h.deadline = none ∨ ∃ d, h.deadline = some d ∧ s.halfNs < d) →
      exec (.stepMatchTimeout n) s = .next s) ∧
    ∀ h d c, s.chain? n = some h → h.phase = .posted → h.deadline = some d → d ≤ s.halfNs → s.comm? h.comm = some c →
      ends (.stepMatchTimeout n) s n 2) ∧
  (∀ (comm : BitVec 8) (others : List SetupReport) (s : State),
    let r := exec (.commSetupComplete comm others) s
    let agree := fun (x y : SetupReport) => x.size = y.size ∧ x.mode = y.mode ∧ x.ceil = y.ceil ∧ x.ranks = y.ranks
    (s.comm? comm.toNat = none → r = .next s) ∧
    ∀ c, s.comm? comm.toNat = some c →
      let all := c.report :: others
      let differ := ∃ x ∈ all, ∃ rs, namedBy all x = some rs ∧ ∃ y ∈ rs, ∃ z ∈ rs, ¬ agree y z
      (c.st ≠ .setup → r = .next s) ∧
      (c.st = .setup → (∀ x ∈ all, namedBy all x = none) → r = .next s) ∧
      (c.st = .setup → differ → r = .next (s.endSetup c 0 5)) ∧
      (c.st = .setup → ¬ differ → namedBy all c.report = none → r = .next s) ∧
      (∀ rs, c.st = .setup → ¬ differ → namedBy all c.report = some rs →
        let carried := fun (m : Nat) => (∃ k ∈ catalogue, k.number = m ∧ k.speed ≠ 15) ∧ ∀ x ∈ rs, x.rank ≠ c.rank → m ∈ x.contracts
        (∀ m, carried m → m ≤ c.ceil → (∀ k, carried k → k ≤ c.ceil → k ≤ m) → r = .next (s.endSetup c m 1)) ∧
        ((∀ m, carried m → c.ceil < m) → r = .next (s.endSetup c 0 9)))) ∧
  (∀ (all : List SetupReport) x, (namedBy all x = none ↔ ∃ m ∈ x.ranks, ∀ y ∈ all, reportPlace y ≠ m) ∧
    ∀ rs, namedBy all x = some rs → rs.map reportPlace = x.ranks ∧ ∀ y ∈ rs, y ∈ all) ∧
  (∀ (e : SetupExpiry) (s : State),
    ((∀ c, s.comm? e.comm.toNat = some c → c.st ≠ .setup ∨ (e.elsewhere = false ∧
        (c.deadline = none ∨ ∃ d, c.deadline = some d ∧ s.halfNs < d))) → exec (.commSetupTimeout e) s = .next s) ∧
    (∀ c d, s.comm? e.comm.toNat = some c → c.st = .setup → c.deadline = some d → d ≤ s.halfNs →
      exec (.commSetupTimeout e) s = .next (s.endSetup c 0 2)) ∧
    ∀ c, s.comm? e.comm.toNat = some c → c.st = .setup → e.elsewhere = true →
      exec (.commSetupTimeout e) s = .next (s.endSetup c 0 2)) ∧
  (∀ (s : State) c agreed status, s.comm? c.id = some c → c.bar = none → ∃ x, (s.endSetup c agreed status).comm? c.id = some x ∧
    x.agreed = agreed ∧ x.st = (if status = 1 then .up else .failed) ∧
    (s.endSetup c agreed status).mem = (s.pageWrite .response c.page (c.recAddr.toNat + 40) (toBytes 8 (agreed + status * 2 ^ 16))).mem)

/-- R111, R117 to R124, R127, R128, R143 to R146, R156, R173, R174, R323: the events of Fevar's scheduler and of issue. A gang
is bound, started, pre-empted and restored; a block ends; a shed is formed from ready threads of the winner's place; loads,
fetch blocks and spilled granules return. When each takes place is open, so the agenda says it (assumption 1). -/
def Obligations.SchedulingAndIssue : Prop :=
  let none_ := fun (mk : Nat → Instr) => ∀ k s, 192 ≤ k → exec (mk k) s = .fault .noSuchAgent
  (∀ s : State,
    ((s.binding = false ∨ s.nextBind s.allWork = none) → exec .gangBind s = .next s) ∧
    ∀ w p, s.binding = true → s.nextBind s.allWork = some (w, p) →
      (w.restore = true → exec .gangBind s = .next s) ∧
      (w.restore = false → exec .gangBind s = .next (s.bindGang w p)) ∧
      (∀ m core l r, w.restore = false → p = [(m, core)] → (s.node w.node).launch = some l → m.image = none →
        s.roomFor l s.blocks core m = some r → ∃ t b, exec .gangBind s = .next t ∧ t.blocks = s.blocks ++ [b] ∧
          b.core = core ∧ b.ent = r.ent ∧ b.started = false ∧ b.token = some 0 ∧ b.rec_.block = m.block ∧ b.rec_.gen = (s.node w.node).gen ∧
          b.rec_.tenant = (s.node w.node).tenant ∧ b.unif = l.unif ∧ b.rec_.slotBase = r.slotBase ∧ b.rec_.scrBase = r.scrBase ∧
          b.threads = (List.range l.threads).map (fun k => Thread.start k l.entry))) ∧
  (∀ node, (∀ q s, 48 ≤ q → exec (.gangStart q node) s = .fault .noSuchAgent) ∧ ∀ q (s : State), q < 48 → ∃ t,
    exec (.gangStart q node) s = .next t ∧ t.mem = s.mem ∧
    t.blocks = s.blocks.map (fun b => if (s.startable q node).contains b.gang then { b with started := true } else b)) ∧
  (∀ ent lost, none_ (fun k => .gangPreempt k ⟨ent, lost⟩) ∧ ∀ core (s : State), core < 192 →
    (s.block? core ent = none → exec (.gangPreempt core ⟨ent, lost⟩) s = .next s) ∧
    ∀ b, s.block? core ent = some b →
      let bs := s.gangBlocks b.gang
      let s1 : State := { s with blocks := s.blocks.map (fun x => if x.gang == b.gang then { x with saving := true } else x) }
      let may := (∃ x ∈ bs, ¬ (x.killed = true ∨ x.closing = true ∨ s.endable x = true)) ∧ (∀ x ∈ bs, x.killed = false ∧ x.started = true) ∧
        (b.saving = true ∨ s.mustGo b = true)
      (¬ may → exec (.gangPreempt core ⟨ent, lost⟩) s = .next s) ∧
      (may → (∃ x ∈ bs, x.savable = false) → exec (.gangPreempt core ⟨ent, lost⟩) s = .next s1) ∧
      (may → (∀ x ∈ bs, x.savable = true) → exec (.gangPreempt core ⟨ent, lost⟩) s =
        .next (s1.saveGang b.gang (bs.any (fun x => s.inRemap (quadOf x.core))) lost))) ∧
  (∀ node block (s : State),
    ((s.binding = false ∨ s.nextBind s.allWork = none) → exec (.gangRestore node block) s = .next s) ∧
    ∀ w p, s.binding = true → s.nextBind s.allWork = some (w, p) →
      (¬ (w.restore = true ∧ w.node = node ∧ w.first = block) → exec (.gangRestore node block) s = .next s) ∧
      (w.restore = true ∧ w.node = node ∧ w.first = block → exec (.gangRestore node block) s = .next (s.restoreGang w p) ∧
        ∀ l, (s.node node).launch = some l →
          let is := w.members.filterMap (·.image)
          ((∀ i ∈ is, i.format = 1 ∧ i.lanes = 32) → ∀ i ∈ (s.restoreGang w p).images, i.gang ≠ (node, (s.node node).gen, block)) ∧
          (∀ i, is = [i] → i.format ≠ 1 ∨ i.lanes ≠ 32 → s.restoreGang w p = s.refuseImage w i))) ∧
  (∀ ent, none_ (fun k => .blockEnd k ent) ∧ ∀ core (s : State), core < 192 →
    (s.block? core ent = none → exec (.blockEnd core ent) s = .next s) ∧
    ∀ b, s.block? core ent = some b →
      let bs := s.gangBlocks b.gang
      ((∃ x ∈ bs, s.endable x = false) → exec (.blockEnd core ent) s = .next s) ∧
      ((∀ x ∈ bs, s.endable x = true) →
        (b.closing = true → (∃ x ∈ bs, s.fabricClear x.core = false) → exec (.blockEnd core ent) s = .next s) ∧
        (b.closing = true → (∀ x ∈ bs, s.fabricClear x.core = true) →
          let s2 := runAll (fun (s : State) x => s.freeEntry x) bs s
          let n := (bs.filter (fun x => x.verify != .secondary)).length
          exec (.blockEnd core ent) s = .next ((({ s2 with engines := s2.engines.map (fun e => e.drop b.gang) } : State).modNode
            b.rec_.node (fun x => if x.gen == b.rec_.gen then { x with live := x.live - n } else x)).settleNode b.rec_.node)) ∧
        (bs = [b] → b.closing = false → ((s.writeBackAll core).sendMarkers core).fabricClear core = false →
          exec (.blockEnd core ent) s =
            .next (((s.writeBackAll core).sendMarkers core).modBlock core ent (fun y => { y with closing := true }))))) ∧
  (∀ part env, (∀ core s, 192 ≤ core ∨ 16 ≤ part → exec (.issueOpportunity core part env) s = .fault .noSuchAgent) ∧
    ∀ core (s : State), core < 192 → part < 16 →
      let r := exec (.issueOpportunity core part env) s
      let s1 := (s.environment core env).passControl core
      let busy := (lookupNat (0, 0) (s1.core core).busy part).2
      let cs := s1.candidates core part
      ((s1.power.stopped = true ∨ s1.shed.isSome = true ∨ s1.cycle < busy) → r = .next s1) ∧
      (s1.power.stopped = false → s1.shed = none → busy ≤ s1.cycle →
        (heddle cs = [] → r = .next s1) ∧
        ∀ w ws, heddle cs = w :: ws →
          let ids := (w :: ws).map (fun c => c.blk.idOf c.th.tid)
          let s2 := runAll (fun (s : State) f => s.findError ⟨core, part, w.th.pc, ids, env.twinLane⟩ f) env.found (s1.age cs (w :: ws))
          let q := s2.admitAll (ids.filter (fun id => match s2.block? id.core id.ent with | some b => !b.stopped | none => false))
          (q.2 ≠ [] → ∃ t, r = .next t ∧ t.shed = some ⟨core, part, w.th.pc, q.2, env.twinLane⟩) ∧
          (q.2 = [] → ∃ t, r = .next t ∧ t.mem = q.1.mem))) ∧
  (∀ cs : List Cand, (cs = [] → heddle cs = []) ∧ (cs ≠ [] → ∃ w ∈ cs, (∀ c ∈ cs, keyLess w.key c.key = false) ∧
    ∀ m ∈ heddle cs, m ∈ cs ∧ m.th.pc = w.th.pc ∧ m.th.depth = w.th.depth ∧ m.blk.tenant = w.blk.tenant ∧
      ∀ c ∈ cs, c.th.pc = w.th.pc → c.th.depth = w.th.depth → c.blk.tenant = w.blk.tenant → laneOf c.th.tid = laneOf m.th.tid →
        m.blk.slotOf m.th.tid ≤ c.blk.slotOf c.th.tid)) ∧
  (∀ ent tid, none_ (fun k => .gapElapsed k ent tid) ∧ ∀ core (s : State), core < 192 →
    (s.thread? ⟨core, ent, tid⟩ = none → exec (.gapElapsed core ent tid) s = .next s) ∧
    ∀ th, s.thread? ⟨core, ent, tid⟩ = some th → exec (.gapElapsed core ent tid) s =
      .next ((s.pass (th.notBefore - s.cycle)).modThread ⟨core, ent, tid⟩ (fun t => { t with notBefore := 0 }))) ∧
  (∀ (s : State) n, (s.pass n).cycle = s.cycle + n ∧ (s.pass n).mem = s.mem) ∧
  (∀ ent tid, none_ (fun k => .yieldWake k ent tid) ∧ ∀ core (s : State), core < 192 →
    (s.thread? ⟨core, ent, tid⟩ = none → exec (.yieldWake core ent tid) s = .next s) ∧
    ∀ th, s.thread? ⟨core, ent, tid⟩ = some th →
      (th.status = .yield → exec (.yieldWake core ent tid) s = .next (s.passControl core)) ∧
      (th.status ≠ .yield → ∃ n, exec (.yieldWake core ent tid) s =
          .next ((s.pass n).modThread ⟨core, ent, tid⟩ (fun t => { t with yieldLeft := 0 })) ∧ (th.yieldLeft = 0 → n = 0))) ∧
  (∀ ent tid, none_ (fun k => .loadDataReturn k ent tid) ∧ ∀ core (s : State), core < 192 →
    let id : ThreadId := ⟨core, ent, tid⟩
    (s.thread? id = none → exec (.loadDataReturn core ent tid) s = .next s) ∧
    ∀ th, s.thread? id = some th →
      (th.loads = [] → exec (.loadDataReturn core ent tid) s = .next s) ∧
      ∀ l ls, th.loads = l :: ls →
        (∀ req off x, l.await = some (.answer req off x) → exec (.loadDataReturn core ent tid) s = .next s) ∧
        (∀ b, l.await = some .replay → s.block? core ent = some b → s.sideLogClear b = false →
          exec (.loadDataReturn core ent tid) s = .next s) ∧
        (∀ i w, l.await = none → l.reg = some (i, w) → l.uni = none → l.cas = none → l.acq = false → ∃ t y,
          exec (.loadDataReturn core ent tid) s = .next t ∧ t.thread? id = some y ∧ y.loads = ls ∧ t.mem = s.mem ∧
          y.reg i = ⟨l.val.val.extractLsb' 0 32, l.val.poison⟩ ∧
          (w = true → y.reg (i + 1) = ⟨l.val.val.extractLsb' 32 32, l.val.poison⟩) ∧
          (∀ k, k ≠ i → ¬ (w = true ∧ k = i + 1) → y.reg k = th.reg k)) ∧
        (l.await = none → l.reg = none → l.uni = none → l.cas = none → exec (.loadDataReturn core ent tid) s =
          .next (if l.acq then (s.modThread id (fun t => { t with loads := ls })).acquire core
            else s.modThread id (fun t => { t with loads := ls }))) ∧
        (∀ k x b, l.await = none → l.cas = some (k, x) → l.reg = none → l.uni = none → l.acq = false → s.block? core ent = some b →
          ∃ t y, exec (.loadDataReturn core ent tid) s = .next t ∧ t.thread? id = some y ∧ y.loads = ls ∧
          (y.ccs.get k).flags = ⟨l.val.val.getLsbD (tyBits l.ty - 1), decide (l.val.nat = x), false, false⟩ ∧
          (y.ccs.get k).poison = l.val.poison)) ∧
  (∀ ent tid, none_ (fun k => .fetchBlockFill k ent tid) ∧ ∀ core (s : State) b th, core < 192 → s.block? core ent = some b →
    s.thread? ⟨core, ent, tid⟩ = some th →
    let id : ThreadId := ⟨core, ent, tid⟩
    let a := th.pc.toNat / 64 * 64
    ((th.status ≠ .run ∨ (s.ibufFind id b.tenant a).isSome = true) → exec (.fetchBlockFill core ent tid) s = .next s) ∧
    (th.status = .run → s.ibufFind id b.tenant a = none → th.trapNext = none →
      (∀ s1 k, s.reach id b.tenant a th.pc.toNat false false = (s1, .ok k) → exec (.fetchBlockFill core ent tid) s = .next s1) ∧
      (∀ s1 n m, s.reach id b.tenant a th.pc.toNat false false = (s1, .trap n m) → exec (.fetchBlockFill core ent tid) s =
        .next (s1.trapAt id { kind := n, addr := a, info := m } false th.pc.toNat)) ∧
      (∀ s1, s.reach id b.tenant a th.pc.toNat false false = (s1, .lines) → exec (.fetchBlockFill core ent tid) s = .next s1) ∧
      (∀ s1, s.reach id b.tenant a th.pc.toNat false false = (s1, .hold) → exec (.fetchBlockFill core ent tid) s =
        .next (s1.holdAt id a false)))) ∧
  (∀ ent tid g, none_ (fun k => .granuleFill k ent tid g) ∧ ∀ core (s : State), core < 192 →
    let id : ThreadId := ⟨core, ent, tid⟩
    (∀ s1, s.fillGranule id g = (s1, .ready) → exec (.granuleFill core ent tid g) s = .next (s1.tryMeet id)) ∧
    (∀ s1, s.fillGranule id g = (s1, .killed) → exec (.granuleFill core ent tid g) s = .next s1) ∧
    (∀ s1 va th, s.fillGranule id g = (s1, .hold va) → s1.thread? id = some th → exec (.granuleFill core ent tid g) s =
      .next (if th.status = .run then s1.holdAt id va false else s1)))

/-- R199 to R218, R296 to R307, R417 to R463: the events of translation, of the copy and matrix engines, of fabric commands and of
recovery. Each takes the next move of what stands in the state and leaves the state where there is none; one that names a core,
quad or tenant that the part has not faults (the model's choices, assumptions 1 and 8). -/
def Obligations.EnginesAndPaging : Prop :=
  let cores := fun (mk : Nat → Instr) => ∀ k s, 192 ≤ k → exec (mk k) s = .fault .noSuchAgent
  let tenants := fun (mk : Nat → Instr) => ∀ k s, 16 ≤ k → exec (mk k) s = .fault .noSuchAgent
  let quads := fun (mk : Nat → Instr) => ∀ k s, 48 ≤ k → exec (mk k) s = .fault .noSuchAgent
  let bits := fun (x lo n : Nat) => x / 2 ^ lo % 2 ^ n
  -- walks
  (∀ core t va w s, 192 ≤ core ∨ 16 ≤ t → exec (.pageWalk core t va w) s = .fault .noSuchAgent) ∧
  (∀ core t (va : CodeAddr) w (s : State), core < 192 → t < 16 →
    (∀ b ∈ s.blocks, ∀ th ∈ b.threads, ∀ v x, th.status ≠ .fault v x) →
    exec (.pageWalk core t va w) s = .next (s.xlat core t va.toNat (if w then .store else .load)).1) ∧
  (∀ (s : State) core t va a l, s.tlbFind core t va = none → s.walk t va = .ok l →
    let e := (s.contigEntry t va l).getD (s.entryOf t va l)
    (s.latent = [] → s.translate core t va a = s.lookup core t va a) ∧
    s.lookup core t va a = ((s.writeLeaf l.addr (heatBits a l.bits)).fillTlb core e, e.decide_ a) ∧
    bits (heatBits a l.bits) 8 2 = (if a = .load ∨ a = .red ∨ a = .atom then min 3 (l.heatR + 1) else l.heatR) ∧
    bits (heatBits a l.bits) 10 2 = (if a = .store ∨ a = .red ∨ a = .atom then min 3 (l.heatW + 1) else l.heatW) ∧
    bits (heatBits a l.bits) 0 8 = bits l.bits 0 8 ∧ heatBits a l.bits / 2 ^ 12 = l.bits / 2 ^ 12) ∧
  (∀ (s : State) b th all page v w, th.status = .fault v w → all = true ∨ v / 65536 = page →
    let t := th.heldFor.getD b.tenant
    let x := s.walkFor t v (if w then .store else .load)
    (x = .notValid → s.retryThread b th all page = s.walked t v) ∧
    (x ≠ .notValid →
      s.retryThread b th all page = (s.walked t v).modThread (b.idOf th.tid) (fun x => { x with status := .run, heldFor := none }))) ∧
  (tenants .walkRetry ∧ ∀ t (s : State), t < 16 → exec (.walkRetry t) s = .next (s.retryTenant t) ∧
    ((∀ b ∈ s.blocks, b.tenant = t → b.killed = true) → (∀ c ∈ s.cores, c.sideLog = []) → (∀ h ∈ s.fabric.held,
      h.packet.dten.toNat ≠ t ∧ h.packet.kind ≠ 0x10) → exec (.walkRetry t) s = .next s)) ∧
  (cores .sideLogReplay ∧ ∀ core (s : State), core < 192 →
    ((s.core core).sideLog = [] → exec (.sideLogReplay core) s = .next s) ∧
    ∀ en rest b, (s.core core).sideLog = en :: rest → s.block? core en.slote = some b →
      let a := en.line * 128
      let gone := fun (u : State) => u.modCore core (fun c => { c with sideLog := rest })
      let trap := fun (u : State) (k : Nat) => (gone u).trapLater (b.idOf en.thread) ⟨k, a, 0, 0, false, none⟩
      let z := if en.op = 3 then 16 else tySize (tyOfSub en.sub)
      ∀ s1, (s.xlat core en.tenant a en.acc = (s1, .notValid) → exec (.sideLogReplay core) s = .next s1) ∧
        (s.xlat core en.tenant a en.acc = (s1, .blocked) → exec (.sideLogReplay core) s = .next s1) ∧
        (s.xlat core en.tenant a en.acc = (s1, .perm) → exec (.sideLogReplay core) s = .next (trap s1 0x0C)) ∧
        (s.xlat core en.tenant a en.acc = (s1, .format) → exec (.sideLogReplay core) s = .next (trap s1 0x0D)) ∧
        ∀ e, s.xlat core en.tenant a en.acc = (s1, .ok e) →
          (e.kind ∉ (if en.op = 1 then [0, 1, 2] else if en.op = 3 then [1] else [0, 2]) →
            exec (.sideLogReplay core) s = .next (trap s1 0x0E)) ∧
          (en.op = 1 → e.kind ≤ 2 → s1.mismatched b e = false →
            let s2 := if e.tier = 2 ∨ s1.leavesL1 core e a 0 (en.scope != .blk) = true then s1.countAt b.grid e a else s1
            exec (.sideLogReplay core) s = .next ((gone s2).replayUnits b (b.idOf en.thread) en e (en.pieces e.tier z)))) ∧
  (tenants .sweeperVisit ∧ ∀ t (s : State), t < 16 → exec (.sweeperVisit t) s =
    (let now := s.halfNs / (2000 * s.boot.sweepPeriod)
    .next (if (s.tenant t).enable = true ∧ (s.tenant t).swept < now then runAll (fun (s : State) va => s.sweepLeaf t va) (s.leafAddrs t)
      (s.modTenant t (fun x => { x with swept := now })) else s))) ∧
  (∀ (s : State) t va l, s.latent = [] → s.walk t va = .ok l → (l.tier = 0 ∨ l.mq = true ∨ (l.heatR ≠ 3 ∧ l.heatW ≠ 3)) → ∃ v,
    s.sweepLeaf t va = s.writeLeaf l.addr v ∧ bits v 8 2 = l.heatR - 1 ∧ bits v 10 2 = l.heatW - 1 ∧
    bits v 0 8 = bits l.bits 0 8 ∧ v / 2 ^ 12 = l.bits / 2 ^ 12) ∧
  -- the translation service
  (tenants .translationServicePoll ∧ ∀ t (s : State), t < 16 →
    let r := exec (.translationServicePoll t) s
    let s1 := s.walked t (s.tenant t).migqbase.toNat
    let base := (s1.tenant t).migqbase.toNat
    (((s1.tenant t).service ≠ none ∨ s1.queuePage t = none) → r = .next s1) ∧
    ∀ e, (s1.tenant t).service = none → s1.queuePage t = some e →
      (∀ ws status, (s1.tenant t).ending = some (ws, status) → e.tier = 2 → r = .next (s1.endThere t e ws status)) ∧
      ((s1.tenant t).ending = none →
        let head := ofBytes (s1.pageRead e (base + 0x10) 8) % 256
        let same := head = ofBytes (s1.pageRead e (base + 0x18) 8) % 256
        (e.tier ≠ 2 → same → r = .next s1) ∧
        (e.tier ≠ 2 → ¬ same → r = .next (s1.startCommand t (toDwords 8 (s1.pageRead e (base + 0x8000 + 64 * head) 64)))) ∧
        (e.tier = 2 → lineRead (s1.tenant t).serving.lines (base + 0x10) 16 = .unasked → (s1.tenant t).polled < s1.halfNs / 2000 →
          r = .next ((s1.modTenant t (fun x => { x with polled := s1.halfNs / 2000 })).askQueue t true e (base / 128))))) ∧
  (∀ (s : State) t ws, s.latent = [] →
    let ls := s.rangeLeaves t (cmdPage ws) (cmdCount ws)
    let r := s.startCommand t ws
    let runs := fun (ls : List PxLeaf) => r = s.modTenant t (fun x => { x with service := some (0, ws), pxLeaves := ls, marked := [] })
    (cmdFieldsOk ws = false → r = s.endCommand t ws 2) ∧ (cmdFieldsOk ws = true → cmdOp ws = 1 → runs []) ∧
    (cmdFieldsOk ws = true → cmdOp ws ≠ 1 → (∃ l ∈ ls, leafWhole (cmdPage ws) (cmdCount ws) l = false) → r = s.endCommand t ws 2) ∧
    (cmdFieldsOk ws = true → cmdOp ws ≠ 1 → (∀ l ∈ ls, leafWhole (cmdPage ws) (cmdCount ws) l = true) → runs ls)) ∧
  (∀ (s : State) t ws status e, t < s.tenants.length → s.queuePage t = some e → e.tier ≠ 2 → bits (dword ws 4) 16 1 = 0 →
    let base := (s.tenant t).migqbase.toNat
    let head := ofBytes (s.pageRead e (base + 0x10) 8) % 256
    ∃ u : State, s.endCommand t ws status = u.retryTenant t ∧ (u.tenant t).service = none ∧ (u.tenant t).pxLeaves = [] ∧
      u.mem = ((s.pageWrite .response e (base + 0x8000 + 64 * head + 1) (toBytes 1 status)).pageWrite .response e (base + 0x10)
        (toBytes 8 ((head + 1) % 256))).mem) ∧
  (∀ (s : State) t first n, (∀ c ∈ (s.shootdown t first n).cores, ∀ e ∈ c.tlb, e.meets t first n = false) ∧
    (∀ x ∈ (s.shootdown t first n).quadTlb, x.2.meets t first n = false) ∧ (s.shootdown t first n).mem = s.mem) ∧
  (let service := fun (mk : Nat → Instr) (op : Nat) (go : State → Nat → Nat → List DWord → List PxLeaf → State) =>
      tenants mk ∧ ∀ t (s : State), t < 16 → ((s.tenant t).service = none → exec (mk t) s = .next s) ∧
        ∀ phase ws, (s.tenant t).service = some (phase, ws) → exec (mk t) s =
          .next (if cmdOp ws = op then go s t phase ws (s.tenant t).pxLeaves else s)
    let done := fun (s : State) (t : Nat) (ws : List DWord) => (s.shootdownCode t (cmdPage ws) (cmdCount ws)).endCommand t ws 1
    let rewritten := fun (r : State × Bool × List PxLeaf) (t n : Nat) (ws : List DWord) (ls : List PxLeaf) =>
      if r.2.1 then r.1.phase t n ws r.2.2 else r.1.conflict t ws ls
    service .inval 1 (fun s t _ ws _ => (s.shootdown t (cmdPage ws) (cmdCount ws)).endCommand t ws 1) ∧
    service .perm 2 (fun s t phase ws ls =>
      if phase = 0 then rewritten (s.rewrite (fun _ x => setPx x true) ls) t 1 ws ls
      else if phase = 1 then (s.shootdownCode t (cmdPage ws) (cmdCount ws)).phase t 2 ws ls
      else if phase = 2 then rewritten (s.rewrite (fun _ x => permBits (cmdNew ws) x) ls) t 3 ws ls
      else done s t ws) ∧
    service .migrate 3 (fun s t phase ws ls =>
      let fits := ls.all (fun x => x.leaf.tier != 2 && s.frameOk t (newTier ws) (newFrame ws x.page) x.leaf.size)
      let frames := (ls.filter (fun x => x.leaf.tier != 3)).map (fun x => (x.leaf.pfn * 65536, x.leaf.size))
      if phase = 0 then (if fits then runAll (fun (s : State) x => s.copyPage t ws x) ls (s.phase t 1 ws ls) else s.endCommand t ws 4)
      else if phase = 1 then rewritten (s.rewrite (fun _ x => setPx x true) ls) t 2 ws ls
      else if phase = 2 then ((s.shootdownCode t (cmdPage ws) (cmdCount ws)).flushFrames frames).phase t 3 ws ls
      else if phase = 3 then
        rewritten ((runAll (fun (s : State) x => s.copyMarked t ws x) ls s).rewrite (movedBits ws) ls) t 4 ws ls
      else done s t ws)) ∧
  (∀ new x k, (permBits new x).testBit k = (if 1 ≤ k ∧ k ≤ 3 then new.testBit k else if k = 13 then false
    else if 14 ≤ k ∧ k ≤ 17 ∧ new.testBit 63 then new.testBit k else x.testBit k)) ∧
  (∀ ws page x, bits (movedBits ws page x) 6 2 = newTier ws ∧ bits (movedBits ws page x) 8 6 = 0 ∧
    bits (movedBits ws page x) 20 36 = newFrame ws page % 2 ^ 36 ∧ bits (movedBits ws page x) 0 6 = bits x 0 6 ∧
    bits (movedBits ws page x) 14 6 = bits x 14 6) ∧
  -- copies and fabric commands
  (∀ ent i, cores (fun k => .copyComplete k ent i) ∧ ∀ core (s : State), core < 192 →
    let r := exec (.copyComplete core ent i) s
    ((∀ b, s.block? core ent = some b → b.copies[i]? = none) → r = .next s) ∧
    ∀ b k, s.block? core ent = some b → b.copies[i]? = some k →
      let x := (⟨s, [], [], false, none⟩ : Tally).all b k (s.copyItems b k)
      let w : Writer := ⟨b.core, b.tenant, b.grid, .copy (b.ownerOf k.tid) k.seq⟩
      let put := x.1.s.putAll b w none (groupGranules x.1.got.reverse)
      let after := if x.1.mism then put.1.countMismatch b.tenant else put.1
      let may := i < 64 ∧ b.killed = false ∧ ∀ l ∈ k.remote, l.data.isSome = true
      (¬ may → r = .next s) ∧
      (may → k.moved = true → r = .next (if k.owed = 0 then s.finishCopy b k else s)) ∧
      (may → k.moved = false → x.2 = .wait → r = .next x.1.s) ∧
      (∀ f, may → k.moved = false → x.2 = .fail f → x.1.asks = [] → r = .next (after.failCopy b k f)) ∧
      (may → k.moved = false → x.2 = .whole → x.1.asks = [] → put.2 = (0, false) → r = .next (after.finishCopy b k))) ∧
  (∀ (s : State) b k, k.done.bar = none →
    (k.done.flag = none → s.finishCopy b k = s.dropCopy b.core b.ent k.seq) ∧
    ∀ off v, k.done.flag = some (off, v) →
      s.finishCopy b k = (s.dropCopy b.core b.ent k.seq).scrStore b off (toBytes 4 v.toNat) false []) ∧
  (∀ id (s : State), let r := exec (.fabricCommandComplete id) s
    (s.cmd? id = none → r = .next s) ∧ ∀ k, s.cmd? id = some k →
      let place := ((s.fabric.cmds.filter (fun c => c.core == k.core)).takeWhile (fun c => c.id != k.id)).length
      (256 ≤ place → r = .next s) ∧ (place < 256 →
        (k.started = false → k.fail.isSome = true → r = .next (s.endCmd k)) ∧
        (k.started = false → k.fail = none → k.awaitMarkers = true → s.markersDone k = false → r = .next s) ∧
        (k.started = false → k.fail = none → (k.awaitMarkers = false ∨ s.markersDone k = true) → r = .next (s.startCmd k)) ∧
        (k.started = true → k.waiting ≠ 0 → r = .next s) ∧
        (k.started = true → k.waiting = 0 → k.fail.isSome = true → r = .next (s.endCmd k)) ∧
        (∀ p, k.started = true → k.waiting = 0 → k.fail = none → k.final = some p → r =
          .next ((s.send (some k.core) (.command k.id) p).modCmd k.id (fun c => { c with final := none, waiting := 1 }))) ∧
        (k.started = true → k.waiting = 0 → k.fail = none → k.final = none → (k.form ≠ 2 ∨ k.stored = true) →
          r = .next (s.endCmd k)) ∧
        (k.started = true → k.waiting = 0 → k.fail = none → k.final = none → k.form = 2 → k.stored = false →
          r = .next (s.storeGet k)))) ∧
  (∀ (s : State) k off, k.statOff = some off →
    let own := fun (r : DWord) => (s.dropCmd k.id).settle (fun a => if a = .command k.id then some r else none) none
    (k.fail = none → k.barOff = none → s.endCmd k = (own 1).scrFor k.owner off (toBytes 4 1) false) ∧
    ∀ f, k.fail = some f → f.kind ≠ 0x10 →
      s.endCmd k = (own (BitVec.ofNat 64 f.status)).scrFor k.owner off (toBytes 4 f.status) false) ∧
  (∀ (e : Effect) f fail, (e.owed.bind f = none → e.settle f fail = e) ∧
    ∀ r, e.owed.bind f = some r → e.settle f fail = { e with result := r, owed := none, fail := fail }) ∧
  (∀ (s : State) f fail, (∀ b ∈ s.blocks, b.snap = none) → (s.settle f fail).mem = s.mem ∧
    (s.settle f fail).blocks = s.blocks.map (fun b => { b with results := b.results.map (fun e => e.settle f fail) })) ∧
  -- the matrix engine
  (quads .matrixGrant ∧ ∀ q (s : State), q < 48 →
    let e := s.engine q
    let r := exec (.matrixGrant q) s
    let ready := e.heldPosts.filter (s.eligible e)
    (e.running.isSome = true → r = .next s) ∧ (e.running = none →
      (ready = [] → r = .next s) ∧ (ready ≠ [] → ∃ x ∈ ready, (∀ y ∈ ready, s.grantsFirst y x = false) ∧
        let rpt := (s.entryContract x).rpt
        let e1 := { e with table := s.ageEntries e x }
        let e2 := if (e1.bank? x.gang x.req.bank).isSome then e1 else e1.map x.gang x.req.bank (x.req.wide rpt)
        ∀ b, e2.bank? x.gang x.req.bank = some b →
          let y := { x with from_ := x.nextPass, c0 := b.cells, aged := false, grants := 0 }
          let s1 := s.setEngine { e2 with running := some y, due := s.cycle + x.req.setUp }
          r = .next (if x.req.wrongWidth rpt b.wide then s1.failEntry q y 0x14 0 8 else s1)))) ∧
  -- its cycles (R451): 24 from the grant; M times 2^SPEED for a pass, twice that when narrowed; M for a write-out
  ((∀ w g, (MxReq.op w g).setUp = 24 ∧
      (MxReq.op w g).writeOut = if (MxParams.of w).wfmt = 0 then 0 else (MxParams.of w).m) ∧
    (∀ o f a, (MxReq.acc o f a).setUp = if o = 1 ∨ o = 2 then 24 + (AccArgs.of a).rows else 24) ∧
    (∀ (s : State) x w g nar, x.req = .op w g →
      s.passCycles x nar = (MxParams.of w).m * 2 ^ (s.entryContract x).speed * (if nar = true then 2 else 1)) ∧
    ∀ (s : State) q x, (s.engine q).running = some x → (s.engine q).passing = false → x.nextPass < x.req.passes →
      (s.cycle < (s.engine q).due ∨ s.heldOff x = true ∨ s.power.retune.isSome = true → s.startPass q = s) ∧
      ((s.engine q).due ≤ s.cycle → s.heldOff x = false → s.power.retune = none → s.startPass q = s.setEngine { s.engine q with
        passing := true, narrow := s.power.alarm, due := s.cycle + s.passCycles x s.power.alarm })) ∧
  (∀ env, quads (fun q => .matrixPass q env) ∧ ∀ q (s : State), q < 48 →
    let s0 := s.startPass q
    let r := exec (.matrixPass q env) s
    (((s0.engine q).running = none ∨ (s0.engine q).passing = false ∨ s.cycle < (s0.engine q).due) → r = .next s0) ∧
    ∀ x w g, (s0.engine q).running = some x → (s0.engine q).passing = true → (s0.engine q).due ≤ s.cycle → x.req = .op w g →
      let s1 := (s0.usesPass q x).passFinds q x env
      (env.tile = [] → env.acc = [] → s1 = s0.usesPass q x) ∧
      (env.residueFails = false → r = .next ((s1.runPass q x w).afterPass q)) ∧
      (env.residueFails = true → x.retried = true → r = .next (s1.failEntry q x 0x10 0 8)) ∧
      (env.residueFails = true → x.retried = false →
        r = .next ((s1.setEngine { s1.engine q with
            running := some { x with retried := true }
            due := s.cycle + s1.passCycles x (s0.engine q).narrow }).threadRec
          ⟨x.core, x.ent, x.tid⟩ { kind := 0x13, sev := 0, src := 13, pc := x.pc.toNat, synd := x.nextPass }))) ∧
  (∀ (s : State) q x, (s.engine q).running = some x →
    (x.req.passes ≤ x.nextPass → s.afterPass q = s.modEngine q (fun e => { e with due := s.cycle + x.req.writeOut })) ∧
    (x.nextPass < x.req.passes → s.afterPass q = s.startPass q)) ∧
  (∀ (p : MxParams) (k : Bank), let x := fun m n => p.written k.wide (entryAt k.cells m n).1
    ((p.pair.map (·.float)).getD false = false → ∀ m < p.m, ∀ n < p.n, (signedOf 32 (x m n)).natAbs ≤ p.amax k) ∧
    ((p.pair.map (·.float)).getD false = true → p.m = 1 → p.n = 1 → let f := p.writtenFmt k.wide
      p.amax k = if (f.read false (x 0 0)).isNaN = true then F32.nanBits
        else (F32.round .rne false (f.read false (x 0 0 % f.sign true))).1)) ∧
  (∀ cells r0 nr nc f r n, (∀ i j, (f i j).1 < 2 ^ 64) → entryAt (putEntries cells r0 nr nc f) r n =
    if r0 ≤ r ∧ r < r0 + nr ∧ n < nc then f r n else entryAt cells r n) ∧
  (quads .matrixComplete ∧ ∀ q (s : State), q < 48 →
    let r := exec (.matrixComplete q) s
    let e := s.engine q
    let freed := fun (t : State) => t.modEngine q (fun e => { e with running := none, passing := false, narrow := false })
    (e.running = none ∨ s.cycle < e.due → r = .next s) ∧ ∀ x, e.running = some x → e.due ≤ s.cycle →
      (∀ w g, x.req = .op w g → x.nextPass < x.req.passes → r = .next s) ∧
      (∀ w g b k, x.req = .op w g → x.req.passes ≤ x.nextPass → s.entryBlock x = some b →
        e.bank? x.gang (MxParams.of w).bank = some k → (MxParams.of w).wfmt = 0 → (MxParams.of w).amaxv = false →
        r = .next (freed (match (MxParams.of w).done with | some o => s.barAdd b o.1 o.2 | none => s))) ∧
      (∀ w g b k s1, x.req = .op w g → x.req.passes ≤ x.nextPass → s.entryBlock x = some b →
        e.bank? x.gang (MxParams.of w).bank = some k → (MxParams.of w).amaxv = false → (MxParams.of w).done = none →
        s.writePages b 0 ((MxParams.of w).writes g b.alloc k) = (s1, .all) →
        r = .next (freed (s1.putAll b ⟨b.core, b.tenant, b.grid, .response⟩ none (groupGranules ((MxParams.of w).writes g b.alloc k))).1)) ∧
      (∀ o f a b k, x.req = .acc o f a → s.entryBlock x = some b → e.bank? x.gang (AccArgs.of a).bank = some k →
        (AccArgs.of a).barv = false →
        (o = 0 → r = .next (freed (s.setEngine (e.setCells x.gang (AccArgs.of a).bank (putEntries k.cells (AccArgs.of a).row0
          (AccArgs.of a).rows (AccArgs.of a).cols (fun _ _ => (0, false))))))) ∧
        (3 ≤ o → r = .next (freed (s.setEngine (e.unmap x.gang (AccArgs.of a).bank)))))) ∧
  -- recovery
  (∀ ent, cores (fun k => .snapshotPoint k ent) ∧ ∀ core (s : State), core < 192 →
    let r := exec (.snapshotPoint core ent) s
    ((∀ b, s.block? core ent = some b → s.pointReady b = false) → r = .next s) ∧
    ∀ b, s.block? core ent = some b → s.pointReady b = true →
      (s.partner b = none → b.verify = .single → r = .next (s.writeSnapshot core ent).1) ∧
      ∀ x, s.partner b = some x → (s.pointReady x = false → r = .next s) ∧
        ∀ t, s.pointReady x = true → crcDiffers b x = some t →
          r = .next (s.verifyFail ((if b.verify = .primary then b else x).idOf t))) ∧
  (∀ (b : Block) sn y, b.snap = some y → ∃ z, (b.newInterval sn).snap = some z ∧ z.cur = !y.cur ∧ z.log = [] ∧ z.rolls = 0 ∧
    z.unprot = false ∧ z.point = false ∧ (if y.cur then z.a else z.b) = some sn ∧ (if y.cur then z.b = y.b else z.a = y.a)) ∧
  (∀ ent, cores (fun k => .rollback k ent) ∧ ∀ core (s : State), core < 192 →
    let r := exec (.rollback core ent) s
    ((∀ b, s.block? core ent = some b → b.snap = none) → r = .next s) ∧
    ∀ b sn, s.block? core ent = some b → b.snap = some sn →
      let spoilt := sn.rolling = true ∧ sn.unprot = true
      let may := sn.rolling = true ∧ b.copies = [] ∧ s.commandsOf b.rec_.node b.rec_.gen b.rec_.block = false
      let valid := (if sn.cur then sn.b else sn.a).isSome
      let lost := s.damaged b (s.rbAddr b 0x1000) (32 * sn.log.length) = true ∨
        (valid = true ∧ s.damaged b (s.bufferAt b sn.cur) b.snapSize = true)
      (spoilt → r = .next (s.rollbackFail core ent 2)) ∧ (¬ spoilt → ¬ may → r = .next s) ∧
      (¬ spoilt → may → lost → r = .next (s.rollbackFail core ent 5)) ∧
      (¬ spoilt → may → ¬ lost → r = .next (s.restoreSnapshot b sn))) ∧
  (∀ ent tid, cores (fun k => .verifyTimeout k ent tid) ∧ ∀ core (s : State), core < 192 →
    let r := exec (.verifyTimeout core ent tid) s
    ((∀ th d, s.thread? ⟨core, ent, tid⟩ = some th → th.wait ≠ some (.verify d)) → r = .next s) ∧
    ∀ b th d, s.block? core ent = some b → s.thread? ⟨core, ent, tid⟩ = some th → th.wait = some (.verify d) →
      r = .next (if b.verify = .primary ∧ d ≤ s.halfNs then s.verifyFail ⟨core, ent, tid⟩ else s))
end

