-- ==== Sys2Proof/Laws/Bytes.lean ====
section
/-! SUPPORT. Byte memories: what a written byte reads as, and that every operation keeps the canonical form. -/

namespace Sys2Proof.Machine

/-! ## Cells -/

theorem cellsFrom_mono {lo hi : Nat} (h : hi ≤ lo) {cs : List Host.Cell} (hw : cellsFrom lo cs = true) : cellsFrom hi cs = true := by
  cases cs with
  | nil => rfl
  | cons c cs =>
    obtain ⟨a, b⟩ := c
    simp only [cellsFrom, Bool.and_eq_true, decide_eq_true_eq] at hw ⊢
    exact ⟨⟨by omega, hw.1.2⟩, hw.2⟩

theorem cellGet_below {lo x : Nat} {cs : List Host.Cell} (hw : cellsFrom lo cs = true) (h : x < lo) : cellGet cs x = 0 := by
  induction cs generalizing lo with
  | nil => rfl
  | cons c cs ih =>
    obtain ⟨a, b⟩ := c
    simp only [cellsFrom, Bool.and_eq_true, decide_eq_true_eq] at hw
    unfold cellGet
    rw [if_neg (by omega)]
    exact ih hw.2 (by omega)

/-- Writing a byte keeps the canonical form. -/
theorem cellsFrom_set {lo x : Nat} {v : Byte} {cs : List Host.Cell} (hw : cellsFrom lo cs = true) (hx : lo ≤ x) :
    cellsFrom lo (cellSet cs x v) = true := by
  induction cs generalizing lo with
  | nil =>
    unfold cellSet
    split
    · rfl
    · simp_all [cellsFrom]
  | cons c cs ih =>
    obtain ⟨a, b⟩ := c
    simp only [cellsFrom, Bool.and_eq_true, decide_eq_true_eq] at hw
    unfold cellSet
    split
    · split
      · simp_all [cellsFrom]
      · simp_all [cellsFrom] <;> omega
    · split
      · split
        · exact cellsFrom_mono (by omega) hw.2
        · simp_all [cellsFrom]
      · simp only [cellsFrom, Bool.and_eq_true, decide_eq_true_eq]
        exact ⟨hw.1, ih hw.2 (by omega)⟩

/-- A written byte reads as written, and every other byte as before. -/
theorem cellGet_set {lo x y : Nat} {v : Byte} {cs : List Host.Cell} (hw : cellsFrom lo cs = true) :
    cellGet (cellSet cs x v) y = if y = x then v else cellGet cs y := by
  induction cs generalizing lo with
  | nil =>
    unfold cellSet
    split <;> simp_all [cellGet]
  | cons c cs ih =>
    obtain ⟨a, b⟩ := c
    simp only [cellsFrom, Bool.and_eq_true, decide_eq_true_eq] at hw
    unfold cellSet
    split
    · rename_i hlt
      split
      · rename_i hv
        subst hv
        split
        · rename_i e
          subst e
          unfold cellGet
          rw [if_neg (by omega)]
          exact cellGet_below hw.2 (by omega)
        · rfl
      · simp [cellGet]
    · split
      · rename_i he
        split
        · rename_i hv
          subst hv
          split
          · rename_i e
            exact cellGet_below hw.2 (by omega)
          · rename_i hne
            simp [cellGet, show y ≠ a by omega]
        · rename_i hv
          subst he
          simp only [cellGet]
          split <;> rfl
      · rename_i h1 h2
        simp only [cellGet, ih hw.2]
        split <;> split <;> first | rfl | omega

/-! ## Memories -/

theorem ByteMem.wf_iff (m : ByteMem) : m.wf = true ↔ cellsFrom 0 m.cells = true ∧ risingFrom 0 m.poison = true := by
  simp [ByteMem.wf]

theorem ByteMem.wf_empty : ByteMem.empty.wf = true := rfl

theorem ByteMem.wf_set {m : ByteMem} (h : m.wf = true) (a : Nat) (v : Byte) : (m.set a v).wf = true := by
  rw [wf_iff] at h ⊢
  exact ⟨cellsFrom_set h.1 (by omega), h.2⟩

theorem ByteMem.get_set {m : ByteMem} (h : m.wf = true) (a x : Nat) (v : Byte) :
    (m.set a v).get x = if x = a then v else m.get x := cellGet_set ((wf_iff m).1 h).1

theorem ByteMem.wf_write {m : ByteMem} (h : m.wf = true) (a : Nat) (bs : List Byte) : (m.write a bs).wf = true := by
  induction bs generalizing m a with
  | nil => exact h
  | cons b bs ih => exact ih (wf_set h a b) _

theorem risingFrom_add {lo x : Nat} {xs : List Nat} (h : risingFrom lo xs = true) (hx : lo ≤ x) : risingFrom lo (addNat xs x) = true := by
  induction xs generalizing lo with
  | nil => simp [addNat, risingFrom, hx]
  | cons y ys ih =>
    simp only [risingFrom, Bool.and_eq_true, decide_eq_true_eq] at h
    unfold addNat
    split
    · simp only [risingFrom, Bool.and_eq_true, decide_eq_true_eq]
      exact ⟨hx, by omega, h.2⟩
    · split
      · simp only [risingFrom, Bool.and_eq_true, decide_eq_true_eq]
        exact h
      · simp only [risingFrom, Bool.and_eq_true, decide_eq_true_eq]
        exact ⟨h.1, ih h.2 (by omega)⟩

theorem risingFrom_mono {lo hi : Nat} (h : hi ≤ lo) {xs : List Nat} (hw : risingFrom lo xs = true) : risingFrom hi xs = true := by
  cases xs with
  | nil => rfl
  | cons x xs =>
    simp only [risingFrom, Bool.and_eq_true, decide_eq_true_eq] at hw ⊢
    exact ⟨by omega, hw.2⟩

theorem risingFrom_filter {lo : Nat} {xs : List Nat} (p : Nat → Bool) (h : risingFrom lo xs = true) :
    risingFrom lo (xs.filter p) = true := by
  induction xs generalizing lo with
  | nil => rfl
  | cons y ys ih =>
    simp only [risingFrom, Bool.and_eq_true, decide_eq_true_eq] at h
    rw [List.filter_cons]
    split
    · simp only [risingFrom, Bool.and_eq_true, decide_eq_true_eq]
      exact ⟨h.1, ih h.2⟩
    · exact risingFrom_mono (by omega) (ih h.2)

theorem cellsFrom_filter {lo : Nat} {cs : List Host.Cell} (p : Host.Cell → Bool) (h : cellsFrom lo cs = true) :
    cellsFrom lo (cs.filter p) = true := by
  induction cs generalizing lo with
  | nil => rfl
  | cons c cs ih =>
    obtain ⟨a, b⟩ := c
    simp only [cellsFrom, Bool.and_eq_true, decide_eq_true_eq] at h
    rw [List.filter_cons]
    split
    · simp only [cellsFrom, Bool.and_eq_true, decide_eq_true_eq]
      exact ⟨h.1, ih h.2⟩
    · exact cellsFrom_mono (by omega) (ih h.2)

theorem ByteMem.wf_setPoison {m : ByteMem} (h : m.wf = true) (g : Nat) : (m.setPoison g).wf = true := by
  rw [wf_iff] at h ⊢; exact ⟨h.1, risingFrom_add h.2 (by omega)⟩

theorem ByteMem.wf_clearPoison {m : ByteMem} (h : m.wf = true) (g : Nat) : (m.clearPoison g).wf = true := by
  rw [wf_iff] at h ⊢; exact ⟨h.1, risingFrom_filter _ h.2⟩

theorem ByteMem.wf_markPoison {m : ByteMem} (h : m.wf = true) (g : Nat) (p : Bool) : (m.markPoison g p).wf = true := by
  unfold markPoison; split
  · exact wf_setPoison h g
  · exact wf_clearPoison h g

/-- A property that each step of a fold keeps. -/
theorem runAll_keeps {α σ : Type} (P : σ → Prop) (f : σ → α → σ) (hf : ∀ s x, P s → P (f s x)) (xs : List α) {s : σ} (h : P s) :
    P (runAll f xs s) := by
  induction xs generalizing s with
  | nil => exact h
  | cons x xs ih => exact ih (hf s x h)

theorem ByteMem.wf_store {m : ByteMem} (h : m.wf = true) (a : Nat) (bs : List Byte) (p : Bool) (full : List Nat) :
    (m.store a bs p full).wf = true := by
  unfold store
  dsimp only
  refine runAll_keeps (fun m : ByteMem => m.wf = true) _ (fun m g hm => ?_) _ (wf_write h a bs)
  split
  · exact wf_setPoison hm g
  · split
    · exact wf_clearPoison hm g
    · exact hm

theorem ByteMem.wf_zero {m : ByteMem} (h : m.wf = true) (a n : Nat) : (m.zero a n).wf = true := by
  rw [wf_iff] at h ⊢; exact ⟨cellsFrom_filter _ h.1, risingFrom_filter _ h.2⟩

/-- The memories of the reset state are canonical. -/
theorem State.reset_memories : State.reset.mem.wf = true ∧ State.reset.host.wf = true ∧ State.reset.scratch.wf = true
    ∧ State.reset.bstore.wf = true := ⟨rfl, rfl, rfl, rfl⟩

end Sys2Proof.Machine
end

