-- ==== Sys2Proof/Laws/State.lean ====
section
/-! SUPPORT. The fields of a state after each of its updates. -/

namespace Sys2Proof.Machine

@[simp] theorem State.advance_boot (s : State) (n : Nat) : (s.advance n).boot = s.boot := rfl
@[simp] theorem State.advance_pf (s : State) (n : Nat) : (s.advance n).pf = s.pf := rfl
@[simp] theorem State.advance_tenants (s : State) (n : Nat) : (s.advance n).tenants = s.tenants := rfl
@[simp] theorem State.advance_nodes (s : State) (n : Nat) : (s.advance n).nodes = s.nodes := rfl
@[simp] theorem State.advance_cseq (s : State) (n : Nat) : (s.advance n).cseq = s.cseq := rfl
@[simp] theorem State.advance_blocks (s : State) (n : Nat) : (s.advance n).blocks = s.blocks := rfl
@[simp] theorem State.advance_cores (s : State) (n : Nat) : (s.advance n).cores = s.cores := rfl
@[simp] theorem State.advance_lanes (s : State) (n : Nat) : (s.advance n).lanes = s.lanes := rfl
@[simp] theorem State.advance_images (s : State) (n : Nat) : (s.advance n).images = s.images := rfl
@[simp] theorem State.advance_nextOrder (s : State) (n : Nat) : (s.advance n).nextOrder = s.nextOrder := rfl
@[simp] theorem State.advance_mem (s : State) (n : Nat) : (s.advance n).mem = s.mem := rfl
@[simp] theorem State.advance_host (s : State) (n : Nat) : (s.advance n).host = s.host := rfl
@[simp] theorem State.advance_scratch (s : State) (n : Nat) : (s.advance n).scratch = s.scratch := rfl
@[simp] theorem State.advance_bstore (s : State) (n : Nat) : (s.advance n).bstore = s.bstore := rfl
@[simp] theorem State.advance_tiles (s : State) (n : Nat) : (s.advance n).tiles = s.tiles := rfl
@[simp] theorem State.advance_latent (s : State) (n : Nat) : (s.advance n).latent = s.latent := rfl
@[simp] theorem State.advance_l1 (s : State) (n : Nat) : (s.advance n).l1 = s.l1 := rfl
@[simp] theorem State.advance_counters (s : State) (n : Nat) : (s.advance n).counters = s.counters := rfl
@[simp] theorem State.advance_quadTlb (s : State) (n : Nat) : (s.advance n).quadTlb = s.quadTlb := rfl
@[simp] theorem State.advance_fabric (s : State) (n : Nat) : (s.advance n).fabric = s.fabric := rfl
@[simp] theorem State.advance_coll (s : State) (n : Nat) : (s.advance n).coll = s.coll := rfl
@[simp] theorem State.advance_engines (s : State) (n : Nat) : (s.advance n).engines = s.engines := rfl
@[simp] theorem State.advance_requests (s : State) (n : Nat) : (s.advance n).requests = s.requests := rfl
@[simp] theorem State.advance_messages (s : State) (n : Nat) : (s.advance n).messages = s.messages := rfl
@[simp] theorem State.advance_reads (s : State) (n : Nat) : (s.advance n).reads = s.reads := rfl
@[simp] theorem State.advance_merged (s : State) (n : Nat) : (s.advance n).merged = s.merged := rfl
@[simp] theorem State.advance_shed (s : State) (n : Nat) : (s.advance n).shed = s.shed := rfl
@[simp] theorem State.advance_agenda (s : State) (n : Nat) : (s.advance n).agenda = s.agenda := rfl

@[simp] theorem State.retuned_cycle (s : State)  : (s.retuned).cycle = s.cycle := rfl
@[simp] theorem State.retuned_halfNs (s : State)  : (s.retuned).halfNs = s.halfNs := rfl
@[simp] theorem State.retuned_boot (s : State)  : (s.retuned).boot = s.boot := rfl
@[simp] theorem State.retuned_pf (s : State)  : (s.retuned).pf = s.pf := rfl
@[simp] theorem State.retuned_tenants (s : State)  : (s.retuned).tenants = s.tenants := rfl
@[simp] theorem State.retuned_nodes (s : State)  : (s.retuned).nodes = s.nodes := rfl
@[simp] theorem State.retuned_cseq (s : State)  : (s.retuned).cseq = s.cseq := rfl
@[simp] theorem State.retuned_blocks (s : State)  : (s.retuned).blocks = s.blocks := rfl
@[simp] theorem State.retuned_cores (s : State)  : (s.retuned).cores = s.cores := rfl
@[simp] theorem State.retuned_lanes (s : State)  : (s.retuned).lanes = s.lanes := rfl
@[simp] theorem State.retuned_images (s : State)  : (s.retuned).images = s.images := rfl
@[simp] theorem State.retuned_nextOrder (s : State)  : (s.retuned).nextOrder = s.nextOrder := rfl
@[simp] theorem State.retuned_mem (s : State)  : (s.retuned).mem = s.mem := rfl
@[simp] theorem State.retuned_host (s : State)  : (s.retuned).host = s.host := rfl
@[simp] theorem State.retuned_scratch (s : State)  : (s.retuned).scratch = s.scratch := rfl
@[simp] theorem State.retuned_bstore (s : State)  : (s.retuned).bstore = s.bstore := rfl
@[simp] theorem State.retuned_tiles (s : State)  : (s.retuned).tiles = s.tiles := rfl
@[simp] theorem State.retuned_latent (s : State)  : (s.retuned).latent = s.latent := rfl
@[simp] theorem State.retuned_l1 (s : State)  : (s.retuned).l1 = s.l1 := rfl
@[simp] theorem State.retuned_counters (s : State)  : (s.retuned).counters = s.counters := rfl
@[simp] theorem State.retuned_quadTlb (s : State)  : (s.retuned).quadTlb = s.quadTlb := rfl
@[simp] theorem State.retuned_fabric (s : State)  : (s.retuned).fabric = s.fabric := rfl
@[simp] theorem State.retuned_coll (s : State)  : (s.retuned).coll = s.coll := rfl
@[simp] theorem State.retuned_engines (s : State)  : (s.retuned).engines = s.engines := rfl
@[simp] theorem State.retuned_requests (s : State)  : (s.retuned).requests = s.requests := rfl
@[simp] theorem State.retuned_messages (s : State)  : (s.retuned).messages = s.messages := rfl
@[simp] theorem State.retuned_reads (s : State)  : (s.retuned).reads = s.reads := rfl
@[simp] theorem State.retuned_merged (s : State)  : (s.retuned).merged = s.merged := rfl
@[simp] theorem State.retuned_shed (s : State)  : (s.retuned).shed = s.shed := rfl
@[simp] theorem State.retuned_agenda (s : State)  : (s.retuned).agenda = s.agenda := rfl

@[simp] theorem State.uses_cycle (s : State) (u : Usage) : (s.uses u).cycle = s.cycle := rfl
@[simp] theorem State.uses_halfNs (s : State) (u : Usage) : (s.uses u).halfNs = s.halfNs := rfl
@[simp] theorem State.uses_boot (s : State) (u : Usage) : (s.uses u).boot = s.boot := rfl
@[simp] theorem State.uses_pf (s : State) (u : Usage) : (s.uses u).pf = s.pf := rfl
@[simp] theorem State.uses_tenants (s : State) (u : Usage) : (s.uses u).tenants = s.tenants := rfl
@[simp] theorem State.uses_nodes (s : State) (u : Usage) : (s.uses u).nodes = s.nodes := rfl
@[simp] theorem State.uses_cseq (s : State) (u : Usage) : (s.uses u).cseq = s.cseq := rfl
@[simp] theorem State.uses_blocks (s : State) (u : Usage) : (s.uses u).blocks = s.blocks := rfl
@[simp] theorem State.uses_cores (s : State) (u : Usage) : (s.uses u).cores = s.cores := rfl
@[simp] theorem State.uses_lanes (s : State) (u : Usage) : (s.uses u).lanes = s.lanes := rfl
@[simp] theorem State.uses_images (s : State) (u : Usage) : (s.uses u).images = s.images := rfl
@[simp] theorem State.uses_nextOrder (s : State) (u : Usage) : (s.uses u).nextOrder = s.nextOrder := rfl
@[simp] theorem State.uses_mem (s : State) (u : Usage) : (s.uses u).mem = s.mem := rfl
@[simp] theorem State.uses_host (s : State) (u : Usage) : (s.uses u).host = s.host := rfl
@[simp] theorem State.uses_scratch (s : State) (u : Usage) : (s.uses u).scratch = s.scratch := rfl
@[simp] theorem State.uses_bstore (s : State) (u : Usage) : (s.uses u).bstore = s.bstore := rfl
@[simp] theorem State.uses_tiles (s : State) (u : Usage) : (s.uses u).tiles = s.tiles := rfl
@[simp] theorem State.uses_latent (s : State) (u : Usage) : (s.uses u).latent = s.latent := rfl
@[simp] theorem State.uses_l1 (s : State) (u : Usage) : (s.uses u).l1 = s.l1 := rfl
@[simp] theorem State.uses_counters (s : State) (u : Usage) : (s.uses u).counters = s.counters := rfl
@[simp] theorem State.uses_quadTlb (s : State) (u : Usage) : (s.uses u).quadTlb = s.quadTlb := rfl
@[simp] theorem State.uses_fabric (s : State) (u : Usage) : (s.uses u).fabric = s.fabric := rfl
@[simp] theorem State.uses_coll (s : State) (u : Usage) : (s.uses u).coll = s.coll := rfl
@[simp] theorem State.uses_engines (s : State) (u : Usage) : (s.uses u).engines = s.engines := rfl
@[simp] theorem State.uses_requests (s : State) (u : Usage) : (s.uses u).requests = s.requests := rfl
@[simp] theorem State.uses_messages (s : State) (u : Usage) : (s.uses u).messages = s.messages := rfl
@[simp] theorem State.uses_reads (s : State) (u : Usage) : (s.uses u).reads = s.reads := rfl
@[simp] theorem State.uses_merged (s : State) (u : Usage) : (s.uses u).merged = s.merged := rfl
@[simp] theorem State.uses_shed (s : State) (u : Usage) : (s.uses u).shed = s.shed := rfl
@[simp] theorem State.uses_agenda (s : State) (u : Usage) : (s.uses u).agenda = s.agenda := rfl

@[simp] theorem State.modTenant_cycle (s : State) (t : Nat) (f : Tenant → Tenant) : (s.modTenant t f).cycle = s.cycle := rfl
@[simp] theorem State.modTenant_halfNs (s : State) (t : Nat) (f : Tenant → Tenant) : (s.modTenant t f).halfNs = s.halfNs := rfl
@[simp] theorem State.modTenant_boot (s : State) (t : Nat) (f : Tenant → Tenant) : (s.modTenant t f).boot = s.boot := rfl
@[simp] theorem State.modTenant_power (s : State) (t : Nat) (f : Tenant → Tenant) : (s.modTenant t f).power = s.power := rfl
@[simp] theorem State.modTenant_pf (s : State) (t : Nat) (f : Tenant → Tenant) : (s.modTenant t f).pf = s.pf := rfl
@[simp] theorem State.modTenant_nodes (s : State) (t : Nat) (f : Tenant → Tenant) : (s.modTenant t f).nodes = s.nodes := rfl
@[simp] theorem State.modTenant_cseq (s : State) (t : Nat) (f : Tenant → Tenant) : (s.modTenant t f).cseq = s.cseq := rfl
@[simp] theorem State.modTenant_blocks (s : State) (t : Nat) (f : Tenant → Tenant) : (s.modTenant t f).blocks = s.blocks := rfl
@[simp] theorem State.modTenant_cores (s : State) (t : Nat) (f : Tenant → Tenant) : (s.modTenant t f).cores = s.cores := rfl
@[simp] theorem State.modTenant_lanes (s : State) (t : Nat) (f : Tenant → Tenant) : (s.modTenant t f).lanes = s.lanes := rfl
@[simp] theorem State.modTenant_images (s : State) (t : Nat) (f : Tenant → Tenant) : (s.modTenant t f).images = s.images := rfl
@[simp] theorem State.modTenant_nextOrder (s : State) (t : Nat) (f : Tenant → Tenant) : (s.modTenant t f).nextOrder = s.nextOrder := rfl
@[simp] theorem State.modTenant_mem (s : State) (t : Nat) (f : Tenant → Tenant) : (s.modTenant t f).mem = s.mem := rfl
@[simp] theorem State.modTenant_host (s : State) (t : Nat) (f : Tenant → Tenant) : (s.modTenant t f).host = s.host := rfl
@[simp] theorem State.modTenant_scratch (s : State) (t : Nat) (f : Tenant → Tenant) : (s.modTenant t f).scratch = s.scratch := rfl
@[simp] theorem State.modTenant_bstore (s : State) (t : Nat) (f : Tenant → Tenant) : (s.modTenant t f).bstore = s.bstore := rfl
@[simp] theorem State.modTenant_tiles (s : State) (t : Nat) (f : Tenant → Tenant) : (s.modTenant t f).tiles = s.tiles := rfl
@[simp] theorem State.modTenant_latent (s : State) (t : Nat) (f : Tenant → Tenant) : (s.modTenant t f).latent = s.latent := rfl
@[simp] theorem State.modTenant_l1 (s : State) (t : Nat) (f : Tenant → Tenant) : (s.modTenant t f).l1 = s.l1 := rfl
@[simp] theorem State.modTenant_counters (s : State) (t : Nat) (f : Tenant → Tenant) : (s.modTenant t f).counters = s.counters := rfl
@[simp] theorem State.modTenant_quadTlb (s : State) (t : Nat) (f : Tenant → Tenant) : (s.modTenant t f).quadTlb = s.quadTlb := rfl
@[simp] theorem State.modTenant_fabric (s : State) (t : Nat) (f : Tenant → Tenant) : (s.modTenant t f).fabric = s.fabric := rfl
@[simp] theorem State.modTenant_coll (s : State) (t : Nat) (f : Tenant → Tenant) : (s.modTenant t f).coll = s.coll := rfl
@[simp] theorem State.modTenant_engines (s : State) (t : Nat) (f : Tenant → Tenant) : (s.modTenant t f).engines = s.engines := rfl
@[simp] theorem State.modTenant_requests (s : State) (t : Nat) (f : Tenant → Tenant) : (s.modTenant t f).requests = s.requests := rfl
@[simp] theorem State.modTenant_messages (s : State) (t : Nat) (f : Tenant → Tenant) : (s.modTenant t f).messages = s.messages := rfl
@[simp] theorem State.modTenant_reads (s : State) (t : Nat) (f : Tenant → Tenant) : (s.modTenant t f).reads = s.reads := rfl
@[simp] theorem State.modTenant_merged (s : State) (t : Nat) (f : Tenant → Tenant) : (s.modTenant t f).merged = s.merged := rfl
@[simp] theorem State.modTenant_shed (s : State) (t : Nat) (f : Tenant → Tenant) : (s.modTenant t f).shed = s.shed := rfl
@[simp] theorem State.modTenant_agenda (s : State) (t : Nat) (f : Tenant → Tenant) : (s.modTenant t f).agenda = s.agenda := rfl

@[simp] theorem State.setCore_cycle (s : State) (c : Core) : (s.setCore c).cycle = s.cycle := rfl
@[simp] theorem State.setCore_halfNs (s : State) (c : Core) : (s.setCore c).halfNs = s.halfNs := rfl
@[simp] theorem State.setCore_boot (s : State) (c : Core) : (s.setCore c).boot = s.boot := rfl
@[simp] theorem State.setCore_power (s : State) (c : Core) : (s.setCore c).power = s.power := rfl
@[simp] theorem State.setCore_pf (s : State) (c : Core) : (s.setCore c).pf = s.pf := rfl
@[simp] theorem State.setCore_tenants (s : State) (c : Core) : (s.setCore c).tenants = s.tenants := rfl
@[simp] theorem State.setCore_nodes (s : State) (c : Core) : (s.setCore c).nodes = s.nodes := rfl
@[simp] theorem State.setCore_cseq (s : State) (c : Core) : (s.setCore c).cseq = s.cseq := rfl
@[simp] theorem State.setCore_blocks (s : State) (c : Core) : (s.setCore c).blocks = s.blocks := rfl
@[simp] theorem State.setCore_lanes (s : State) (c : Core) : (s.setCore c).lanes = s.lanes := rfl
@[simp] theorem State.setCore_images (s : State) (c : Core) : (s.setCore c).images = s.images := rfl
@[simp] theorem State.setCore_nextOrder (s : State) (c : Core) : (s.setCore c).nextOrder = s.nextOrder := rfl
@[simp] theorem State.setCore_mem (s : State) (c : Core) : (s.setCore c).mem = s.mem := rfl
@[simp] theorem State.setCore_host (s : State) (c : Core) : (s.setCore c).host = s.host := rfl
@[simp] theorem State.setCore_scratch (s : State) (c : Core) : (s.setCore c).scratch = s.scratch := rfl
@[simp] theorem State.setCore_bstore (s : State) (c : Core) : (s.setCore c).bstore = s.bstore := rfl
@[simp] theorem State.setCore_tiles (s : State) (c : Core) : (s.setCore c).tiles = s.tiles := rfl
@[simp] theorem State.setCore_latent (s : State) (c : Core) : (s.setCore c).latent = s.latent := rfl
@[simp] theorem State.setCore_l1 (s : State) (c : Core) : (s.setCore c).l1 = s.l1 := rfl
@[simp] theorem State.setCore_counters (s : State) (c : Core) : (s.setCore c).counters = s.counters := rfl
@[simp] theorem State.setCore_quadTlb (s : State) (c : Core) : (s.setCore c).quadTlb = s.quadTlb := rfl
@[simp] theorem State.setCore_fabric (s : State) (c : Core) : (s.setCore c).fabric = s.fabric := rfl
@[simp] theorem State.setCore_coll (s : State) (c : Core) : (s.setCore c).coll = s.coll := rfl
@[simp] theorem State.setCore_engines (s : State) (c : Core) : (s.setCore c).engines = s.engines := rfl
@[simp] theorem State.setCore_requests (s : State) (c : Core) : (s.setCore c).requests = s.requests := rfl
@[simp] theorem State.setCore_messages (s : State) (c : Core) : (s.setCore c).messages = s.messages := rfl
@[simp] theorem State.setCore_reads (s : State) (c : Core) : (s.setCore c).reads = s.reads := rfl
@[simp] theorem State.setCore_merged (s : State) (c : Core) : (s.setCore c).merged = s.merged := rfl
@[simp] theorem State.setCore_shed (s : State) (c : Core) : (s.setCore c).shed = s.shed := rfl
@[simp] theorem State.setCore_agenda (s : State) (c : Core) : (s.setCore c).agenda = s.agenda := rfl

@[simp] theorem State.modCore_cycle (s : State) (n : Nat) (f : Core → Core) : (s.modCore n f).cycle = s.cycle := rfl
@[simp] theorem State.modCore_halfNs (s : State) (n : Nat) (f : Core → Core) : (s.modCore n f).halfNs = s.halfNs := rfl
@[simp] theorem State.modCore_boot (s : State) (n : Nat) (f : Core → Core) : (s.modCore n f).boot = s.boot := rfl
@[simp] theorem State.modCore_power (s : State) (n : Nat) (f : Core → Core) : (s.modCore n f).power = s.power := rfl
@[simp] theorem State.modCore_pf (s : State) (n : Nat) (f : Core → Core) : (s.modCore n f).pf = s.pf := rfl
@[simp] theorem State.modCore_tenants (s : State) (n : Nat) (f : Core → Core) : (s.modCore n f).tenants = s.tenants := rfl
@[simp] theorem State.modCore_nodes (s : State) (n : Nat) (f : Core → Core) : (s.modCore n f).nodes = s.nodes := rfl
@[simp] theorem State.modCore_cseq (s : State) (n : Nat) (f : Core → Core) : (s.modCore n f).cseq = s.cseq := rfl
@[simp] theorem State.modCore_blocks (s : State) (n : Nat) (f : Core → Core) : (s.modCore n f).blocks = s.blocks := rfl
@[simp] theorem State.modCore_lanes (s : State) (n : Nat) (f : Core → Core) : (s.modCore n f).lanes = s.lanes := rfl
@[simp] theorem State.modCore_images (s : State) (n : Nat) (f : Core → Core) : (s.modCore n f).images = s.images := rfl
@[simp] theorem State.modCore_nextOrder (s : State) (n : Nat) (f : Core → Core) : (s.modCore n f).nextOrder = s.nextOrder := rfl
@[simp] theorem State.modCore_mem (s : State) (n : Nat) (f : Core → Core) : (s.modCore n f).mem = s.mem := rfl
@[simp] theorem State.modCore_host (s : State) (n : Nat) (f : Core → Core) : (s.modCore n f).host = s.host := rfl
@[simp] theorem State.modCore_scratch (s : State) (n : Nat) (f : Core → Core) : (s.modCore n f).scratch = s.scratch := rfl
@[simp] theorem State.modCore_bstore (s : State) (n : Nat) (f : Core → Core) : (s.modCore n f).bstore = s.bstore := rfl
@[simp] theorem State.modCore_tiles (s : State) (n : Nat) (f : Core → Core) : (s.modCore n f).tiles = s.tiles := rfl
@[simp] theorem State.modCore_latent (s : State) (n : Nat) (f : Core → Core) : (s.modCore n f).latent = s.latent := rfl
@[simp] theorem State.modCore_l1 (s : State) (n : Nat) (f : Core → Core) : (s.modCore n f).l1 = s.l1 := rfl
@[simp] theorem State.modCore_counters (s : State) (n : Nat) (f : Core → Core) : (s.modCore n f).counters = s.counters := rfl
@[simp] theorem State.modCore_quadTlb (s : State) (n : Nat) (f : Core → Core) : (s.modCore n f).quadTlb = s.quadTlb := rfl
@[simp] theorem State.modCore_fabric (s : State) (n : Nat) (f : Core → Core) : (s.modCore n f).fabric = s.fabric := rfl
@[simp] theorem State.modCore_coll (s : State) (n : Nat) (f : Core → Core) : (s.modCore n f).coll = s.coll := rfl
@[simp] theorem State.modCore_engines (s : State) (n : Nat) (f : Core → Core) : (s.modCore n f).engines = s.engines := rfl
@[simp] theorem State.modCore_requests (s : State) (n : Nat) (f : Core → Core) : (s.modCore n f).requests = s.requests := rfl
@[simp] theorem State.modCore_messages (s : State) (n : Nat) (f : Core → Core) : (s.modCore n f).messages = s.messages := rfl
@[simp] theorem State.modCore_reads (s : State) (n : Nat) (f : Core → Core) : (s.modCore n f).reads = s.reads := rfl
@[simp] theorem State.modCore_merged (s : State) (n : Nat) (f : Core → Core) : (s.modCore n f).merged = s.merged := rfl
@[simp] theorem State.modCore_shed (s : State) (n : Nat) (f : Core → Core) : (s.modCore n f).shed = s.shed := rfl
@[simp] theorem State.modCore_agenda (s : State) (n : Nat) (f : Core → Core) : (s.modCore n f).agenda = s.agenda := rfl

@[simp] theorem State.occupy_cycle (s : State) (sh : Shed) (n : Nat) : (s.occupy sh n).cycle = s.cycle := rfl
@[simp] theorem State.occupy_halfNs (s : State) (sh : Shed) (n : Nat) : (s.occupy sh n).halfNs = s.halfNs := rfl
@[simp] theorem State.occupy_boot (s : State) (sh : Shed) (n : Nat) : (s.occupy sh n).boot = s.boot := rfl
@[simp] theorem State.occupy_pf (s : State) (sh : Shed) (n : Nat) : (s.occupy sh n).pf = s.pf := rfl
@[simp] theorem State.occupy_tenants (s : State) (sh : Shed) (n : Nat) : (s.occupy sh n).tenants = s.tenants := rfl
@[simp] theorem State.occupy_nodes (s : State) (sh : Shed) (n : Nat) : (s.occupy sh n).nodes = s.nodes := rfl
@[simp] theorem State.occupy_cseq (s : State) (sh : Shed) (n : Nat) : (s.occupy sh n).cseq = s.cseq := rfl
@[simp] theorem State.occupy_blocks (s : State) (sh : Shed) (n : Nat) : (s.occupy sh n).blocks = s.blocks := rfl
@[simp] theorem State.occupy_lanes (s : State) (sh : Shed) (n : Nat) : (s.occupy sh n).lanes = s.lanes := rfl
@[simp] theorem State.occupy_images (s : State) (sh : Shed) (n : Nat) : (s.occupy sh n).images = s.images := rfl
@[simp] theorem State.occupy_nextOrder (s : State) (sh : Shed) (n : Nat) : (s.occupy sh n).nextOrder = s.nextOrder := rfl
@[simp] theorem State.occupy_mem (s : State) (sh : Shed) (n : Nat) : (s.occupy sh n).mem = s.mem := rfl
@[simp] theorem State.occupy_host (s : State) (sh : Shed) (n : Nat) : (s.occupy sh n).host = s.host := rfl
@[simp] theorem State.occupy_scratch (s : State) (sh : Shed) (n : Nat) : (s.occupy sh n).scratch = s.scratch := rfl
@[simp] theorem State.occupy_bstore (s : State) (sh : Shed) (n : Nat) : (s.occupy sh n).bstore = s.bstore := rfl
@[simp] theorem State.occupy_tiles (s : State) (sh : Shed) (n : Nat) : (s.occupy sh n).tiles = s.tiles := rfl
@[simp] theorem State.occupy_latent (s : State) (sh : Shed) (n : Nat) : (s.occupy sh n).latent = s.latent := rfl
@[simp] theorem State.occupy_l1 (s : State) (sh : Shed) (n : Nat) : (s.occupy sh n).l1 = s.l1 := rfl
@[simp] theorem State.occupy_counters (s : State) (sh : Shed) (n : Nat) : (s.occupy sh n).counters = s.counters := rfl
@[simp] theorem State.occupy_quadTlb (s : State) (sh : Shed) (n : Nat) : (s.occupy sh n).quadTlb = s.quadTlb := rfl
@[simp] theorem State.occupy_fabric (s : State) (sh : Shed) (n : Nat) : (s.occupy sh n).fabric = s.fabric := rfl
@[simp] theorem State.occupy_coll (s : State) (sh : Shed) (n : Nat) : (s.occupy sh n).coll = s.coll := rfl
@[simp] theorem State.occupy_engines (s : State) (sh : Shed) (n : Nat) : (s.occupy sh n).engines = s.engines := rfl
@[simp] theorem State.occupy_requests (s : State) (sh : Shed) (n : Nat) : (s.occupy sh n).requests = s.requests := rfl
@[simp] theorem State.occupy_messages (s : State) (sh : Shed) (n : Nat) : (s.occupy sh n).messages = s.messages := rfl
@[simp] theorem State.occupy_reads (s : State) (sh : Shed) (n : Nat) : (s.occupy sh n).reads = s.reads := rfl
@[simp] theorem State.occupy_merged (s : State) (sh : Shed) (n : Nat) : (s.occupy sh n).merged = s.merged := rfl
@[simp] theorem State.occupy_shed (s : State) (sh : Shed) (n : Nat) : (s.occupy sh n).shed = s.shed := rfl
@[simp] theorem State.occupy_agenda (s : State) (sh : Shed) (n : Nat) : (s.occupy sh n).agenda = s.agenda := rfl

@[simp] theorem State.ibufPut_cycle (s : State) (n : Nat) (k : IBlock) : (s.ibufPut n k).cycle = s.cycle := rfl
@[simp] theorem State.ibufPut_halfNs (s : State) (n : Nat) (k : IBlock) : (s.ibufPut n k).halfNs = s.halfNs := rfl
@[simp] theorem State.ibufPut_boot (s : State) (n : Nat) (k : IBlock) : (s.ibufPut n k).boot = s.boot := rfl
@[simp] theorem State.ibufPut_power (s : State) (n : Nat) (k : IBlock) : (s.ibufPut n k).power = s.power := rfl
@[simp] theorem State.ibufPut_pf (s : State) (n : Nat) (k : IBlock) : (s.ibufPut n k).pf = s.pf := rfl
@[simp] theorem State.ibufPut_tenants (s : State) (n : Nat) (k : IBlock) : (s.ibufPut n k).tenants = s.tenants := rfl
@[simp] theorem State.ibufPut_nodes (s : State) (n : Nat) (k : IBlock) : (s.ibufPut n k).nodes = s.nodes := rfl
@[simp] theorem State.ibufPut_cseq (s : State) (n : Nat) (k : IBlock) : (s.ibufPut n k).cseq = s.cseq := rfl
@[simp] theorem State.ibufPut_blocks (s : State) (n : Nat) (k : IBlock) : (s.ibufPut n k).blocks = s.blocks := rfl
@[simp] theorem State.ibufPut_lanes (s : State) (n : Nat) (k : IBlock) : (s.ibufPut n k).lanes = s.lanes := rfl
@[simp] theorem State.ibufPut_images (s : State) (n : Nat) (k : IBlock) : (s.ibufPut n k).images = s.images := rfl
@[simp] theorem State.ibufPut_nextOrder (s : State) (n : Nat) (k : IBlock) : (s.ibufPut n k).nextOrder = s.nextOrder := rfl
@[simp] theorem State.ibufPut_mem (s : State) (n : Nat) (k : IBlock) : (s.ibufPut n k).mem = s.mem := rfl
@[simp] theorem State.ibufPut_host (s : State) (n : Nat) (k : IBlock) : (s.ibufPut n k).host = s.host := rfl
@[simp] theorem State.ibufPut_scratch (s : State) (n : Nat) (k : IBlock) : (s.ibufPut n k).scratch = s.scratch := rfl
@[simp] theorem State.ibufPut_bstore (s : State) (n : Nat) (k : IBlock) : (s.ibufPut n k).bstore = s.bstore := rfl
@[simp] theorem State.ibufPut_tiles (s : State) (n : Nat) (k : IBlock) : (s.ibufPut n k).tiles = s.tiles := rfl
@[simp] theorem State.ibufPut_latent (s : State) (n : Nat) (k : IBlock) : (s.ibufPut n k).latent = s.latent := rfl
@[simp] theorem State.ibufPut_l1 (s : State) (n : Nat) (k : IBlock) : (s.ibufPut n k).l1 = s.l1 := rfl
@[simp] theorem State.ibufPut_counters (s : State) (n : Nat) (k : IBlock) : (s.ibufPut n k).counters = s.counters := rfl
@[simp] theorem State.ibufPut_quadTlb (s : State) (n : Nat) (k : IBlock) : (s.ibufPut n k).quadTlb = s.quadTlb := rfl
@[simp] theorem State.ibufPut_fabric (s : State) (n : Nat) (k : IBlock) : (s.ibufPut n k).fabric = s.fabric := rfl
@[simp] theorem State.ibufPut_coll (s : State) (n : Nat) (k : IBlock) : (s.ibufPut n k).coll = s.coll := rfl
@[simp] theorem State.ibufPut_engines (s : State) (n : Nat) (k : IBlock) : (s.ibufPut n k).engines = s.engines := rfl
@[simp] theorem State.ibufPut_requests (s : State) (n : Nat) (k : IBlock) : (s.ibufPut n k).requests = s.requests := rfl
@[simp] theorem State.ibufPut_messages (s : State) (n : Nat) (k : IBlock) : (s.ibufPut n k).messages = s.messages := rfl
@[simp] theorem State.ibufPut_reads (s : State) (n : Nat) (k : IBlock) : (s.ibufPut n k).reads = s.reads := rfl
@[simp] theorem State.ibufPut_merged (s : State) (n : Nat) (k : IBlock) : (s.ibufPut n k).merged = s.merged := rfl
@[simp] theorem State.ibufPut_shed (s : State) (n : Nat) (k : IBlock) : (s.ibufPut n k).shed = s.shed := rfl
@[simp] theorem State.ibufPut_agenda (s : State) (n : Nat) (k : IBlock) : (s.ibufPut n k).agenda = s.agenda := rfl

@[simp] theorem State.modBlock_cycle (s : State) (core ent : Nat) (f : Block → Block) : (s.modBlock core ent f).cycle = s.cycle := rfl
@[simp] theorem State.modBlock_halfNs (s : State) (core ent : Nat) (f : Block → Block) : (s.modBlock core ent f).halfNs = s.halfNs := rfl
@[simp] theorem State.modBlock_boot (s : State) (core ent : Nat) (f : Block → Block) : (s.modBlock core ent f).boot = s.boot := rfl
@[simp] theorem State.modBlock_power (s : State) (core ent : Nat) (f : Block → Block) : (s.modBlock core ent f).power = s.power := rfl
@[simp] theorem State.modBlock_pf (s : State) (core ent : Nat) (f : Block → Block) : (s.modBlock core ent f).pf = s.pf := rfl
@[simp] theorem State.modBlock_tenants (s : State) (core ent : Nat) (f : Block → Block) : (s.modBlock core ent f).tenants = s.tenants := rfl
@[simp] theorem State.modBlock_nodes (s : State) (core ent : Nat) (f : Block → Block) : (s.modBlock core ent f).nodes = s.nodes := rfl
@[simp] theorem State.modBlock_cseq (s : State) (core ent : Nat) (f : Block → Block) : (s.modBlock core ent f).cseq = s.cseq := rfl
@[simp] theorem State.modBlock_cores (s : State) (core ent : Nat) (f : Block → Block) : (s.modBlock core ent f).cores = s.cores := rfl
@[simp] theorem State.modBlock_lanes (s : State) (core ent : Nat) (f : Block → Block) : (s.modBlock core ent f).lanes = s.lanes := rfl
@[simp] theorem State.modBlock_images (s : State) (core ent : Nat) (f : Block → Block) : (s.modBlock core ent f).images = s.images := rfl
@[simp] theorem State.modBlock_nextOrder (s : State) (core ent : Nat) (f : Block → Block) : (s.modBlock core ent f).nextOrder = s.nextOrder := rfl
@[simp] theorem State.modBlock_mem (s : State) (core ent : Nat) (f : Block → Block) : (s.modBlock core ent f).mem = s.mem := rfl
@[simp] theorem State.modBlock_host (s : State) (core ent : Nat) (f : Block → Block) : (s.modBlock core ent f).host = s.host := rfl
@[simp] theorem State.modBlock_scratch (s : State) (core ent : Nat) (f : Block → Block) : (s.modBlock core ent f).scratch = s.scratch := rfl
@[simp] theorem State.modBlock_bstore (s : State) (core ent : Nat) (f : Block → Block) : (s.modBlock core ent f).bstore = s.bstore := rfl
@[simp] theorem State.modBlock_tiles (s : State) (core ent : Nat) (f : Block → Block) : (s.modBlock core ent f).tiles = s.tiles := rfl
@[simp] theorem State.modBlock_latent (s : State) (core ent : Nat) (f : Block → Block) : (s.modBlock core ent f).latent = s.latent := rfl
@[simp] theorem State.modBlock_l1 (s : State) (core ent : Nat) (f : Block → Block) : (s.modBlock core ent f).l1 = s.l1 := rfl
@[simp] theorem State.modBlock_counters (s : State) (core ent : Nat) (f : Block → Block) : (s.modBlock core ent f).counters = s.counters := rfl
@[simp] theorem State.modBlock_quadTlb (s : State) (core ent : Nat) (f : Block → Block) : (s.modBlock core ent f).quadTlb = s.quadTlb := rfl
@[simp] theorem State.modBlock_fabric (s : State) (core ent : Nat) (f : Block → Block) : (s.modBlock core ent f).fabric = s.fabric := rfl
@[simp] theorem State.modBlock_coll (s : State) (core ent : Nat) (f : Block → Block) : (s.modBlock core ent f).coll = s.coll := rfl
@[simp] theorem State.modBlock_engines (s : State) (core ent : Nat) (f : Block → Block) : (s.modBlock core ent f).engines = s.engines := rfl
@[simp] theorem State.modBlock_requests (s : State) (core ent : Nat) (f : Block → Block) : (s.modBlock core ent f).requests = s.requests := rfl
@[simp] theorem State.modBlock_messages (s : State) (core ent : Nat) (f : Block → Block) : (s.modBlock core ent f).messages = s.messages := rfl
@[simp] theorem State.modBlock_reads (s : State) (core ent : Nat) (f : Block → Block) : (s.modBlock core ent f).reads = s.reads := rfl
@[simp] theorem State.modBlock_merged (s : State) (core ent : Nat) (f : Block → Block) : (s.modBlock core ent f).merged = s.merged := rfl
@[simp] theorem State.modBlock_shed (s : State) (core ent : Nat) (f : Block → Block) : (s.modBlock core ent f).shed = s.shed := rfl
@[simp] theorem State.modBlock_agenda (s : State) (core ent : Nat) (f : Block → Block) : (s.modBlock core ent f).agenda = s.agenda := rfl

@[simp] theorem State.modThread_cycle (s : State) (id : ThreadId) (f : Thread → Thread) : (s.modThread id f).cycle = s.cycle := rfl
@[simp] theorem State.modThread_halfNs (s : State) (id : ThreadId) (f : Thread → Thread) : (s.modThread id f).halfNs = s.halfNs := rfl
@[simp] theorem State.modThread_boot (s : State) (id : ThreadId) (f : Thread → Thread) : (s.modThread id f).boot = s.boot := rfl
@[simp] theorem State.modThread_power (s : State) (id : ThreadId) (f : Thread → Thread) : (s.modThread id f).power = s.power := rfl
@[simp] theorem State.modThread_pf (s : State) (id : ThreadId) (f : Thread → Thread) : (s.modThread id f).pf = s.pf := rfl
@[simp] theorem State.modThread_tenants (s : State) (id : ThreadId) (f : Thread → Thread) : (s.modThread id f).tenants = s.tenants := rfl
@[simp] theorem State.modThread_nodes (s : State) (id : ThreadId) (f : Thread → Thread) : (s.modThread id f).nodes = s.nodes := rfl
@[simp] theorem State.modThread_cseq (s : State) (id : ThreadId) (f : Thread → Thread) : (s.modThread id f).cseq = s.cseq := rfl
@[simp] theorem State.modThread_cores (s : State) (id : ThreadId) (f : Thread → Thread) : (s.modThread id f).cores = s.cores := rfl
@[simp] theorem State.modThread_lanes (s : State) (id : ThreadId) (f : Thread → Thread) : (s.modThread id f).lanes = s.lanes := rfl
@[simp] theorem State.modThread_images (s : State) (id : ThreadId) (f : Thread → Thread) : (s.modThread id f).images = s.images := rfl
@[simp] theorem State.modThread_nextOrder (s : State) (id : ThreadId) (f : Thread → Thread) : (s.modThread id f).nextOrder = s.nextOrder := rfl
@[simp] theorem State.modThread_mem (s : State) (id : ThreadId) (f : Thread → Thread) : (s.modThread id f).mem = s.mem := rfl
@[simp] theorem State.modThread_host (s : State) (id : ThreadId) (f : Thread → Thread) : (s.modThread id f).host = s.host := rfl
@[simp] theorem State.modThread_scratch (s : State) (id : ThreadId) (f : Thread → Thread) : (s.modThread id f).scratch = s.scratch := rfl
@[simp] theorem State.modThread_bstore (s : State) (id : ThreadId) (f : Thread → Thread) : (s.modThread id f).bstore = s.bstore := rfl
@[simp] theorem State.modThread_tiles (s : State) (id : ThreadId) (f : Thread → Thread) : (s.modThread id f).tiles = s.tiles := rfl
@[simp] theorem State.modThread_latent (s : State) (id : ThreadId) (f : Thread → Thread) : (s.modThread id f).latent = s.latent := rfl
@[simp] theorem State.modThread_l1 (s : State) (id : ThreadId) (f : Thread → Thread) : (s.modThread id f).l1 = s.l1 := rfl
@[simp] theorem State.modThread_counters (s : State) (id : ThreadId) (f : Thread → Thread) : (s.modThread id f).counters = s.counters := rfl
@[simp] theorem State.modThread_quadTlb (s : State) (id : ThreadId) (f : Thread → Thread) : (s.modThread id f).quadTlb = s.quadTlb := rfl
@[simp] theorem State.modThread_fabric (s : State) (id : ThreadId) (f : Thread → Thread) : (s.modThread id f).fabric = s.fabric := rfl
@[simp] theorem State.modThread_coll (s : State) (id : ThreadId) (f : Thread → Thread) : (s.modThread id f).coll = s.coll := rfl
@[simp] theorem State.modThread_engines (s : State) (id : ThreadId) (f : Thread → Thread) : (s.modThread id f).engines = s.engines := rfl
@[simp] theorem State.modThread_requests (s : State) (id : ThreadId) (f : Thread → Thread) : (s.modThread id f).requests = s.requests := rfl
@[simp] theorem State.modThread_messages (s : State) (id : ThreadId) (f : Thread → Thread) : (s.modThread id f).messages = s.messages := rfl
@[simp] theorem State.modThread_reads (s : State) (id : ThreadId) (f : Thread → Thread) : (s.modThread id f).reads = s.reads := rfl
@[simp] theorem State.modThread_merged (s : State) (id : ThreadId) (f : Thread → Thread) : (s.modThread id f).merged = s.merged := rfl
@[simp] theorem State.modThread_shed (s : State) (id : ThreadId) (f : Thread → Thread) : (s.modThread id f).shed = s.shed := rfl
@[simp] theorem State.modThread_agenda (s : State) (id : ThreadId) (f : Thread → Thread) : (s.modThread id f).agenda = s.agenda := rfl

@[simp] theorem State.setLane_cycle (s : State) (l : LaneSt) : (s.setLane l).cycle = s.cycle := rfl
@[simp] theorem State.setLane_halfNs (s : State) (l : LaneSt) : (s.setLane l).halfNs = s.halfNs := rfl
@[simp] theorem State.setLane_boot (s : State) (l : LaneSt) : (s.setLane l).boot = s.boot := rfl
@[simp] theorem State.setLane_power (s : State) (l : LaneSt) : (s.setLane l).power = s.power := rfl
@[simp] theorem State.setLane_pf (s : State) (l : LaneSt) : (s.setLane l).pf = s.pf := rfl
@[simp] theorem State.setLane_tenants (s : State) (l : LaneSt) : (s.setLane l).tenants = s.tenants := rfl
@[simp] theorem State.setLane_nodes (s : State) (l : LaneSt) : (s.setLane l).nodes = s.nodes := rfl
@[simp] theorem State.setLane_cseq (s : State) (l : LaneSt) : (s.setLane l).cseq = s.cseq := rfl
@[simp] theorem State.setLane_blocks (s : State) (l : LaneSt) : (s.setLane l).blocks = s.blocks := rfl
@[simp] theorem State.setLane_cores (s : State) (l : LaneSt) : (s.setLane l).cores = s.cores := rfl
@[simp] theorem State.setLane_images (s : State) (l : LaneSt) : (s.setLane l).images = s.images := rfl
@[simp] theorem State.setLane_nextOrder (s : State) (l : LaneSt) : (s.setLane l).nextOrder = s.nextOrder := rfl
@[simp] theorem State.setLane_mem (s : State) (l : LaneSt) : (s.setLane l).mem = s.mem := rfl
@[simp] theorem State.setLane_host (s : State) (l : LaneSt) : (s.setLane l).host = s.host := rfl
@[simp] theorem State.setLane_scratch (s : State) (l : LaneSt) : (s.setLane l).scratch = s.scratch := rfl
@[simp] theorem State.setLane_bstore (s : State) (l : LaneSt) : (s.setLane l).bstore = s.bstore := rfl
@[simp] theorem State.setLane_tiles (s : State) (l : LaneSt) : (s.setLane l).tiles = s.tiles := rfl
@[simp] theorem State.setLane_latent (s : State) (l : LaneSt) : (s.setLane l).latent = s.latent := rfl
@[simp] theorem State.setLane_l1 (s : State) (l : LaneSt) : (s.setLane l).l1 = s.l1 := rfl
@[simp] theorem State.setLane_counters (s : State) (l : LaneSt) : (s.setLane l).counters = s.counters := rfl
@[simp] theorem State.setLane_quadTlb (s : State) (l : LaneSt) : (s.setLane l).quadTlb = s.quadTlb := rfl
@[simp] theorem State.setLane_fabric (s : State) (l : LaneSt) : (s.setLane l).fabric = s.fabric := rfl
@[simp] theorem State.setLane_coll (s : State) (l : LaneSt) : (s.setLane l).coll = s.coll := rfl
@[simp] theorem State.setLane_engines (s : State) (l : LaneSt) : (s.setLane l).engines = s.engines := rfl
@[simp] theorem State.setLane_requests (s : State) (l : LaneSt) : (s.setLane l).requests = s.requests := rfl
@[simp] theorem State.setLane_messages (s : State) (l : LaneSt) : (s.setLane l).messages = s.messages := rfl
@[simp] theorem State.setLane_reads (s : State) (l : LaneSt) : (s.setLane l).reads = s.reads := rfl
@[simp] theorem State.setLane_merged (s : State) (l : LaneSt) : (s.setLane l).merged = s.merged := rfl
@[simp] theorem State.setLane_shed (s : State) (l : LaneSt) : (s.setLane l).shed = s.shed := rfl
@[simp] theorem State.setLane_agenda (s : State) (l : LaneSt) : (s.setLane l).agenda = s.agenda := rfl

@[simp] theorem State.clearLatches_cycle (s : State) (id : ThreadId) : (s.clearLatches id).cycle = s.cycle := rfl
@[simp] theorem State.clearLatches_halfNs (s : State) (id : ThreadId) : (s.clearLatches id).halfNs = s.halfNs := rfl
@[simp] theorem State.clearLatches_boot (s : State) (id : ThreadId) : (s.clearLatches id).boot = s.boot := rfl
@[simp] theorem State.clearLatches_power (s : State) (id : ThreadId) : (s.clearLatches id).power = s.power := rfl
@[simp] theorem State.clearLatches_pf (s : State) (id : ThreadId) : (s.clearLatches id).pf = s.pf := rfl
@[simp] theorem State.clearLatches_tenants (s : State) (id : ThreadId) : (s.clearLatches id).tenants = s.tenants := rfl
@[simp] theorem State.clearLatches_nodes (s : State) (id : ThreadId) : (s.clearLatches id).nodes = s.nodes := rfl
@[simp] theorem State.clearLatches_cseq (s : State) (id : ThreadId) : (s.clearLatches id).cseq = s.cseq := rfl
@[simp] theorem State.clearLatches_blocks (s : State) (id : ThreadId) : (s.clearLatches id).blocks = s.blocks := rfl
@[simp] theorem State.clearLatches_cores (s : State) (id : ThreadId) : (s.clearLatches id).cores = s.cores := rfl
@[simp] theorem State.clearLatches_images (s : State) (id : ThreadId) : (s.clearLatches id).images = s.images := rfl
@[simp] theorem State.clearLatches_nextOrder (s : State) (id : ThreadId) : (s.clearLatches id).nextOrder = s.nextOrder := rfl
@[simp] theorem State.clearLatches_mem (s : State) (id : ThreadId) : (s.clearLatches id).mem = s.mem := rfl
@[simp] theorem State.clearLatches_host (s : State) (id : ThreadId) : (s.clearLatches id).host = s.host := rfl
@[simp] theorem State.clearLatches_scratch (s : State) (id : ThreadId) : (s.clearLatches id).scratch = s.scratch := rfl
@[simp] theorem State.clearLatches_bstore (s : State) (id : ThreadId) : (s.clearLatches id).bstore = s.bstore := rfl
@[simp] theorem State.clearLatches_tiles (s : State) (id : ThreadId) : (s.clearLatches id).tiles = s.tiles := rfl
@[simp] theorem State.clearLatches_latent (s : State) (id : ThreadId) : (s.clearLatches id).latent = s.latent := rfl
@[simp] theorem State.clearLatches_l1 (s : State) (id : ThreadId) : (s.clearLatches id).l1 = s.l1 := rfl
@[simp] theorem State.clearLatches_counters (s : State) (id : ThreadId) : (s.clearLatches id).counters = s.counters := rfl
@[simp] theorem State.clearLatches_quadTlb (s : State) (id : ThreadId) : (s.clearLatches id).quadTlb = s.quadTlb := rfl
@[simp] theorem State.clearLatches_fabric (s : State) (id : ThreadId) : (s.clearLatches id).fabric = s.fabric := rfl
@[simp] theorem State.clearLatches_coll (s : State) (id : ThreadId) : (s.clearLatches id).coll = s.coll := rfl
@[simp] theorem State.clearLatches_engines (s : State) (id : ThreadId) : (s.clearLatches id).engines = s.engines := rfl
@[simp] theorem State.clearLatches_requests (s : State) (id : ThreadId) : (s.clearLatches id).requests = s.requests := rfl
@[simp] theorem State.clearLatches_messages (s : State) (id : ThreadId) : (s.clearLatches id).messages = s.messages := rfl
@[simp] theorem State.clearLatches_reads (s : State) (id : ThreadId) : (s.clearLatches id).reads = s.reads := rfl
@[simp] theorem State.clearLatches_merged (s : State) (id : ThreadId) : (s.clearLatches id).merged = s.merged := rfl
@[simp] theorem State.clearLatches_shed (s : State) (id : ThreadId) : (s.clearLatches id).shed = s.shed := rfl
@[simp] theorem State.clearLatches_agenda (s : State) (id : ThreadId) : (s.clearLatches id).agenda = s.agenda := rfl

@[simp] theorem State.setEngine_cycle (s : State) (e : Engine) : (s.setEngine e).cycle = s.cycle := rfl
@[simp] theorem State.setEngine_halfNs (s : State) (e : Engine) : (s.setEngine e).halfNs = s.halfNs := rfl
@[simp] theorem State.setEngine_boot (s : State) (e : Engine) : (s.setEngine e).boot = s.boot := rfl
@[simp] theorem State.setEngine_power (s : State) (e : Engine) : (s.setEngine e).power = s.power := rfl
@[simp] theorem State.setEngine_pf (s : State) (e : Engine) : (s.setEngine e).pf = s.pf := rfl
@[simp] theorem State.setEngine_tenants (s : State) (e : Engine) : (s.setEngine e).tenants = s.tenants := rfl
@[simp] theorem State.setEngine_nodes (s : State) (e : Engine) : (s.setEngine e).nodes = s.nodes := rfl
@[simp] theorem State.setEngine_cseq (s : State) (e : Engine) : (s.setEngine e).cseq = s.cseq := rfl
@[simp] theorem State.setEngine_blocks (s : State) (e : Engine) : (s.setEngine e).blocks = s.blocks := rfl
@[simp] theorem State.setEngine_cores (s : State) (e : Engine) : (s.setEngine e).cores = s.cores := rfl
@[simp] theorem State.setEngine_lanes (s : State) (e : Engine) : (s.setEngine e).lanes = s.lanes := rfl
@[simp] theorem State.setEngine_images (s : State) (e : Engine) : (s.setEngine e).images = s.images := rfl
@[simp] theorem State.setEngine_nextOrder (s : State) (e : Engine) : (s.setEngine e).nextOrder = s.nextOrder := rfl
@[simp] theorem State.setEngine_mem (s : State) (e : Engine) : (s.setEngine e).mem = s.mem := rfl
@[simp] theorem State.setEngine_host (s : State) (e : Engine) : (s.setEngine e).host = s.host := rfl
@[simp] theorem State.setEngine_scratch (s : State) (e : Engine) : (s.setEngine e).scratch = s.scratch := rfl
@[simp] theorem State.setEngine_bstore (s : State) (e : Engine) : (s.setEngine e).bstore = s.bstore := rfl
@[simp] theorem State.setEngine_tiles (s : State) (e : Engine) : (s.setEngine e).tiles = s.tiles := rfl
@[simp] theorem State.setEngine_latent (s : State) (e : Engine) : (s.setEngine e).latent = s.latent := rfl
@[simp] theorem State.setEngine_l1 (s : State) (e : Engine) : (s.setEngine e).l1 = s.l1 := rfl
@[simp] theorem State.setEngine_counters (s : State) (e : Engine) : (s.setEngine e).counters = s.counters := rfl
@[simp] theorem State.setEngine_quadTlb (s : State) (e : Engine) : (s.setEngine e).quadTlb = s.quadTlb := rfl
@[simp] theorem State.setEngine_fabric (s : State) (e : Engine) : (s.setEngine e).fabric = s.fabric := rfl
@[simp] theorem State.setEngine_coll (s : State) (e : Engine) : (s.setEngine e).coll = s.coll := rfl
@[simp] theorem State.setEngine_requests (s : State) (e : Engine) : (s.setEngine e).requests = s.requests := rfl
@[simp] theorem State.setEngine_messages (s : State) (e : Engine) : (s.setEngine e).messages = s.messages := rfl
@[simp] theorem State.setEngine_reads (s : State) (e : Engine) : (s.setEngine e).reads = s.reads := rfl
@[simp] theorem State.setEngine_merged (s : State) (e : Engine) : (s.setEngine e).merged = s.merged := rfl
@[simp] theorem State.setEngine_shed (s : State) (e : Engine) : (s.setEngine e).shed = s.shed := rfl
@[simp] theorem State.setEngine_agenda (s : State) (e : Engine) : (s.setEngine e).agenda = s.agenda := rfl

@[simp] theorem State.modEngine_cycle (s : State) (q : Nat) (f : Engine → Engine) : (s.modEngine q f).cycle = s.cycle := rfl
@[simp] theorem State.modEngine_halfNs (s : State) (q : Nat) (f : Engine → Engine) : (s.modEngine q f).halfNs = s.halfNs := rfl
@[simp] theorem State.modEngine_boot (s : State) (q : Nat) (f : Engine → Engine) : (s.modEngine q f).boot = s.boot := rfl
@[simp] theorem State.modEngine_power (s : State) (q : Nat) (f : Engine → Engine) : (s.modEngine q f).power = s.power := rfl
@[simp] theorem State.modEngine_pf (s : State) (q : Nat) (f : Engine → Engine) : (s.modEngine q f).pf = s.pf := rfl
@[simp] theorem State.modEngine_tenants (s : State) (q : Nat) (f : Engine → Engine) : (s.modEngine q f).tenants = s.tenants := rfl
@[simp] theorem State.modEngine_nodes (s : State) (q : Nat) (f : Engine → Engine) : (s.modEngine q f).nodes = s.nodes := rfl
@[simp] theorem State.modEngine_cseq (s : State) (q : Nat) (f : Engine → Engine) : (s.modEngine q f).cseq = s.cseq := rfl
@[simp] theorem State.modEngine_blocks (s : State) (q : Nat) (f : Engine → Engine) : (s.modEngine q f).blocks = s.blocks := rfl
@[simp] theorem State.modEngine_cores (s : State) (q : Nat) (f : Engine → Engine) : (s.modEngine q f).cores = s.cores := rfl
@[simp] theorem State.modEngine_lanes (s : State) (q : Nat) (f : Engine → Engine) : (s.modEngine q f).lanes = s.lanes := rfl
@[simp] theorem State.modEngine_images (s : State) (q : Nat) (f : Engine → Engine) : (s.modEngine q f).images = s.images := rfl
@[simp] theorem State.modEngine_nextOrder (s : State) (q : Nat) (f : Engine → Engine) : (s.modEngine q f).nextOrder = s.nextOrder := rfl
@[simp] theorem State.modEngine_mem (s : State) (q : Nat) (f : Engine → Engine) : (s.modEngine q f).mem = s.mem := rfl
@[simp] theorem State.modEngine_host (s : State) (q : Nat) (f : Engine → Engine) : (s.modEngine q f).host = s.host := rfl
@[simp] theorem State.modEngine_scratch (s : State) (q : Nat) (f : Engine → Engine) : (s.modEngine q f).scratch = s.scratch := rfl
@[simp] theorem State.modEngine_bstore (s : State) (q : Nat) (f : Engine → Engine) : (s.modEngine q f).bstore = s.bstore := rfl
@[simp] theorem State.modEngine_tiles (s : State) (q : Nat) (f : Engine → Engine) : (s.modEngine q f).tiles = s.tiles := rfl
@[simp] theorem State.modEngine_latent (s : State) (q : Nat) (f : Engine → Engine) : (s.modEngine q f).latent = s.latent := rfl
@[simp] theorem State.modEngine_l1 (s : State) (q : Nat) (f : Engine → Engine) : (s.modEngine q f).l1 = s.l1 := rfl
@[simp] theorem State.modEngine_counters (s : State) (q : Nat) (f : Engine → Engine) : (s.modEngine q f).counters = s.counters := rfl
@[simp] theorem State.modEngine_quadTlb (s : State) (q : Nat) (f : Engine → Engine) : (s.modEngine q f).quadTlb = s.quadTlb := rfl
@[simp] theorem State.modEngine_fabric (s : State) (q : Nat) (f : Engine → Engine) : (s.modEngine q f).fabric = s.fabric := rfl
@[simp] theorem State.modEngine_coll (s : State) (q : Nat) (f : Engine → Engine) : (s.modEngine q f).coll = s.coll := rfl
@[simp] theorem State.modEngine_requests (s : State) (q : Nat) (f : Engine → Engine) : (s.modEngine q f).requests = s.requests := rfl
@[simp] theorem State.modEngine_messages (s : State) (q : Nat) (f : Engine → Engine) : (s.modEngine q f).messages = s.messages := rfl
@[simp] theorem State.modEngine_reads (s : State) (q : Nat) (f : Engine → Engine) : (s.modEngine q f).reads = s.reads := rfl
@[simp] theorem State.modEngine_merged (s : State) (q : Nat) (f : Engine → Engine) : (s.modEngine q f).merged = s.merged := rfl
@[simp] theorem State.modEngine_shed (s : State) (q : Nat) (f : Engine → Engine) : (s.modEngine q f).shed = s.shed := rfl
@[simp] theorem State.modEngine_agenda (s : State) (q : Nat) (f : Engine → Engine) : (s.modEngine q f).agenda = s.agenda := rfl

@[simp] theorem State.setNode_cycle (s : State) (x : Node) : (s.setNode x).cycle = s.cycle := rfl
@[simp] theorem State.setNode_halfNs (s : State) (x : Node) : (s.setNode x).halfNs = s.halfNs := rfl
@[simp] theorem State.setNode_boot (s : State) (x : Node) : (s.setNode x).boot = s.boot := rfl
@[simp] theorem State.setNode_power (s : State) (x : Node) : (s.setNode x).power = s.power := rfl
@[simp] theorem State.setNode_pf (s : State) (x : Node) : (s.setNode x).pf = s.pf := rfl
@[simp] theorem State.setNode_tenants (s : State) (x : Node) : (s.setNode x).tenants = s.tenants := rfl
@[simp] theorem State.setNode_cseq (s : State) (x : Node) : (s.setNode x).cseq = s.cseq := rfl
@[simp] theorem State.setNode_blocks (s : State) (x : Node) : (s.setNode x).blocks = s.blocks := rfl
@[simp] theorem State.setNode_cores (s : State) (x : Node) : (s.setNode x).cores = s.cores := rfl
@[simp] theorem State.setNode_lanes (s : State) (x : Node) : (s.setNode x).lanes = s.lanes := rfl
@[simp] theorem State.setNode_images (s : State) (x : Node) : (s.setNode x).images = s.images := rfl
@[simp] theorem State.setNode_nextOrder (s : State) (x : Node) : (s.setNode x).nextOrder = s.nextOrder := rfl
@[simp] theorem State.setNode_mem (s : State) (x : Node) : (s.setNode x).mem = s.mem := rfl
@[simp] theorem State.setNode_host (s : State) (x : Node) : (s.setNode x).host = s.host := rfl
@[simp] theorem State.setNode_scratch (s : State) (x : Node) : (s.setNode x).scratch = s.scratch := rfl
@[simp] theorem State.setNode_bstore (s : State) (x : Node) : (s.setNode x).bstore = s.bstore := rfl
@[simp] theorem State.setNode_tiles (s : State) (x : Node) : (s.setNode x).tiles = s.tiles := rfl
@[simp] theorem State.setNode_latent (s : State) (x : Node) : (s.setNode x).latent = s.latent := rfl
@[simp] theorem State.setNode_l1 (s : State) (x : Node) : (s.setNode x).l1 = s.l1 := rfl
@[simp] theorem State.setNode_counters (s : State) (x : Node) : (s.setNode x).counters = s.counters := rfl
@[simp] theorem State.setNode_quadTlb (s : State) (x : Node) : (s.setNode x).quadTlb = s.quadTlb := rfl
@[simp] theorem State.setNode_fabric (s : State) (x : Node) : (s.setNode x).fabric = s.fabric := rfl
@[simp] theorem State.setNode_coll (s : State) (x : Node) : (s.setNode x).coll = s.coll := rfl
@[simp] theorem State.setNode_engines (s : State) (x : Node) : (s.setNode x).engines = s.engines := rfl
@[simp] theorem State.setNode_requests (s : State) (x : Node) : (s.setNode x).requests = s.requests := rfl
@[simp] theorem State.setNode_messages (s : State) (x : Node) : (s.setNode x).messages = s.messages := rfl
@[simp] theorem State.setNode_reads (s : State) (x : Node) : (s.setNode x).reads = s.reads := rfl
@[simp] theorem State.setNode_merged (s : State) (x : Node) : (s.setNode x).merged = s.merged := rfl
@[simp] theorem State.setNode_shed (s : State) (x : Node) : (s.setNode x).shed = s.shed := rfl
@[simp] theorem State.setNode_agenda (s : State) (x : Node) : (s.setNode x).agenda = s.agenda := rfl

@[simp] theorem State.modNode_cycle (s : State) (n : Nat) (f : Node → Node) : (s.modNode n f).cycle = s.cycle := rfl
@[simp] theorem State.modNode_halfNs (s : State) (n : Nat) (f : Node → Node) : (s.modNode n f).halfNs = s.halfNs := rfl
@[simp] theorem State.modNode_boot (s : State) (n : Nat) (f : Node → Node) : (s.modNode n f).boot = s.boot := rfl
@[simp] theorem State.modNode_power (s : State) (n : Nat) (f : Node → Node) : (s.modNode n f).power = s.power := rfl
@[simp] theorem State.modNode_pf (s : State) (n : Nat) (f : Node → Node) : (s.modNode n f).pf = s.pf := rfl
@[simp] theorem State.modNode_tenants (s : State) (n : Nat) (f : Node → Node) : (s.modNode n f).tenants = s.tenants := rfl
@[simp] theorem State.modNode_cseq (s : State) (n : Nat) (f : Node → Node) : (s.modNode n f).cseq = s.cseq := rfl
@[simp] theorem State.modNode_blocks (s : State) (n : Nat) (f : Node → Node) : (s.modNode n f).blocks = s.blocks := rfl
@[simp] theorem State.modNode_cores (s : State) (n : Nat) (f : Node → Node) : (s.modNode n f).cores = s.cores := rfl
@[simp] theorem State.modNode_lanes (s : State) (n : Nat) (f : Node → Node) : (s.modNode n f).lanes = s.lanes := rfl
@[simp] theorem State.modNode_images (s : State) (n : Nat) (f : Node → Node) : (s.modNode n f).images = s.images := rfl
@[simp] theorem State.modNode_nextOrder (s : State) (n : Nat) (f : Node → Node) : (s.modNode n f).nextOrder = s.nextOrder := rfl
@[simp] theorem State.modNode_mem (s : State) (n : Nat) (f : Node → Node) : (s.modNode n f).mem = s.mem := rfl
@[simp] theorem State.modNode_host (s : State) (n : Nat) (f : Node → Node) : (s.modNode n f).host = s.host := rfl
@[simp] theorem State.modNode_scratch (s : State) (n : Nat) (f : Node → Node) : (s.modNode n f).scratch = s.scratch := rfl
@[simp] theorem State.modNode_bstore (s : State) (n : Nat) (f : Node → Node) : (s.modNode n f).bstore = s.bstore := rfl
@[simp] theorem State.modNode_tiles (s : State) (n : Nat) (f : Node → Node) : (s.modNode n f).tiles = s.tiles := rfl
@[simp] theorem State.modNode_latent (s : State) (n : Nat) (f : Node → Node) : (s.modNode n f).latent = s.latent := rfl
@[simp] theorem State.modNode_l1 (s : State) (n : Nat) (f : Node → Node) : (s.modNode n f).l1 = s.l1 := rfl
@[simp] theorem State.modNode_counters (s : State) (n : Nat) (f : Node → Node) : (s.modNode n f).counters = s.counters := rfl
@[simp] theorem State.modNode_quadTlb (s : State) (n : Nat) (f : Node → Node) : (s.modNode n f).quadTlb = s.quadTlb := rfl
@[simp] theorem State.modNode_fabric (s : State) (n : Nat) (f : Node → Node) : (s.modNode n f).fabric = s.fabric := rfl
@[simp] theorem State.modNode_coll (s : State) (n : Nat) (f : Node → Node) : (s.modNode n f).coll = s.coll := rfl
@[simp] theorem State.modNode_engines (s : State) (n : Nat) (f : Node → Node) : (s.modNode n f).engines = s.engines := rfl
@[simp] theorem State.modNode_requests (s : State) (n : Nat) (f : Node → Node) : (s.modNode n f).requests = s.requests := rfl
@[simp] theorem State.modNode_messages (s : State) (n : Nat) (f : Node → Node) : (s.modNode n f).messages = s.messages := rfl
@[simp] theorem State.modNode_reads (s : State) (n : Nat) (f : Node → Node) : (s.modNode n f).reads = s.reads := rfl
@[simp] theorem State.modNode_merged (s : State) (n : Nat) (f : Node → Node) : (s.modNode n f).merged = s.merged := rfl
@[simp] theorem State.modNode_shed (s : State) (n : Nat) (f : Node → Node) : (s.modNode n f).shed = s.shed := rfl
@[simp] theorem State.modNode_agenda (s : State) (n : Nat) (f : Node → Node) : (s.modNode n f).agenda = s.agenda := rfl

@[simp] theorem State.setTile_cycle (s : State) (q o : Nat) (e : Word) : (s.setTile q o e).cycle = s.cycle := rfl
@[simp] theorem State.setTile_halfNs (s : State) (q o : Nat) (e : Word) : (s.setTile q o e).halfNs = s.halfNs := rfl
@[simp] theorem State.setTile_boot (s : State) (q o : Nat) (e : Word) : (s.setTile q o e).boot = s.boot := rfl
@[simp] theorem State.setTile_power (s : State) (q o : Nat) (e : Word) : (s.setTile q o e).power = s.power := rfl
@[simp] theorem State.setTile_pf (s : State) (q o : Nat) (e : Word) : (s.setTile q o e).pf = s.pf := rfl
@[simp] theorem State.setTile_tenants (s : State) (q o : Nat) (e : Word) : (s.setTile q o e).tenants = s.tenants := rfl
@[simp] theorem State.setTile_nodes (s : State) (q o : Nat) (e : Word) : (s.setTile q o e).nodes = s.nodes := rfl
@[simp] theorem State.setTile_cseq (s : State) (q o : Nat) (e : Word) : (s.setTile q o e).cseq = s.cseq := rfl
@[simp] theorem State.setTile_blocks (s : State) (q o : Nat) (e : Word) : (s.setTile q o e).blocks = s.blocks := rfl
@[simp] theorem State.setTile_cores (s : State) (q o : Nat) (e : Word) : (s.setTile q o e).cores = s.cores := rfl
@[simp] theorem State.setTile_lanes (s : State) (q o : Nat) (e : Word) : (s.setTile q o e).lanes = s.lanes := rfl
@[simp] theorem State.setTile_images (s : State) (q o : Nat) (e : Word) : (s.setTile q o e).images = s.images := rfl
@[simp] theorem State.setTile_nextOrder (s : State) (q o : Nat) (e : Word) : (s.setTile q o e).nextOrder = s.nextOrder := rfl
@[simp] theorem State.setTile_mem (s : State) (q o : Nat) (e : Word) : (s.setTile q o e).mem = s.mem := rfl
@[simp] theorem State.setTile_host (s : State) (q o : Nat) (e : Word) : (s.setTile q o e).host = s.host := rfl
@[simp] theorem State.setTile_scratch (s : State) (q o : Nat) (e : Word) : (s.setTile q o e).scratch = s.scratch := rfl
@[simp] theorem State.setTile_bstore (s : State) (q o : Nat) (e : Word) : (s.setTile q o e).bstore = s.bstore := rfl
@[simp] theorem State.setTile_latent (s : State) (q o : Nat) (e : Word) : (s.setTile q o e).latent = s.latent := rfl
@[simp] theorem State.setTile_l1 (s : State) (q o : Nat) (e : Word) : (s.setTile q o e).l1 = s.l1 := rfl
@[simp] theorem State.setTile_counters (s : State) (q o : Nat) (e : Word) : (s.setTile q o e).counters = s.counters := rfl
@[simp] theorem State.setTile_quadTlb (s : State) (q o : Nat) (e : Word) : (s.setTile q o e).quadTlb = s.quadTlb := rfl
@[simp] theorem State.setTile_fabric (s : State) (q o : Nat) (e : Word) : (s.setTile q o e).fabric = s.fabric := rfl
@[simp] theorem State.setTile_coll (s : State) (q o : Nat) (e : Word) : (s.setTile q o e).coll = s.coll := rfl
@[simp] theorem State.setTile_engines (s : State) (q o : Nat) (e : Word) : (s.setTile q o e).engines = s.engines := rfl
@[simp] theorem State.setTile_requests (s : State) (q o : Nat) (e : Word) : (s.setTile q o e).requests = s.requests := rfl
@[simp] theorem State.setTile_messages (s : State) (q o : Nat) (e : Word) : (s.setTile q o e).messages = s.messages := rfl
@[simp] theorem State.setTile_reads (s : State) (q o : Nat) (e : Word) : (s.setTile q o e).reads = s.reads := rfl
@[simp] theorem State.setTile_merged (s : State) (q o : Nat) (e : Word) : (s.setTile q o e).merged = s.merged := rfl
@[simp] theorem State.setTile_shed (s : State) (q o : Nat) (e : Word) : (s.setTile q o e).shed = s.shed := rfl
@[simp] theorem State.setTile_agenda (s : State) (q o : Nat) (e : Word) : (s.setTile q o e).agenda = s.agenda := rfl

@[simp] theorem State.putLine_cycle (s : State) (l : L1Line) : (s.putLine l).cycle = s.cycle := rfl
@[simp] theorem State.putLine_halfNs (s : State) (l : L1Line) : (s.putLine l).halfNs = s.halfNs := rfl
@[simp] theorem State.putLine_boot (s : State) (l : L1Line) : (s.putLine l).boot = s.boot := rfl
@[simp] theorem State.putLine_power (s : State) (l : L1Line) : (s.putLine l).power = s.power := rfl
@[simp] theorem State.putLine_pf (s : State) (l : L1Line) : (s.putLine l).pf = s.pf := rfl
@[simp] theorem State.putLine_tenants (s : State) (l : L1Line) : (s.putLine l).tenants = s.tenants := rfl
@[simp] theorem State.putLine_nodes (s : State) (l : L1Line) : (s.putLine l).nodes = s.nodes := rfl
@[simp] theorem State.putLine_cseq (s : State) (l : L1Line) : (s.putLine l).cseq = s.cseq := rfl
@[simp] theorem State.putLine_blocks (s : State) (l : L1Line) : (s.putLine l).blocks = s.blocks := rfl
@[simp] theorem State.putLine_cores (s : State) (l : L1Line) : (s.putLine l).cores = s.cores := rfl
@[simp] theorem State.putLine_lanes (s : State) (l : L1Line) : (s.putLine l).lanes = s.lanes := rfl
@[simp] theorem State.putLine_images (s : State) (l : L1Line) : (s.putLine l).images = s.images := rfl
@[simp] theorem State.putLine_nextOrder (s : State) (l : L1Line) : (s.putLine l).nextOrder = s.nextOrder := rfl
@[simp] theorem State.putLine_mem (s : State) (l : L1Line) : (s.putLine l).mem = s.mem := rfl
@[simp] theorem State.putLine_host (s : State) (l : L1Line) : (s.putLine l).host = s.host := rfl
@[simp] theorem State.putLine_scratch (s : State) (l : L1Line) : (s.putLine l).scratch = s.scratch := rfl
@[simp] theorem State.putLine_bstore (s : State) (l : L1Line) : (s.putLine l).bstore = s.bstore := rfl
@[simp] theorem State.putLine_tiles (s : State) (l : L1Line) : (s.putLine l).tiles = s.tiles := rfl
@[simp] theorem State.putLine_latent (s : State) (l : L1Line) : (s.putLine l).latent = s.latent := rfl
@[simp] theorem State.putLine_counters (s : State) (l : L1Line) : (s.putLine l).counters = s.counters := rfl
@[simp] theorem State.putLine_quadTlb (s : State) (l : L1Line) : (s.putLine l).quadTlb = s.quadTlb := rfl
@[simp] theorem State.putLine_fabric (s : State) (l : L1Line) : (s.putLine l).fabric = s.fabric := rfl
@[simp] theorem State.putLine_coll (s : State) (l : L1Line) : (s.putLine l).coll = s.coll := rfl
@[simp] theorem State.putLine_engines (s : State) (l : L1Line) : (s.putLine l).engines = s.engines := rfl
@[simp] theorem State.putLine_requests (s : State) (l : L1Line) : (s.putLine l).requests = s.requests := rfl
@[simp] theorem State.putLine_messages (s : State) (l : L1Line) : (s.putLine l).messages = s.messages := rfl
@[simp] theorem State.putLine_reads (s : State) (l : L1Line) : (s.putLine l).reads = s.reads := rfl
@[simp] theorem State.putLine_merged (s : State) (l : L1Line) : (s.putLine l).merged = s.merged := rfl
@[simp] theorem State.putLine_shed (s : State) (l : L1Line) : (s.putLine l).shed = s.shed := rfl
@[simp] theorem State.putLine_agenda (s : State) (l : L1Line) : (s.putLine l).agenda = s.agenda := rfl

@[simp] theorem State.dropLine_cycle (s : State) (core line : Nat) : (s.dropLine core line).cycle = s.cycle := rfl
@[simp] theorem State.dropLine_halfNs (s : State) (core line : Nat) : (s.dropLine core line).halfNs = s.halfNs := rfl
@[simp] theorem State.dropLine_boot (s : State) (core line : Nat) : (s.dropLine core line).boot = s.boot := rfl
@[simp] theorem State.dropLine_power (s : State) (core line : Nat) : (s.dropLine core line).power = s.power := rfl
@[simp] theorem State.dropLine_pf (s : State) (core line : Nat) : (s.dropLine core line).pf = s.pf := rfl
@[simp] theorem State.dropLine_tenants (s : State) (core line : Nat) : (s.dropLine core line).tenants = s.tenants := rfl
@[simp] theorem State.dropLine_nodes (s : State) (core line : Nat) : (s.dropLine core line).nodes = s.nodes := rfl
@[simp] theorem State.dropLine_cseq (s : State) (core line : Nat) : (s.dropLine core line).cseq = s.cseq := rfl
@[simp] theorem State.dropLine_blocks (s : State) (core line : Nat) : (s.dropLine core line).blocks = s.blocks := rfl
@[simp] theorem State.dropLine_cores (s : State) (core line : Nat) : (s.dropLine core line).cores = s.cores := rfl
@[simp] theorem State.dropLine_lanes (s : State) (core line : Nat) : (s.dropLine core line).lanes = s.lanes := rfl
@[simp] theorem State.dropLine_images (s : State) (core line : Nat) : (s.dropLine core line).images = s.images := rfl
@[simp] theorem State.dropLine_nextOrder (s : State) (core line : Nat) : (s.dropLine core line).nextOrder = s.nextOrder := rfl
@[simp] theorem State.dropLine_mem (s : State) (core line : Nat) : (s.dropLine core line).mem = s.mem := rfl
@[simp] theorem State.dropLine_host (s : State) (core line : Nat) : (s.dropLine core line).host = s.host := rfl
@[simp] theorem State.dropLine_scratch (s : State) (core line : Nat) : (s.dropLine core line).scratch = s.scratch := rfl
@[simp] theorem State.dropLine_bstore (s : State) (core line : Nat) : (s.dropLine core line).bstore = s.bstore := rfl
@[simp] theorem State.dropLine_tiles (s : State) (core line : Nat) : (s.dropLine core line).tiles = s.tiles := rfl
@[simp] theorem State.dropLine_latent (s : State) (core line : Nat) : (s.dropLine core line).latent = s.latent := rfl
@[simp] theorem State.dropLine_counters (s : State) (core line : Nat) : (s.dropLine core line).counters = s.counters := rfl
@[simp] theorem State.dropLine_quadTlb (s : State) (core line : Nat) : (s.dropLine core line).quadTlb = s.quadTlb := rfl
@[simp] theorem State.dropLine_fabric (s : State) (core line : Nat) : (s.dropLine core line).fabric = s.fabric := rfl
@[simp] theorem State.dropLine_coll (s : State) (core line : Nat) : (s.dropLine core line).coll = s.coll := rfl
@[simp] theorem State.dropLine_engines (s : State) (core line : Nat) : (s.dropLine core line).engines = s.engines := rfl
@[simp] theorem State.dropLine_requests (s : State) (core line : Nat) : (s.dropLine core line).requests = s.requests := rfl
@[simp] theorem State.dropLine_messages (s : State) (core line : Nat) : (s.dropLine core line).messages = s.messages := rfl
@[simp] theorem State.dropLine_reads (s : State) (core line : Nat) : (s.dropLine core line).reads = s.reads := rfl
@[simp] theorem State.dropLine_merged (s : State) (core line : Nat) : (s.dropLine core line).merged = s.merged := rfl
@[simp] theorem State.dropLine_shed (s : State) (core line : Nat) : (s.dropLine core line).shed = s.shed := rfl
@[simp] theorem State.dropLine_agenda (s : State) (core line : Nat) : (s.dropLine core line).agenda = s.agenda := rfl

end Sys2Proof.Machine
end

