-- ==== Sys2Proof/Laws/Lookup.lean ====
section
/-! SUPPORT. What blocks, threads, cores and lanes read after the updates of a state. -/

namespace Sys2Proof.Machine

/-! ## Lists -/

theorem modifyAt_get {α : Type} (f : α → α) (xs : List α) (n m : Nat) :
    (modifyAt f xs n)[m]? = if m = n then xs[m]?.map f else xs[m]? := by
  induction xs generalizing n m with
  | nil => simp [modifyAt]
  | cons x xs ih =>
    cases n with
    | zero => cases m <;> simp [modifyAt]
    | succ n => cases m with
      | zero => simp [modifyAt]
      | succ m => simpa [modifyAt] using ih n m

theorem find?_map_keep {α : Type} (p : α → Bool) (f : α → α) (h : ∀ x, p (f x) = p x) (xs : List α) :
    (xs.map f).find? p = (xs.find? p).map f := by
  induction xs with
  | nil => rfl
  | cons x xs ih =>
    simp only [List.map_cons, List.find?_cons, h, ih]
    cases p x <;> rfl

/-! ## Blocks and threads -/

/-- A change to one block shows in that block alone. -/
theorem State.block?_modBlock (s : State) (core ent : Nat) (f : Block → Block)
    (hc : ∀ b, (f b).core = b.core) (he : ∀ b, (f b).ent = b.ent) (core' ent' : Nat) :
    (s.modBlock core ent f).block? core' ent' =
      if core' = core ∧ ent' = ent then (s.block? core' ent').map f else s.block? core' ent' := by
  have key := find?_map_keep (fun b : Block => b.core == core' && b.ent == ent')
    (fun b => if b.core == core && b.ent == ent then f b else b) (by
      intro b
      by_cases h : (b.core == core && b.ent == ent) = true <;> simp [h, hc, he]) s.blocks
  rw [State.block?, State.modBlock, key, State.block?]
  cases hb : s.blocks.find? (fun b : Block => b.core == core' && b.ent == ent') with
  | none => split <;> rfl
  | some b =>
    have hp := List.find?_some hb
    simp only [Bool.and_eq_true, beq_iff_eq] at hp
    simp only [Option.map_some, hp.1, hp.2, Bool.and_eq_true, beq_iff_eq]
    split <;> rfl

theorem State.block?_modThread (s : State) (id : ThreadId) (f : Thread → Thread) (core ent : Nat) :
    (s.modThread id f).block? core ent =
      if core = id.core ∧ ent = id.ent then (s.block? core ent).map (fun b => b.modThread id.tid f) else s.block? core ent :=
  s.block?_modBlock id.core id.ent (fun b => b.modThread id.tid f) (fun _ => rfl) (fun _ => rfl) core ent

/-- A change to one thread shows in that thread alone. -/
theorem State.thread?_modThread (s : State) (id id' : ThreadId) (f : Thread → Thread) :
    (s.modThread id f).thread? id' = if id' = id then (s.thread? id').map f else s.thread? id' := by
  unfold State.thread?
  rw [State.block?_modThread]
  by_cases h : id'.core = id.core ∧ id'.ent = id.ent
  · rw [if_pos h]
    cases hb : s.block? id'.core id'.ent with
    | none => simp
    | some b =>
      simp only [Option.map_some, Block.modThread, modifyAt_get]
      by_cases ht : id'.tid = id.tid
      · have : id' = id := by cases id; cases id'; simp_all
        simp [this]
      · have : id' ≠ id := fun e => ht (by rw [e])
        simp [ht, this]
  · rw [if_neg h]
    have : id' ≠ id := fun e => h (by rw [e]; exact ⟨rfl, rfl⟩)
    simp [this]

theorem State.thread?_modThread_same (s : State) (id : ThreadId) (f : Thread → Thread) :
    (s.modThread id f).thread? id = (s.thread? id).map f := by simp [State.thread?_modThread]

theorem State.bare_modThread (s : State) (id : ThreadId) (f : Thread → Thread) (core ent : Nat) :
    ((s.modThread id f).block? core ent).map Block.bare = (s.block? core ent).map Block.bare := by
  rw [State.block?_modThread]
  split
  · cases s.block? core ent <;> rfl
  · rfl

/-- Two changes of one thread are one. -/
theorem State.modThread_modThread (s : State) (id : ThreadId) (f g : Thread → Thread) :
    (s.modThread id f).modThread id g = s.modThread id (fun th => g (f th)) := by
  have hm : ∀ xs : List Thread, modifyAt g (modifyAt f xs id.tid) id.tid = modifyAt (fun th => g (f th)) xs id.tid := by
    intro xs
    generalize id.tid = n
    induction xs generalizing n with
    | nil => simp [modifyAt]
    | cons x xs ih => cases n with
      | zero => simp [modifyAt]
      | succ n => simp [modifyAt, ih]
  simp only [State.modThread, State.modBlock, List.map_map]
  congr 1
  apply List.map_congr_left
  intro b _
  by_cases h : (b.core == id.core && b.ent == id.ent) = true
  · simp [Function.comp, h, Block.modThread, hm]
  · simp [Function.comp, h]

theorem State.modThread_setLane (s : State) (id : ThreadId) (f : Thread → Thread) (l : LaneSt) :
    (s.setLane l).modThread id f = (s.modThread id f).setLane l := rfl

@[simp] theorem State.thread?_setLane (s : State) (l : LaneSt) (id : ThreadId) : (s.setLane l).thread? id = s.thread? id := rfl
@[simp] theorem State.block?_setLane (s : State) (l : LaneSt) (a b : Nat) : (s.setLane l).block? a b = s.block? a b := rfl
@[simp] theorem State.thread?_occupy (s : State) (sh : Shed) (n : Nat) (id : ThreadId) : (s.occupy sh n).thread? id = s.thread? id := rfl
@[simp] theorem State.block?_occupy (s : State) (sh : Shed) (n a b : Nat) : (s.occupy sh n).block? a b = s.block? a b := rfl
@[simp] theorem State.thread?_ibufPut (s : State) (n : Nat) (k : IBlock) (id : ThreadId) : (s.ibufPut n k).thread? id = s.thread? id := rfl
@[simp] theorem State.block?_ibufPut (s : State) (n a b : Nat) (k : IBlock) : (s.ibufPut n k).block? a b = s.block? a b := rfl

/-! ## Cores -/

theorem putCore_find (cs : List Core) (c : Core) (n : Nat) :
    (putCore cs c).find? (fun x => x.num == n) = if n = c.num then some c else cs.find? (fun x => x.num == n) := by
  induction cs with
  | nil =>
    by_cases h : n = c.num
    · simp [putCore, h]
    · have : (c.num == n) = false := by simpa using fun e => h e.symm
      simp [putCore, h, this]
  | cons d ds ih =>
    unfold putCore
    by_cases hd : d.num = c.num
    · rw [if_pos hd]
      by_cases h : n = c.num
      · simp [h]
      · have h1 : (c.num == n) = false := by simpa using fun e => h e.symm
        have h2 : (d.num == n) = false := by simpa [hd] using fun e => h e.symm
        simp [h1, h2, h]
    · rw [if_neg hd, List.find?_cons, List.find?_cons, ih]
      by_cases hn : d.num = n
      · have : ¬ n = c.num := fun e => hd (hn.trans e)
        simp [hn, this]
      · have h1 : (d.num == n) = false := by simpa using hn
        simp [h1]

/-- A change to one core shows in that core alone. -/
theorem State.core_modCore (s : State) (n m : Nat) (f : Core → Core) :
    (s.modCore n f).core m = if m = n then { f (s.core n) with num := n } else s.core m := by
  simp only [State.modCore, State.setCore, State.core, putCore_find]
  split <;> simp_all

@[simp] theorem State.core_modThread (s : State) (id : ThreadId) (f : Thread → Thread) (n : Nat) : (s.modThread id f).core n = s.core n := rfl
@[simp] theorem State.core_setLane (s : State) (l : LaneSt) (n : Nat) : (s.setLane l).core n = s.core n := rfl

theorem State.core_num (s : State) (n : Nat) : (s.core n).num = n := by
  unfold State.core
  cases h : s.cores.find? (fun c => c.num == n) with
  | none => rfl
  | some c => simpa using List.find?_some h

/-- A shed's partition is busy; nothing else of its core changes. -/
theorem State.core_occupy (s : State) (sh : Shed) (n m : Nat) :
    { (s.occupy sh n).core m with busy := [] } = { s.core m with busy := [] } := by
  have h : (s.occupy sh n).core m =
      (s.modCore sh.core (fun c => { c with busy := insertNat c.busy sh.part (s.cycle, s.cycle + n) })).core m := rfl
  rw [h, State.core_modCore]
  split
  · rename_i h
    subst h
    have := State.core_num s sh.core
    cases hc : s.core sh.core
    simp_all
  · rfl

/-! ## Lanes -/

theorem putLane_find (ls : List LaneSt) (l : LaneSt) (a b c : Nat) :
    (putLane ls l).find? (fun x => x.at a b c) = if l.at a b c then some l else ls.find? (fun x => x.at a b c) := by
  have key : ∀ m : LaneSt, m.at l.core l.part l.lane = true → m.at a b c = l.at a b c := by
    intro m h
    simp only [LaneSt.at, Bool.and_eq_true, beq_iff_eq] at h ⊢
    simp [h.1.1, h.1.2, h.2]
  induction ls with
  | nil => simp [putLane]
  | cons m ms ih =>
    unfold putLane
    by_cases hm : m.at l.core l.part l.lane = true
    · rw [if_pos hm]
      simp only [List.find?_cons, key m hm]
      cases l.at a b c <;> simp
    · rw [if_neg hm]
      simp only [List.find?_cons, ih]
      by_cases h : m.at a b c = true
      · have : l.at a b c = false := by
          cases h2 : l.at a b c
          · rfl
          · exfalso; apply hm
            simp only [LaneSt.at, Bool.and_eq_true, beq_iff_eq] at h h2 ⊢
            simp [h.1.1, h.1.2, h.2, h2.1.1, h2.1.2, h2.2]
        simp [h, this]
      · simp only [Bool.not_eq_true] at h
        simp [h]

theorem State.lane_at (s : State) (a b c : Nat) : (s.lane a b c).at a b c = true := by
  unfold State.lane
  cases h : s.lanes.find? (fun l => l.at a b c) with
  | none => simp [LaneSt.empty, LaneSt.at]
  | some l => simpa using List.find?_some h

/-- A change to one lane shows in that lane alone. -/
theorem State.lane_setLane (s : State) (l : LaneSt) (a b c : Nat) :
    (s.setLane l).lane a b c = if l.at a b c then l else s.lane a b c := by
  simp only [State.lane, State.setLane, putLane_find]
  split <;> simp_all

@[simp] theorem State.lane_modThread (s : State) (id : ThreadId) (f : Thread → Thread) (a b c : Nat) :
    (s.modThread id f).lane a b c = s.lane a b c := rfl
@[simp] theorem State.laneFor_modThread (s : State) (id id' : ThreadId) (f : Thread → Thread) :
    (s.modThread id f).laneFor id' = s.laneFor id' := rfl

theorem putLane_putLane (ls : List LaneSt) (l m : LaneSt) (h : m.at l.core l.part l.lane = true) :
    putLane (putLane ls l) m = putLane ls m := by
  have hk : m.core = l.core ∧ m.part = l.part ∧ m.lane = l.lane := by
    simp only [LaneSt.at, Bool.and_eq_true, beq_iff_eq] at h
    exact ⟨h.1.1, h.1.2, h.2⟩
  have same : ∀ x : LaneSt, x.at m.core m.part m.lane = x.at l.core l.part l.lane := by
    intro x; rw [hk.1, hk.2.1, hk.2.2]
  induction ls with
  | nil => simp [putLane, LaneSt.at, hk]
  | cons x xs ih =>
    by_cases hx : x.at l.core l.part l.lane = true
    · have : l.at l.core l.part l.lane = true := by simp [LaneSt.at]
      simp [putLane, hx, same, this]
    · simp [putLane, hx, same, ih]

/-! ## Contexts -/

/-- What a context says of its state. -/
theorem State.ctx_spec {s : State} {id : ThreadId} {c : Ctx} (h : s.ctx id = some c) :
    c.id = id ∧ s.block? id.core id.ent = some c.blk ∧ s.thread? id = some c.th
      ∧ c.ln.at id.core (partOf id.tid) (laneOf id.tid) = true := by
  unfold State.ctx at h
  split at h
  · rename_i b th hb ht
    simp only [Option.some.injEq] at h
    subst h
    refine ⟨rfl, hb, ht, ?_⟩
    have := State.lane_at s id.core (partOf id.tid) (laneOf id.tid)
    dsimp only
    split <;> simpa [LaneSt.at, LaneSt.clear, State.laneFor] using this
  · cases h

end Sys2Proof.Machine
end

