-- ==== Sys2Proof/Laws/Lane.lean ====
section
/-! SUPPORT. What a shed of one thread does: its lane runs, and a written destination shows in that thread and lane alone. -/

namespace Sys2Proof.Machine

variable {s : State} {sh : Shed} {u : Use} {c : Ctx}

/-! ## The state in which a lane executes -/

theorem State.ctx_occupy (s : State) (n : Nat) (id : ThreadId) : (s.occupy sh n).ctx id = s.ctx id := rfl

theorem Begins.spec (h : Begins s sh u c) :
    s.block? c.id.core c.id.ent = some c.blk ∧ s.thread? c.id = some c.th
      ∧ c.ln.at c.id.core (partOf c.id.tid) (laneOf c.id.tid) = true := by
  have := State.ctx_spec h.ctx
  exact ⟨this.2.1, this.2.2.1, this.2.2.2⟩

theorem State.begun_thread? (id : ThreadId) : (s.begun sh u c).thread? id = s.thread? id := rfl
theorem State.begun_block? (a b : Nat) : (s.begun sh u c).block? a b = s.block? a b := rfl
theorem State.begun_cycle : (s.begun sh u c).cycle = s.cycle := rfl

/-- With room in the lane, nothing is spilled. -/
theorem State.allocate_room (h : Begins s sh u c) (hr : s.hasRoom u c = true) :
    (s.begun sh u c).allocate c.id u.writes = (s.begun sh u c, .ready) := by
  unfold State.allocate
  rw [State.begun_thread?, h.spec.2.1]
  dsimp only
  unfold State.hasRoom at hr
  dsimp only at hr
  split
  · rfl
  · rename_i hne
    simp only [hne, Bool.false_or, decide_eq_true_eq] at hr
    have hl : (s.begun sh u c).laneGranules c.id = s.laneGranules c.id := rfl
    unfold State.makeRoom
    rw [hl, if_pos hr]

/-- What the lanes of a shed of one thread share. -/
def State.peers (s : State) (sh : Shed) (u : Use) (c : Ctx) : Peers :=
  let s1 := ({ s with shed := none } : State).occupy sh (u.shedCycles [c])
  ⟨s1, u.active s1 [c]⟩

/-- A shed of one thread runs its lane. -/
theorem runShedWith_begins (h : Begins s sh u c) (illegal : State → Ctx → Bool) (body : Peers → State → Ctx → LaneOut)
    (hi : illegal (({ s with shed := none } : State).occupy sh (u.shedCycles [c])) c = false) :
    runShedWith u illegal body s = runLane u (body (s.peers sh u c))
      (({ s with shed := none } : State).occupy sh (u.shedCycles [c])) c.id := by
  have hcs : ({ s with shed := none } : State).ctxs sh.members = [c] := by
    rw [h.members, State.ctxs, List.filterMap_cons, h.ctx]; rfl
  unfold runShedWith
  rw [h.shed]
  dsimp only
  rw [hcs, h.twin]
  dsimp only
  rw [List.find?_cons, h.chain, hi]
  simp only [Bool.or_self, List.find?_nil]
  rw [h.members]
  rfl

theorem runLane_begins (h : Begins s sh u c) (body : State → Ctx → LaneOut) :
    runLane u body (({ s with shed := none } : State).occupy sh (u.shedCycles [c])) c.id =
      if u.guardPoison c then s.ends sh u c (c.poisoned (s.begun sh u c) 0x02 0 0)
      else if guardTrue u.head c.th.ccs then s.ends sh u c (u.lane body (s.begun sh u c) c)
      else skipLane u c (s.after sh u c) (s.begun sh u c) := by
  have hc : (({ s with shed := none } : State).occupy sh (u.shedCycles [c])).ctx c.id = some c := h.ctx
  unfold runLane
  rw [hc]
  dsimp only
  rw [h.live]
  rfl

/-- The thread executes the instruction's own effect. -/
theorem runShedWith_solo (h : Solo s sh u c) (illegal : State → Ctx → Bool) (body : Peers → State → Ctx → LaneOut)
    (hi : illegal (({ s with shed := none } : State).occupy sh (u.shedCycles [c])) c = false) :
    runShedWith u illegal body s = s.ends sh u c (body (s.peers sh u c) (s.begun sh u c) c) := by
  rw [runShedWith_begins h.toBegins illegal body hi, runLane_begins h.toBegins, h.clean, h.guard]
  simp only [Bool.false_eq_true, if_false, if_true]
  unfold Use.lane
  rw [h.frame, h.latches, State.allocate_room h.toBegins h.room]
  rfl

theorem runShed_solo (h : Solo s sh u c) (body : State → Ctx → LaneOut) :
    runShed u body s = s.ends sh u c (body (s.begun sh u c) c) :=
  runShedWith_solo h _ (fun _ => body) rfl

theorem instr_solo {i : Instr} (hu : useOf i = some u) (h : Solo s sh u c) (body : State → Ctx → LaneOut) :
    instr i body s = .next (s.ends sh u c (body (s.begun sh u c) c)) := by
  unfold instr; rw [hu]; dsimp only; rw [runShed_solo h]

theorem instrWith_solo {i : Instr} (hu : useOf i = some u) (h : Solo s sh u c) (body : Peers → State → Ctx → LaneOut) :
    instrWith i body s = .next (s.ends sh u c (body (s.peers sh u c) (s.begun sh u c) c)) := by
  unfold instrWith; rw [hu]; dsimp only; rw [runShedWith_solo h _ _ rfl]

/-! ## What the end of a lane leaves -/

/-- The meters' account of a shed's slots changes nothing else of the power state. -/
theorem State.slotsUsed_power (s : State) (sh : Shed) (n : Nat) :
    { s.slotsUsed sh n with used := [] } = { s.power with used := [] } := by
  unfold State.slotsUsed
  split <;> rfl

/-- A change of the thread and of its lane's latches leaves everything else. -/
theorem ended_modThread (h : Begins s sh u c) (f : Thread → Thread) (l : LaneSt)
    (hl : l.at c.id.core (partOf c.id.tid) (laneOf c.id.tid) = true) :
    Ended s (((s.begun sh u c).setLane l).modThread c.id f) c (f c.th) where
  thread := by
    rw [State.thread?_modThread_same, State.thread?_setLane, State.begun_thread?, h.spec.2.1]; rfl
  others := by
    intro id hid
    rw [State.thread?_modThread, if_neg hid]; rfl
  blocks := by intro core ent; rw [State.bare_modThread]; rfl
  rest := rfl
  power := State.slotsUsed_power ({ s with shed := none } : State) sh (u.shedCycles [c])
  cores := by
    intro n
    have := State.core_occupy ({ s with shed := none } : State) sh (u.shedCycles [c]) n
    have hb : (((s.begun sh u c).setLane l).modThread c.id f).core n
      = (({ s with shed := none } : State).occupy sh (u.shedCycles [c])).core n := rfl
    rw [hb]
    have h2 := congrArg (fun x : Core => { x with ibuf := [] }) this
    exact h2
  lanes := by
    intro a b d hne
    have hn : ∀ m : LaneSt, m.at c.id.core (partOf c.id.tid) (laneOf c.id.tid) = true → m.at a b d = false := by
      intro m hm
      cases hx : m.at a b d
      · rfl
      · exfalso; apply hne
        simp only [LaneSt.at, Bool.and_eq_true, beq_iff_eq] at hm hx
        exact ⟨by rw [← hm.1.1, hx.1.1], by rw [← hm.1.2, hx.1.2], by rw [← hm.2, hx.2]⟩
    rw [State.lane_modThread, State.lane_setLane, hn l hl]
    unfold State.begun
    rw [State.lane_setLane, hn c.ln h.spec.2.2]
    rfl

theorem low_half (v : DWord) : BitVec.ofNat 32 v.toNat = v.extractLsb' 0 32 := by
  apply BitVec.eq_of_toNat_eq; simp [BitVec.extractLsb'_toNat]
theorem high_half (v : DWord) : BitVec.ofNat 32 (v.toNat / 2 ^ 32) = v.extractLsb' 32 32 := by
  apply BitVec.eq_of_toNat_eq; simp [BitVec.extractLsb'_toNat, Nat.shiftRight_eq_div_pow]

theorem shift_at (l : LaneSt) (v : UVal) (a b d : Nat) : (l.shift v).at a b d = l.at a b d := rfl

theorem State.modThread_id (t : State) (i : ThreadId) : t.modThread i id = t := by
  have : ∀ (xs : List Thread) n, modifyAt id xs n = xs := by
    intro xs; induction xs with
    | nil => intro n; rfl
    | cons x xs ih => intro n; cases n <;> simp [modifyAt, ih]
  have hb : (fun b : Block => if (b.core == i.core && b.ent == i.ent) = true then b.modThread i.tid id else b) = id := by
    funext b; simp [Block.modThread, this]
  simp only [State.modThread, State.modBlock, hb, List.map_id]

/-- A written vector destination is one change of the thread and of its lane. -/
theorem State.writeVec_eq (s : State) (i : ThreadId) (d : Dst) (wide : Bool) (v : UVal) :
    s.writeVec i d wide v true =
      (s.setLane ((s.laneFor i).shift v)).modThread i (fun th => th.writes d wide v none) := by
  unfold State.writeVec
  simp only [if_true]
  cases hn : d.nwb
  · simp only [Bool.false_eq_true, if_false, State.laneFor_modThread, ← State.modThread_setLane]
    congr 1
    funext th
    simp only [Thread.writes, hn, Bool.false_eq_true, if_false, UVal.nat, low_half, high_half]
  · simp only [if_true]
    have : (fun th : Thread => th.writes d wide v none) = id := by funext th; simp [Thread.writes, hn]
    rw [this, State.modThread_id]

/-- The same with flags. -/
theorem State.writeDst_thread (s : State) (c : Ctx) (d : Dst) (wide : Bool) (v : UVal) (fl : Option Flags) :
    s.writeDst c d wide v fl =
      (s.setLane ((s.laneFor c.id).shift v)).modThread c.id (fun th => th.writes d wide v fl) := by
  unfold State.writeDst
  rw [State.writeVec_eq]
  cases fl with
  | none => rfl
  | some f =>
    dsimp only
    cases hc : d.cce
    · simp only [Bool.false_eq_true, if_false]
      congr 1; funext th; simp [Thread.writes, hc]
    · simp only [if_true, State.modThread_modThread]
      congr 1; funext th; simp [Thread.writes, hc]

theorem begun_laneFor (h : Begins s sh u c) : (s.begun sh u c).laneFor c.id = c.ln := by
  unfold State.laneFor State.begun
  rw [State.lane_setLane, h.spec.2.2]; rfl

theorem Thread.writes_fpstat (th : Thread) (d : Dst) (wide : Bool) (v : UVal) (fl : Option Flags) :
    (th.writes d wide v fl).fpstat = th.fpstat := by
  unfold Thread.writes; cases fl <;> dsimp only <;> (repeat' split) <;> rfl

/-- A written destination with its flags and raised `FPSTAT` flags is one change of the thread and of its lane. -/
theorem writeDst_eq (h : Begins s sh u c) (d : Dst) (wide : Bool) (v : UVal) (fl : Option Flags) (fp : BitVec 5) :
    ((s.begun sh u c).writeDst c d wide v fl).raiseFP c fp =
      ((s.begun sh u c).setLane (c.ln.shift v)).modThread c.id
        (fun th => { th.writes d wide v fl with fpstat := th.fpstat ||| fp }) := by
  unfold State.raiseFP
  rw [State.writeDst_thread, begun_laneFor h]
  split
  · rename_i h0
    subst h0
    congr 1; funext th
    have : th.fpstat ||| 0 = (th.writes d wide v fl).fpstat := by rw [Thread.writes_fpstat]; simp
    rw [this]
  · rw [State.modThread_modThread]
    congr 1; funext th; rw [Thread.writes_fpstat]

/-- An instruction that ends by writing its destination. -/
theorem wrote (h : Begins s sh u c) (d : Dst) (wide : Bool) (v : UVal) (fl : Option Flags) (fp : BitVec 5) :
    Wrote s (s.ends sh u c (.done (((s.begun sh u c).writeDst c d wide v fl).raiseFP c fp))) sh u c d wide v fl fp := by
  have he : s.ends sh u c (.done (((s.begun sh u c).writeDst c d wide v fl).raiseFP c fp)) =
      ((s.begun sh u c).setLane (c.ln.shift v)).modThread c.id (fun th =>
        c.completed s u (s.after sh u c) { th.writes d wide v fl with fpstat := th.fpstat ||| fp }) := by
    rw [writeDst_eq h]
    unfold State.ends finishLane
    dsimp only
    rw [State.modThread_modThread]
    rfl
  rw [he]
  refine ⟨ended_modThread h _ _ h.spec.2.2, ?_, ?_⟩
  · rw [State.laneFor_modThread]
    unfold State.laneFor
    rw [State.lane_setLane, shift_at, h.spec.2.2]; rfl
  · intro n
    have := State.core_occupy ({ s with shed := none } : State) sh (u.shedCycles [c]) n
    have h2 := congrArg (fun x : Core => x.ibuf) this
    exact h2

/-- Operands read as they stood at the issue. -/
theorem src_begun (imm : Word) (wide : Bool) (a : Src) : c.src (s.begun sh u c) imm wide a = c.src s imm wide a := by
  cases a <;> rfl

end Sys2Proof.Machine
end

