-- ==== Sys2Proof/Laws/Words.lean ====
section
/-! SUPPORT. Words, fields and codes: taking apart what was put together. -/

namespace Sys2Proof.Laws
theorem append_low {n m : Nat} (x : BitVec n) (y : BitVec m) : (x ++ y).extractLsb' 0 m = y := by
  apply BitVec.eq_of_getLsbD_eq; intro i hi; simp [BitVec.getLsbD_append, hi]
theorem append_high {n m : Nat} (x : BitVec n) (y : BitVec m) (k l : Nat) (h : m ≤ k) :
    (x ++ y).extractLsb' k l = x.extractLsb' (k - m) l := by
  apply BitVec.eq_of_getLsbD_eq; intro i hi
  have : ¬ k + i < m := by omega
  simp [BitVec.getLsbD_append, hi, this, Nat.sub_add_comm h]
theorem extract_all {n : Nat} (x : BitVec n) : x.extractLsb' 0 n = x := by
  apply BitVec.eq_of_getLsbD_eq; intro i hi; simp [hi]
theorem append_high_bit {n m : Nat} (x : BitVec n) (y : BitVec m) (k : Nat) (h : m ≤ k) :
    (x ++ y).getLsbD k = x.getLsbD (k - m) := by
  have : ¬ k < m := by omega
  simp [BitVec.getLsbD_append, this]
theorem append_low_bit {n m : Nat} (x : BitVec n) (y : BitVec m) (k : Nat) (h : k < m) :
    (x ++ y).getLsbD k = y.getLsbD k := by simp [BitVec.getLsbD_append, h]
theorem bool_bit (b : Bool) : (BitVec.ofBool b).getLsbD 0 = b := by cases b <;> rfl

theorem Head_ofBits_bits (h : Head) : Head.ofBits h.bits = h := by
  obtain ⟨c, k, a, b, d, e, g⟩ := h
  simp only [Head.bits, Head.ofBits, Head.mk.injEq]
  refine ⟨?_, ?_, ?_, ?_, ?_, ?_, ?_⟩
  · exact (append_high _ _ 2 4 (by decide)).trans (append_low _ _)
  · exact append_low _ _
  · exact (append_high_bit _ _ 6 (by decide)).trans <| (append_high_bit _ _ 4 (by decide)).trans <|
      (append_low_bit _ _ 0 (by decide)).trans (bool_bit _)
  · exact (append_high_bit _ _ 7 (by decide)).trans <| (append_high_bit _ _ 5 (by decide)).trans <|
      (append_high_bit _ _ 1 (by decide)).trans <| (append_low_bit _ _ 0 (by decide)).trans (bool_bit _)
  · exact (append_high_bit _ _ 8 (by decide)).trans <| (append_high_bit _ _ 6 (by decide)).trans <|
      (append_high_bit _ _ 2 (by decide)).trans <| (append_high_bit _ _ 1 (by decide)).trans <|
      (append_low_bit _ _ 0 (by decide)).trans (bool_bit _)
  · exact (append_high_bit _ _ 9 (by decide)).trans <| (append_high_bit _ _ 7 (by decide)).trans <|
      (append_high_bit _ _ 3 (by decide)).trans <| (append_high_bit _ _ 2 (by decide)).trans <|
      (append_high_bit _ _ 1 (by decide)).trans <| (append_low_bit _ _ 0 (by decide)).trans (bool_bit _)
  · exact (append_high _ _ 10 2 (by decide)).trans <| (append_high _ _ 8 2 (by decide)).trans <|
      (append_high _ _ 4 2 (by decide)).trans <| (append_high _ _ 3 2 (by decide)).trans <|
      (append_high _ _ 2 2 (by decide)).trans <| (append_high _ _ 1 2 (by decide)).trans (extract_all _)

theorem unpack_pack (f : Fields) : Fields.unpack f.pack = f := by
  obtain ⟨o, m, d, a, b, i, h⟩ := f
  simp only [Fields.pack, Fields.unpack, Fields.mk.injEq]
  refine ⟨?_, ?_, ?_, ?_, ?_, ?_, ?_⟩
  · exact append_low _ _
  · exact (append_high _ _ 8 8 (by decide)).trans (append_low _ _)
  · exact (append_high _ _ 16 12 (by decide)).trans <| (append_high _ _ 8 12 (by decide)).trans (append_low _ _)
  · exact (append_high _ _ 28 12 (by decide)).trans <| (append_high _ _ 20 12 (by decide)).trans <|
      (append_high _ _ 12 12 (by decide)).trans (append_low _ _)
  · exact (append_high _ _ 40 12 (by decide)).trans <| (append_high _ _ 32 12 (by decide)).trans <|
      (append_high _ _ 24 12 (by decide)).trans <| (append_high _ _ 12 12 (by decide)).trans (append_low _ _)
  · exact (append_high _ _ 52 32 (by decide)).trans <| (append_high _ _ 44 32 (by decide)).trans <|
      (append_high _ _ 36 32 (by decide)).trans <| (append_high _ _ 24 32 (by decide)).trans <|
      (append_high _ _ 12 32 (by decide)).trans (append_low _ _)
  · refine (congrArg Head.ofBits ?_).trans (Head_ofBits_bits h)
    exact (append_high _ _ 84 12 (by decide)).trans <| (append_high _ _ 76 12 (by decide)).trans <|
      (append_high _ _ 68 12 (by decide)).trans <| (append_high _ _ 56 12 (by decide)).trans <|
      (append_high _ _ 44 12 (by decide)).trans <| (append_high _ _ 32 12 (by decide)).trans (extract_all _)

/-! ## Codes -/

theorem special_ofCode (c : Special) : Special.ofCode c.code = some c := by cases c <;> rfl
theorem Ty_ofCode (c : Ty) : Ty.ofCode c.code = some c := by cases c <;> rfl
theorem Rnd_ofCode (c : Rnd) : Rnd.ofCode c.code = some c := by cases c <;> rfl
theorem Cmp_ofCode (c : Cmp) : Cmp.ofCode c.code = some c := by cases c <;> rfl
theorem FCmp_ofCode (c : FCmp) : FCmp.ofCode c.code = some c := by cases c <;> rfl
theorem RedOp_ofCode (c : RedOp) : RedOp.ofCode c.code = some c := by cases c <;> rfl
theorem VoteOp_ofCode (c : VoteOp) : VoteOp.ofCode c.code = some c := by cases c <;> rfl
theorem AtomOp_ofCode (c : AtomOp) : AtomOp.ofCode c.code = some c := by cases c <;> rfl
theorem Ord_ofCode (c : Ord) : Ord.ofCode c.code = c := by cases c <;> rfl
theorem Scope_ofCode (c : Scope) : Scope.ofCode c.code = c := by cases c <;> rfl
theorem EF_ofCode (c : EF) : EF.ofCode c.code = c := by cases c <;> rfl
theorem ShMode_ofCode (c : ShMode) : ShMode.ofCode c.code = c := by cases c <;> rfl

/-! ## Operands -/

theorem Src_dec_enc (s : Src) : Src.dec s.enc = some s := by
  cases s with
  | v r =>
    have h0 : (0#4 ++ r : BitVec 12).extractLsb' 10 2 = 0 := (append_high _ _ 10 2 (by decide)).trans (by decide)
    have h1 : (0#4 ++ r : BitVec 12).extractLsb' 8 2 = 0 := (append_high _ _ 8 2 (by decide)).trans (by decide)
    have h2 : (0#4 ++ r : BitVec 12).extractLsb' 0 8 = r := append_low _ _
    simp [Src.dec, Src.enc, h0, h1, h2]
  | s r =>
    have h0 : (4#4 ++ r : BitVec 12).extractLsb' 10 2 = 1 := (append_high _ _ 10 2 (by decide)).trans (by decide)
    have h1 : (4#4 ++ r : BitVec 12).extractLsb' 8 2 = 0 := (append_high _ _ 8 2 (by decide)).trans (by decide)
    have h2 : (4#4 ++ r : BitVec 12).extractLsb' 0 8 = r := append_low _ _
    simp [Src.dec, Src.enc, h0, h1, h2]
  | b l => revert l; decide
  | sp c => cases c <;> rfl

theorem srcOf_enc (s : Src) : srcOf s.enc = .ok s := by simp [srcOf, Src_dec_enc]
theorem vecOf_enc (r : BitVec 8) : vecOf (Src.v r).enc = .ok r := by simp [vecOf, Src_dec_enc]
theorem recOf_enc (r : BitVec 8) : recOf (recEnc r) = .ok r := by simp [recOf, recEnc, Src_dec_enc]

theorem Dst_dec_enc (d : Dst) : Dst.dec d.enc = d := by
  obtain ⟨n, c, t, r⟩ := d
  simp only [Dst.dec, Dst.enc, Dst.mk.injEq]
  refine ⟨?_, ?_, ?_, ?_⟩
  · exact (append_high_bit _ _ 11 (by decide)).trans <| (append_high_bit _ _ 3 (by decide)).trans <|
      (append_high_bit _ _ 1 (by decide)).trans (bool_bit _)
  · exact (append_high_bit _ _ 10 (by decide)).trans <| (append_high_bit _ _ 2 (by decide)).trans <|
      (append_low_bit _ _ 0 (by decide)).trans (bool_bit _)
  · exact (append_high _ _ 8 2 (by decide)).trans (append_low _ _)
  · exact append_low _ _

theorem immC_low (k : BitVec 20) (c : Src) : (immC k c).extractLsb' 0 12 = c.enc := append_low _ _
theorem memImm_low (o : BitVec 4) (f : BitVec 16) (c : BitVec 12) : (memImm o f c).extractLsb' 0 12 = c :=
  append_low _ _
theorem memImm_off (o : BitVec 4) (f : BitVec 16) (c : BitVec 12) : (memImm o f c).extractLsb' 12 16 = f :=
  (append_high _ _ 12 16 (by decide)).trans (append_low _ _)
theorem memImm_op (o : BitVec 4) (f : BitVec 16) (c : BitVec 12) : (memImm o f c).extractLsb' 28 4 = o :=
  (append_high _ _ 28 4 (by decide)).trans ((append_high _ _ 16 4 (by decide)).trans (extract_all _))

theorem memOp_enc (op mod : BitVec 8) (fd : BitVec 12) (m : MemOp) (o : BitVec 4) (c : BitVec 12) (h : Head) :
    (Fields.mk op mod fd (recEnc m.rcd) m.x.enc (memImm o m.off c) h).memOp = .ok m := by
  simp only [Fields.memOp, recOf_enc, srcOf_enc, memImm_off]; rfl

/-! ## MOD -/

theorem memMod_ty (t : Ty) (o : Ord) (s : Scope) : (memMod t o s).extractLsb' 0 4 = t.code := append_low _ _
theorem memMod_ord (t : Ty) (o : Ord) (s : Scope) : (memMod t o s).extractLsb' 4 2 = o.code :=
  (append_high _ _ 4 2 (by decide)).trans (append_low _ _)
theorem memMod_sc (t : Ty) (o : Ord) (s : Scope) : (memMod t o s).extractLsb' 6 2 = s.code :=
  (append_high _ _ 6 2 (by decide)).trans ((append_high _ _ 2 2 (by decide)).trans (extract_all _))

theorem tyMod_ty (t : Ty) (b : Bool) : (tyMod t b).extractLsb' 0 4 = t.code := append_low _ _
theorem tyMod_sat (t : Ty) (b : Bool) : (tyMod t b).getLsbD 4 = b := by cases t <;> cases b <;> rfl
theorem tyMod3_ty (t : Ty) (m : BitVec 3) : (tyMod3 t m).extractLsb' 0 4 = t.code := append_low _ _
theorem tyMod3_item (t : Ty) (m : BitVec 3) : (tyMod3 t m).extractLsb' 4 3 = m :=
  (append_high _ _ 4 3 (by decide)).trans (append_low _ _)
theorem efMod_ef (e : EF) (b : Bool) (m : BitVec 3) : (efMod e b m).extractLsb' 0 3 = e.code := append_low _ _
theorem efMod_var (e : EF) (b : Bool) (m : BitVec 3) : (efMod e b m).getLsbD 3 = b :=
  (append_high_bit _ _ 3 (by decide)).trans ((append_low_bit _ _ 0 (by decide)).trans (bool_bit _))
theorem efMod_rnd (e : EF) (b : Bool) (m : BitVec 3) : (efMod e b m).extractLsb' 4 3 = m :=
  (append_high _ _ 4 3 (by decide)).trans ((append_high _ _ 1 3 (by decide)).trans (append_low _ _))

end Sys2Proof.Laws
end

