-- ==== Sys2Proof/Laws/Shapes.lean ====
section
/-! SUPPORT. Every operand shape is parsed back from its encoding. -/

namespace Sys2Proof.Laws

theorem BranchX_parse (op : BitVec 8) (p : BranchX) : BranchX.parse (p.enc op) = .ok p := by
  simp only [BranchX.parse, BranchX.enc, srcOf_enc]; rfl
theorem CallX_parse (op : BitVec 8) (p : CallX) : CallX.parse (p.enc op) = .ok p := by
  simp only [CallX.parse, CallX.enc, srcOf_enc]; rfl
theorem TrapN_parse (op : BitVec 8) (p : TrapN) : TrapN.parse (p.enc op) = .ok p := by
  obtain ⟨h, n⟩ := p
  simp only [TrapN.parse, TrapN.enc, Except.ok.injEq, TrapN.mk.injEq, true_and]
  revert n; decide
theorem Bkpt_parse (op : BitVec 8) (p : Bkpt) : Bkpt.parse (p.enc op) = .ok p := by
  obtain ⟨h, n⟩ := p
  simp only [Bkpt.parse, Bkpt.enc, Except.ok.injEq, Bkpt.mk.injEq, true_and]
  apply BitVec.eq_of_getLsbD_eq; intro i hi
  simp only [BitVec.getLsbD_extractLsb', BitVec.truncate_eq_setWidth, BitVec.getLsbD_setWidth, hi, decide_true,
    Bool.true_and, Nat.zero_add]
  have : i < 32 := by omega
  simp [this]
theorem dreg_enc (r : BitVec 8) : (0#4 ++ r : BitVec 12).extractLsb' 0 8 = r := append_low _ _
theorem Loop_parse (op : BitVec 8) (p : Loop) : Loop.parse (p.enc op) = .ok p := by
  simp only [Loop.parse, Loop.enc, Fields.dreg, dreg_enc]
theorem or_none (x : BitVec 8) : x ||| 0 = x := BitVec.or_zero
theorem Alu2_parse (op : BitVec 8) (p : Alu2) : Alu2.parse (p.enc op 0) = .ok p := by
  simp only [Alu2.parse, Alu2.enc, Fields.ty, Fields.sat, or_none, tyMod_ty, tyMod_sat, Ty_ofCode, srcOf_enc,
    Dst_dec_enc]; rfl
theorem Alu2_parse_var (op : BitVec 8) (p : Alu2) (v : BitVec 8) (h : v = 0x10 ∨ v = 0x20) :
    Alu2.parse (p.enc op v) = .ok { p with sat := p.sat || v == 0x10 } := by
  obtain ⟨hd, ty, sat, d, a, b, i⟩ := p
  simp only [Alu2.parse, Alu2.enc, Fields.ty, Fields.sat, srcOf_enc, Dst_dec_enc]
  obtain rfl | rfl := h <;> cases ty <;> cases sat <;> rfl
theorem AluC_mod (k : BitVec 2) (t : Ty) : (0#1 ++ k ++ 0#1 ++ t.code : BitVec 8).extractLsb' 0 4 = t.code ∧
    (0#1 ++ k ++ 0#1 ++ t.code : BitVec 8).extractLsb' 5 2 = k := by
  refine ⟨append_low _ _, ?_⟩
  exact (append_high _ _ 5 2 (by decide)).trans ((append_high _ _ 1 2 (by decide)).trans (append_low _ _))
theorem AluC_parse (op : BitVec 8) (p : AluC) : AluC.parse (p.enc op) = .ok p := by
  simp only [AluC.parse, AluC.enc, Fields.ty, AluC_mod, Ty_ofCode, srcOf_enc, Dst_dec_enc]; rfl
theorem Alu3_parse (op : BitVec 8) (p : Alu3) : Alu3.parse (p.enc op 0) = .ok p := by
  simp only [Alu3.parse, Alu3.enc, Fields.ty, Fields.sat, or_none, tyMod_ty, tyMod_sat, Ty_ofCode, srcOf_enc,
    Dst_dec_enc, Fields.srcC, immC_low]; rfl
theorem Alu3_parse_var (op : BitVec 8) (p : Alu3) :
    Alu3.parse (p.enc op 0x10) = .ok { p with sat := true } := by
  obtain ⟨hd, ty, sat, d, a, b, i⟩ := p
  simp only [Alu3.parse, Alu3.enc, Fields.ty, Fields.sat, srcOf_enc, Dst_dec_enc, Fields.srcC, immC_low]
  cases ty <;> cases sat <;> rfl
theorem Alu1_parse (op : BitVec 8) (p : Alu1) : Alu1.parse (p.enc op) = .ok p := by
  simp only [Alu1.parse, Alu1.enc, Fields.ty, Fields.sat, tyMod_ty, tyMod_sat, Ty_ofCode, srcOf_enc, Dst_dec_enc]; rfl
theorem Cmp2_mod (c : Cmp) (t : Ty) : (c.code ++ 0#1 ++ t.code : BitVec 8).extractLsb' 0 4 = t.code ∧
    (c.code ++ 0#1 ++ t.code : BitVec 8).extractLsb' 5 3 = c.code := by
  refine ⟨append_low _ _, ?_⟩
  exact (append_high _ _ 5 3 (by decide)).trans ((append_high _ _ 1 3 (by decide)).trans (extract_all _))
theorem Cmp2_parse (op : BitVec 8) (p : Cmp2) : Cmp2.parse (p.enc op) = .ok p := by
  simp only [Cmp2.parse, Cmp2.enc, Fields.ty, Cmp2_mod, Ty_ofCode, Cmp_ofCode, srcOf_enc, Dst_dec_enc]; rfl
theorem Sel_imm (k : BitVec 2) (c : BitVec 4) : (0#26 ++ k ++ c : BitVec 32).extractLsb' 4 2 = k ∧
    (0#26 ++ k ++ c : BitVec 32).extractLsb' 0 4 = c := by
  refine ⟨?_, append_low _ _⟩
  exact (append_high _ _ 4 2 (by decide)).trans (append_low _ _)
theorem Sel_parse (op : BitVec 8) (p : Sel) : Sel.parse (p.enc op) = .ok p := by
  simp only [Sel.parse, Sel.enc, Fields.ty, tyMod_ty, Ty_ofCode, srcOf_enc, Dst_dec_enc, Sel_imm]; rfl
theorem Bool3_imm (t : BitVec 8) (c : Src) : (immC (0#12 ++ t) c).extractLsb' 12 8 = t :=
  (append_high _ _ 12 8 (by decide)).trans (append_low _ _)
theorem Bool3_parse (op : BitVec 8) (p : Bool3) : Bool3.parse (p.enc op) = .ok p := by
  simp only [Bool3.parse, Bool3.enc, Fields.ty, tyMod_ty, Ty_ofCode, srcOf_enc, Dst_dec_enc, Fields.srcC, immC_low,
    Bool3_imm]; rfl
theorem Permb_parse (op : BitVec 8) (p : Permb) : Permb.parse (p.enc op) = .ok p := by
  simp only [Permb.parse, Permb.enc, srcOf_enc, Dst_dec_enc]; rfl
theorem wideMod_bit (w : Bool) : (wideMod w).getLsbD 0 = w := by cases w <;> rfl
theorem Movi_parse (op : BitVec 8) (p : Movi) : Movi.parse (p.enc op) = .ok p := by
  simp only [Movi.parse, Movi.enc, srcOf_enc, Dst_dec_enc, Fields.wide, wideMod_bit]; rfl
theorem Sset_parse (op mod : BitVec 8) (p : Sset) : Sset.parse (p.enc op mod) = .ok p := by
  simp only [Sset.parse, Sset.enc, srcOf_enc, Fields.dreg, dreg_enc]; rfl
theorem Sadd_parse (op : BitVec 8) (p : Sadd) : Sadd.parse (p.enc op) = .ok p := by
  simp only [Sadd.parse, Sadd.enc, srcOf_enc, Dst_dec_enc]; rfl
theorem Sld_parse (op : BitVec 8) (p : Sld) : Sld.parse (p.enc op) = .ok p := by
  simp only [Sld.parse, Sld.enc, srcOf_enc, recOf_enc, Fields.wide, wideMod_bit, Fields.dreg, dreg_enc]; rfl
theorem num_enc (n : BitVec 12) : (0#20 ++ n : BitVec 32).extractLsb' 0 12 = n := append_low _ _
theorem Rdsr_parse (op : BitVec 8) (p : Rdsr) : Rdsr.parse (p.enc op) = .ok p := by
  simp only [Rdsr.parse, Rdsr.enc, Dst_dec_enc, Fields.wide, wideMod_bit, num_enc]
theorem Wrsr_parse (op : BitVec 8) (p : Wrsr) : Wrsr.parse (p.enc op) = .ok p := by
  simp only [Wrsr.parse, Wrsr.enc, srcOf_enc, Fields.wide, wideMod_bit, num_enc]; rfl
theorem Rand_parse (op : BitVec 8) (p : Rand) : Rand.parse (p.enc op) = .ok p := by
  simp only [Rand.parse, Rand.enc, Dst_dec_enc, Fields.wide, wideMod_bit]
theorem DstOnly_parse (op mod : BitVec 8) (p : DstOnly) : DstOnly.parse (p.enc op mod) = .ok p := by
  simp only [DstOnly.parse, DstOnly.enc, Dst_dec_enc]
theorem Fp1_parse (op : BitVec 8) (p : Fp1) : Fp1.parse (p.enc op) = .ok p := by
  simp only [Fp1.parse, Fp1.enc, Fields.ty, Fields.rnd, tyMod3_ty, tyMod3_item, Ty_ofCode, Rnd_ofCode, srcOf_enc,
    Dst_dec_enc]; rfl
theorem Fp2_parse (op : BitVec 8) (p : Fp2) : Fp2.parse (p.enc op) = .ok p := by
  simp only [Fp2.parse, Fp2.enc, Fields.ty, Fields.rnd, tyMod3_ty, tyMod3_item, Ty_ofCode, Rnd_ofCode, srcOf_enc,
    Dst_dec_enc]; rfl
theorem Fp3_parse (op : BitVec 8) (p : Fp3) : Fp3.parse (p.enc op) = .ok p := by
  simp only [Fp3.parse, Fp3.enc, Fields.ty, Fields.rnd, tyMod3_ty, tyMod3_item, Ty_ofCode, Rnd_ofCode, srcOf_enc,
    Dst_dec_enc, Fields.srcC, immC_low]; rfl
theorem Fcmp_parse (op : BitVec 8) (p : Fcmp) : Fcmp.parse (p.enc op) = .ok p := by
  simp only [Fcmp.parse, Fcmp.enc, Fields.ty, tyMod3_ty, tyMod3_item, Ty_ofCode, FCmp_ofCode, srcOf_enc,
    Dst_dec_enc]; rfl
theorem Hmnmx_parse (op : BitVec 8) (p : Hmnmx) : Hmnmx.parse (p.enc op) = .ok p := by
  simp only [Hmnmx.parse, Hmnmx.enc, Fields.ty, Fields.sat, tyMod_ty, tyMod_sat, Ty_ofCode, srcOf_enc, Dst_dec_enc]; rfl
theorem Cvt_mod (a b : Ty) : (a.code ++ b.code : BitVec 8).extractLsb' 0 4 = b.code ∧
    (a.code ++ b.code : BitVec 8).extractLsb' 4 4 = a.code :=
  ⟨append_low _ _, (append_high _ _ 4 4 (by decide)).trans (extract_all _)⟩
theorem Cvt_rnd (r : Rnd) : (0#9 ++ r.code : BitVec 12).extractLsb' 0 3 = r.code := append_low _ _
theorem Cvt_parse (op : BitVec 8) (p : Cvt) : Cvt.parse (p.enc op) = .ok p := by
  simp only [Cvt.parse, Cvt.enc, Fields.ty, Cvt_mod, Cvt_rnd, Ty_ofCode, Rnd_ofCode, srcOf_enc, Dst_dec_enc]; rfl
theorem index_immC (k : BitVec 4) (c : Src) : (immC (0#16 ++ k) c).extractLsb' 12 4 = k :=
  (append_high _ _ 12 4 (by decide)).trans (append_low _ _)
theorem index_imm (k : BitVec 4) : (0#16 ++ k ++ 0#12 : BitVec 32).extractLsb' 12 4 = k :=
  (append_high _ _ 12 4 (by decide)).trans (append_low _ _)
theorem CvtpP_parse (op : BitVec 8) (p : CvtpP) : CvtpP.parse (p.enc op) = .ok p := by
  simp only [CvtpP.parse, CvtpP.enc, Fields.rnd, Fields.ef, Fields.index, Fields.srcC, efMod_ef, efMod_rnd, EF_ofCode,
    Rnd_ofCode, srcOf_enc, Dst_dec_enc, immC_low, index_immC]; rfl
theorem CvtpU_parse (op : BitVec 8) (p : CvtpU) : CvtpU.parse (p.enc op) = .ok p := by
  simp only [CvtpU.parse, CvtpU.enc, Fields.ef, Fields.index, efMod_ef, EF_ofCode, srcOf_enc, Dst_dec_enc,
    index_imm]; rfl
theorem Qscale_parse (op : BitVec 8) (p : Qscale) : Qscale.parse (p.enc op) = .ok p := by
  simp only [Qscale.parse, Qscale.enc, Fields.ef, efMod_ef, EF_ofCode, srcOf_enc, Dst_dec_enc]; rfl
theorem Qnt_parse (op : BitVec 8) (p : Qnt) : Qnt.parse (p.enc op) = .ok p := by
  simp only [Qnt.parse, Qnt.enc, Fields.rnd, Fields.ef, Fields.index, Fields.srcC, efMod_ef, efMod_rnd, EF_ofCode,
    Rnd_ofCode, srcOf_enc, Dst_dec_enc, immC_low, index_immC]; rfl
theorem Dqnt_parse (op : BitVec 8) (p : Dqnt) : Dqnt.parse (p.enc op) = .ok p := by
  simp only [Dqnt.parse, Dqnt.enc, Fields.rnd, Fields.ef, Fields.index, efMod_ef, efMod_rnd, EF_ofCode,
    Rnd_ofCode, srcOf_enc, Dst_dec_enc, index_imm]; rfl
theorem Xshf_mod (a b : Bool) (m : ShMode) :
    (0#4 ++ BitVec.ofBool a ++ BitVec.ofBool b ++ m.code : BitVec 8).extractLsb' 0 2 = m.code ∧
    (0#4 ++ BitVec.ofBool a ++ BitVec.ofBool b ++ m.code : BitVec 8).getLsbD 2 = b ∧
    (0#4 ++ BitVec.ofBool a ++ BitVec.ofBool b ++ m.code : BitVec 8).getLsbD 3 = a := by
  cases a <;> cases b <;> cases m <;> decide
theorem Xshf_parse (op : BitVec 8) (p : Xshf) : Xshf.parse (p.enc op) = .ok p := by
  simp only [Xshf.parse, Xshf.enc, Xshf_mod, ShMode_ofCode, srcOf_enc, Dst_dec_enc]; rfl
theorem Xred_mod (e : Bool) (o : RedOp) (t : Ty) :
    (BitVec.ofBool e ++ o.code ++ t.code : BitVec 8).extractLsb' 0 4 = t.code ∧
    (BitVec.ofBool e ++ o.code ++ t.code : BitVec 8).extractLsb' 4 3 = o.code ∧
    (BitVec.ofBool e ++ o.code ++ t.code : BitVec 8).getLsbD 7 = e := by
  refine ⟨append_low _ _, (append_high _ _ 4 3 (by decide)).trans (append_low _ _), ?_⟩
  exact (append_high_bit _ _ 7 (by decide)).trans ((append_high_bit _ _ 3 (by decide)).trans (bool_bit _))
theorem Xred_parse (op : BitVec 8) (p : Xred) : Xred.parse (p.enc op) = .ok p := by
  simp only [Xred.parse, Xred.enc, Fields.ty, Xred_mod, Ty_ofCode, RedOp_ofCode, srcOf_enc, Dst_dec_enc]; rfl
theorem Xvote_mod (k : BitVec 2) (o : VoteOp) : (0#3 ++ k ++ o.code : BitVec 8).extractLsb' 0 3 = o.code ∧
    (0#3 ++ k ++ o.code : BitVec 8).extractLsb' 3 2 = k :=
  ⟨append_low _ _, (append_high _ _ 3 2 (by decide)).trans (append_low _ _)⟩
theorem Xvote_parse (op : BitVec 8) (p : Xvote) : Xvote.parse (p.enc op) = .ok p := by
  simp only [Xvote.parse, Xvote.enc, Xvote_mod, VoteOp_ofCode, srcOf_enc, Dst_dec_enc]; rfl
theorem Xcmx_imm (k j : BitVec 3) : (0#26 ++ k ++ j : BitVec 32).extractLsb' 0 3 = j ∧
    (0#26 ++ k ++ j : BitVec 32).extractLsb' 3 3 = k :=
  ⟨append_low _ _, (append_high _ _ 3 3 (by decide)).trans (append_low _ _)⟩
theorem Xcmx_parse (op : BitVec 8) (p : Xcmx) : Xcmx.parse (p.enc op) = .ok p := by
  simp only [Xcmx.parse, Xcmx.enc, Fields.ty, tyMod_ty, Ty_ofCode, Xcmx_imm, srcOf_enc, Dst_dec_enc]; rfl
theorem Ld_parse (op : BitVec 8) (p : Ld) : Ld.parse (p.enc op) = .ok p := by
  simp only [Ld.parse, Ld.enc, memOp_enc, Fields.ty, Fields.ord, Fields.sc, memMod_ty, memMod_ord, memMod_sc,
    Ty_ofCode, Ord_ofCode, Scope_ofCode, Dst_dec_enc]; rfl
theorem St_parse (op : BitVec 8) (p : St) : St.parse (p.enc op) = .ok p := by
  simp only [St.parse, St.enc, memOp_enc, Fields.ty, Fields.ord, Fields.sc, memMod_ty, memMod_ord, memMod_sc,
    Ty_ofCode, Ord_ofCode, Scope_ofCode, Fields.srcC, memImm_low, srcOf_enc]; rfl
theorem Atom_parse (op : BitVec 8) (p : Atom) : Atom.parse (p.enc op) = .ok p := by
  simp only [Atom.parse, Atom.enc, memOp_enc, Fields.ty, Fields.ord, Fields.sc, memMod_ty, memMod_ord, memMod_sc,
    Ty_ofCode, Ord_ofCode, Scope_ofCode, Fields.srcC, memImm_low, memImm_op, Fields.atomOp, AtomOp_ofCode, srcOf_enc,
    Dst_dec_enc]; rfl
theorem Red_parse (op : BitVec 8) (p : Red) : Red.parse (p.enc op) = .ok p := by
  simp only [Red.parse, Red.enc, memOp_enc, Fields.ty, Fields.ord, Fields.sc, memMod_ty, memMod_ord, memMod_sc,
    Ty_ofCode, Ord_ofCode, Scope_ofCode, Fields.srcC, memImm_low, memImm_op, Fields.atomOp, AtomOp_ofCode, srcOf_enc]; rfl
theorem Cas_parse (op : BitVec 8) (p : Cas) : Cas.parse (p.enc op) = .ok p := by
  simp only [Cas.parse, Cas.enc, memOp_enc, Fields.ty, Fields.ord, Fields.sc, memMod_ty, memMod_ord, memMod_sc,
    Ty_ofCode, Ord_ofCode, Scope_ofCode, Fields.srcC, memImm_low, vecOf_enc, Dst_dec_enc]; rfl
theorem Pref_parse (op : BitVec 8) (p : Pref) : Pref.parse (p.enc op) = .ok p := by
  obtain ⟨h, d, m⟩ := p
  have hd : (memMod .i8 .rlx (if d = true then .dev else .blk)).getLsbD 7 = d := by cases d <;> decide
  simp only [Pref.parse, Pref.enc, memOp_enc, hd]; rfl
theorem barMod_gang (f : BitVec 3) (g : Bool) : (barMod f g).getLsbD 3 = g :=
  (append_high_bit _ _ 3 (by decide)).trans ((append_low_bit _ _ 0 (by decide)).trans (bool_bit _))
theorem BarV_parse (op : BitVec 8) (f : BitVec 3) (p : BarV) : BarV.parse (p.enc op f) = .ok p := by
  simp only [BarV.parse, BarV.enc, memOp_enc, barMod_gang, Fields.srcC, memImm_low, srcOf_enc]; rfl
theorem BarD_parse (op : BitVec 8) (f : BitVec 3) (p : BarD) : BarD.parse (p.enc op f) = .ok p := by
  simp only [BarD.parse, BarD.enc, memOp_enc, barMod_gang, Dst_dec_enc]; rfl
theorem phase_sc (s : Scope) (o : BitVec 2) : (0#4 ++ s.code ++ o : BitVec 8).extractLsb' 2 2 = s.code :=
  (append_high _ _ 2 2 (by decide)).trans (append_low _ _)
theorem Scoped_parsePhase (op : BitVec 8) (o : BitVec 2) (p : Scoped) :
    Scoped.parsePhase (p.encPhase op o) = .ok p := by
  simp only [Scoped.parsePhase, Scoped.encPhase, phase_sc, Scope_ofCode]
theorem fence_sc (s : Scope) : (0#6 ++ s.code : BitVec 8).extractLsb' 0 2 = s.code := append_low _ _
theorem Scoped_parseFence (op : BitVec 8) (p : Scoped) : Scoped.parseFence (p.encFence op) = .ok p := by
  simp only [Scoped.parseFence, Scoped.encFence, fence_sc, Scope_ofCode]
theorem Waita_parse (op : BitVec 8) (p : Waita) : Waita.parse (p.enc op) = .ok p := by
  simp only [Waita.parse, Waita.enc, memOp_enc, Dst_dec_enc]; rfl
theorem cpyMod_bits (f : BitVec 1) (b g : Bool) : (cpyMod f b g).getLsbD 4 = b ∧ (cpyMod f b g).getLsbD 5 = g := by
  revert f b g; decide
theorem cpy_imm (k : BitVec 15) (c : BitVec 12) : (0#5 ++ k ++ c : BitVec 32).extractLsb' 0 12 = c ∧
    (0#5 ++ k ++ c : BitVec 32).extractLsb' 12 15 = k :=
  ⟨append_low _ _, (append_high _ _ 12 15 (by decide)).trans (append_low _ _)⟩
theorem Cpy_parse (op : BitVec 8) (f : BitVec 1) (p : Cpy) : Cpy.parse (p.enc op f) = .ok p := by
  simp only [Cpy.parse, Cpy.enc, cpyMod_bits, cpy_imm, Fields.srcC, recOf_enc, vecOf_enc]; rfl
theorem Mxldb_parse (op : BitVec 8) (p : Mxldb) : Mxldb.parse (p.enc op) = .ok p := by
  simp only [Mxldb.parse, Mxldb.enc, cpyMod_bits, cpy_imm, Fields.srcC, recOf_enc, vecOf_enc]; rfl
theorem fab_ord (x : BitVec 2) (o : Ord) : (0#4 ++ x ++ o.code : BitVec 8).extractLsb' 0 2 = o.code := append_low _ _
theorem Fab_parse (op : BitVec 8) (p : Fab) : Fab.parse (p.enc op) = .ok p := by
  simp only [Fab.parse, Fab.enc, fab_ord, Ord_ofCode, Fields.srcC, immC_low, srcOf_enc]; rfl
theorem Coll_parse (op mod : BitVec 8) (p : Coll) : Coll.parse (p.enc op mod) = .ok p := by
  simp only [Coll.parse, Coll.enc, srcOf_enc, Dst_dec_enc]; rfl
theorem Launch_parse (op mod : BitVec 8) (p : Launch) : Launch.parse (p.enc op mod) = .ok p := by
  simp only [Launch.parse, Launch.enc, srcOf_enc, Dst_dec_enc]; rfl
theorem Mxop_parse (op : BitVec 8) (p : Mxop) : Mxop.parse (p.enc op) = .ok p := by
  simp only [Mxop.parse, Mxop.enc, srcOf_enc]; rfl
theorem mxacc_mod (f : BitVec 3) (o : BitVec 2) : (0#3 ++ f ++ o : BitVec 8).extractLsb' 2 3 = f :=
  (append_high _ _ 2 3 (by decide)).trans (append_low _ _)
theorem Mxacc_parse (op : BitVec 8) (o : BitVec 2) (p : Mxacc) : Mxacc.parse (p.enc op o) = .ok p := by
  simp only [Mxacc.parse, Mxacc.enc, mxacc_mod, Fields.srcC, num_enc, vecOf_enc]; rfl

/-! ## Which opcode and which form -/

theorem parse_control (f : Fields) (h : (f.op.extractLsb' 4 4).toNat = 0) : parseFields f = parseControl f := by
  simp only [parseFields, h]
theorem parse_integer (f : Fields) (h : (f.op.extractLsb' 4 4).toNat = 1) : parseFields f = parseInteger f := by
  simp only [parseFields, h]
theorem parse_logic (f : Fields) (h : (f.op.extractLsb' 4 4).toNat = 2) : parseFields f = parseLogic f := by
  simp only [parseFields, h]
theorem parse_system (f : Fields) (h : (f.op.extractLsb' 4 4).toNat = 3) : parseFields f = parseSystem f := by
  simp only [parseFields, h]
theorem parse_float (f : Fields) (h : (f.op.extractLsb' 4 4).toNat = 4) : parseFields f = parseFloat f := by
  simp only [parseFields, h]
theorem parse_convert (f : Fields) (h : (f.op.extractLsb' 4 4).toNat = 5) : parseFields f = parseConvert f := by
  simp only [parseFields, h]
theorem parse_cross (f : Fields) (h : (f.op.extractLsb' 4 4).toNat = 6) : parseFields f = parseCross f := by
  simp only [parseFields, h]
theorem parse_memory (f : Fields) (h : (f.op.extractLsb' 4 4).toNat = 7) : parseFields f = parseMemory f := by
  simp only [parseFields, h]
theorem parse_sync (f : Fields) (h : (f.op.extractLsb' 4 4).toNat = 8) : parseFields f = parseSync f := by
  simp only [parseFields, h]
theorem parse_engine (f : Fields) (h : (f.op.extractLsb' 4 4).toNat = 9) : parseFields f = parseEngine f := by
  simp only [parseFields, h]
theorem parse_matrix (f : Fields) (h : (f.op.extractLsb' 4 4).toNat = 10) : parseFields f = parseMatrix f := by
  simp only [parseFields, h]
theorem barInit_form (f : Fields) (h : (f.mod.extractLsb' 0 3).toNat = 0) : parseBar f = (do return .barInit (← BarV.parse f)) := by
  simp only [parseBar, h]
theorem barExpect_form (f : Fields) (h : (f.mod.extractLsb' 0 3).toNat = 1) : parseBar f = (do return .barExpect (← BarV.parse f)) := by
  simp only [parseBar, h]
theorem barArrive_form (f : Fields) (h : (f.mod.extractLsb' 0 3).toNat = 2) : parseBar f = (do return .barArrive (← BarD.parse f)) := by
  simp only [parseBar, h]
theorem barWait_form (f : Fields) (h : (f.mod.extractLsb' 0 3).toNat = 3) : parseBar f = (do return .barWait (← BarV.parse f)) := by
  simp only [parseBar, h]
theorem barArrwait_form (f : Fields) (h : (f.mod.extractLsb' 0 3).toNat = 4) : parseBar f = (do return .barArrwait (← BarD.parse f)) := by
  simp only [parseBar, h]
theorem phaseAcq_form (f : Fields) (h : (f.mod.extractLsb' 0 2).toNat = 1) : parsePhase f = (do return .phaseAcq (← Scoped.parsePhase f)) := by
  simp only [parsePhase, h]
theorem phaseRel_form (f : Fields) (h : (f.mod.extractLsb' 0 2).toNat = 2) : parsePhase f = (do return .phaseRel (← Scoped.parsePhase f)) := by
  simp only [parsePhase, h]
theorem phaseAr_form (f : Fields) (h : (f.mod.extractLsb' 0 2).toNat = 3) : parsePhase f = (do return .phaseAr (← Scoped.parsePhase f)) := by
  simp only [parsePhase, h]
theorem collStep_form (f : Fields) (h : f.mod.toNat = 0) : parseColl f = (do return .collStep (← Coll.parse f)) := by
  simp only [parseColl, h]
theorem collSetup_form (f : Fields) (h : f.mod.toNat = 1) : parseColl f = (do return .collSetup (← Coll.parse f)) := by
  simp only [parseColl, h]
theorem collFree_form (f : Fields) (h : f.mod.toNat = 2) : parseColl f = (do return .collFree (← Coll.parse f)) := by
  simp only [parseColl, h]
theorem nsigArm_form (f : Fields) (h : f.mod.toNat = 0) : parseNsig f = (do return .nsigArm (← Launch.parse f)) := by
  simp only [parseNsig, h]
theorem nsigDec_form (f : Fields) (h : f.mod.toNat = 1) : parseNsig f = (do return .nsigDec (← Coll.parse f)) := by
  simp only [parseNsig, h]
theorem nsigCan_form (f : Fields) (h : f.mod.toNat = 2) : parseNsig f = (do return .nsigCan (← Coll.parse f)) := by
  simp only [parseNsig, h]
theorem nsigQry_form (f : Fields) (h : f.mod.toNat = 3) : parseNsig f = (do return .nsigQry (← Launch.parse f)) := by
  simp only [parseNsig, h]
theorem mxaccZero_form (f : Fields) (h : (f.mod.extractLsb' 0 2).toNat = 0) : parseMxacc f = (do return .mxaccZero (← Mxacc.parse f)) := by
  simp only [parseMxacc, h]
theorem mxaccLd_form (f : Fields) (h : (f.mod.extractLsb' 0 2).toNat = 1) : parseMxacc f = (do return .mxaccLd (← Mxacc.parse f)) := by
  simp only [parseMxacc, h]
theorem mxaccSt_form (f : Fields) (h : (f.mod.extractLsb' 0 2).toNat = 2) : parseMxacc f = (do return .mxaccSt (← Mxacc.parse f)) := by
  simp only [parseMxacc, h]
theorem mxaccFree_form (f : Fields) (h : (f.mod.extractLsb' 0 2).toNat = 3) : parseMxacc f = (do return .mxaccFree (← Mxacc.parse f)) := by
  simp only [parseMxacc, h]
theorem sset_form (f : Fields) (ho : f.op.toNat = 0x32) (h : f.mod = 0x07) :
    parseSystem f = (do return .sset (← Sset.parse f)) := by
  simp [parseSystem, ho, h]
theorem ssetLo_form (f : Fields) (ho : f.op.toNat = 0x32) (h : f.mod = 0x16) :
    parseSystem f = (do return .ssetLo (← Sset.parse f)) := by
  simp [parseSystem, ho, h]
theorem ssetHi_form (f : Fields) (ho : f.op.toNat = 0x32) (h : f.mod = 0x26) :
    parseSystem f = (do return .ssetHi (← Sset.parse f)) := by
  simp [parseSystem, ho, h]
theorem not_true {b : Bool} (h : b = false) : ¬ b = true := by simp [h]
theorem idivQ_mod (t : Ty) (b : Bool) : (tyMod t b ||| 0).getLsbD 5 = false := by cases t <;> cases b <;> decide
theorem idivR_mod (t : Ty) (b : Bool) : (tyMod t b ||| 0x20).getLsbD 5 = true := by cases t <;> cases b <;> decide
theorem left_mod (t : Ty) : (tyMod t false ||| 0).getLsbD 4 = false := by cases t <;> decide
theorem right_mod (t : Ty) (b : Bool) : (tyMod t b ||| 0x10).getLsbD 4 = true := by cases t <;> cases b <;> decide
theorem cpyMod_form (f : BitVec 1) (b g : Bool) : (cpyMod f b g).getLsbD 0 = (f == 1) := by revert f b g; decide
theorem barMod_form (f : BitVec 3) (g : Bool) : (barMod f g).extractLsb' 0 3 = f := append_low _ _
theorem phase_form (s : Scope) (o : BitVec 2) : (0#4 ++ s.code ++ o : BitVec 8).extractLsb' 0 2 = o := append_low _ _
theorem mxacc_form (f : BitVec 3) (o : BitVec 2) : (0#3 ++ f ++ o : BitVec 8).extractLsb' 0 2 = o := append_low _ _

theorem Alu2_parseDir_left (op : BitVec 8) (p : Alu2) (h : p.sat = false) : Alu2.parseDir (p.enc op 0) = .ok p := by
  obtain ⟨hd, ty, sat, d, a, b, i⟩ := p
  obtain rfl : sat = false := h
  simp only [Alu2.parseDir, Alu2_parse]; rfl
theorem Alu2_parseDir_right (op : BitVec 8) (p : Alu2) (h : p.sat = false) :
    Alu2.parseDir (p.enc op 0x10) = .ok p := by
  obtain ⟨hd, ty, sat, d, a, b, i⟩ := p
  obtain rfl : sat = false := h
  simp only [Alu2.parseDir, Alu2_parse_var _ _ _ (Or.inl rfl)]; rfl
theorem Alu3_parseDir_left (op : BitVec 8) (p : Alu3) (h : p.sat = false) : Alu3.parseDir (p.enc op 0) = .ok p := by
  obtain ⟨hd, ty, sat, d, a, b, i⟩ := p
  obtain rfl : sat = false := h
  simp only [Alu3.parseDir, Alu3_parse]; rfl
theorem Alu3_parseDir_right (op : BitVec 8) (p : Alu3) (h : p.sat = false) :
    Alu3.parseDir (p.enc op 0x10) = .ok p := by
  obtain ⟨hd, ty, sat, d, a, b, i⟩ := p
  obtain rfl : sat = false := h
  simp only [Alu3.parseDir, Alu3_parse_var]; rfl
theorem Alu2_parse_rem (op : BitVec 8) (p : Alu2) : Alu2.parse (p.enc op 0x20) = .ok p := by
  obtain ⟨hd, ty, sat, d, a, b, i⟩ := p
  rw [Alu2_parse_var _ _ _ (Or.inr rfl)]; cases sat <;> rfl

end Sys2Proof.Laws
end

