-- ==== Sys2Proof/Laws/PerInstr.lean ====
section
/-! SUPPORT. Decoding the word of a well-formed instruction gives the instruction: one lemma per constructor. -/

namespace Sys2Proof.Laws

/-- What parses back, passes the guard and the operand rules, is what its word decodes to. -/
theorem decode_encode_of {i : Instr} {f : Fields} (hf : i.fields = some f) (hp : parseFields f = .ok i)
    (hg : f.head.guardOk = true) (hw : i.wf = true) : decode (encode i) = .ok i := by
  have he : encode i = f.pack := by simp only [encode, hf]
  have : (do
      let i ← parseFields f
      if i.fields.map (·.mod) != some f.mod then Except.error Reject.reservedMod
      else if i.fields != some f then .error .unusedField
      else if !f.head.guardOk then .error .illegalGuard
      else if !i.wf then .error .forbiddenOperand
      else .ok i) = Except.ok i := by
    rw [hp]
    simp [bind, Except.bind, hf, hg, hw]
  rw [decode, he, unpack_pack]
  exact this

theorem Alu1_wf_guard {tys : List Ty} {satOk cceOk d32 : Bool} {p : Alu1} (h : Alu1.wf tys satOk cceOk d32 p = true) : p.head.guardOk = true := by
  simp only [Alu1.wf, Bool.and_eq_true] at h; simp only [h]
theorem Alu2_wf_guard {tys : List Ty} {satOk cceOk b32 : Bool} {p : Alu2} (h : Alu2.wf tys satOk cceOk b32 p = true) : p.head.guardOk = true := by
  simp only [Alu2.wf, Bool.and_eq_true] at h; simp only [h]
theorem Alu3_wf_guard {tys : List Ty} {satOk dw aw bw cw : Bool} {p : Alu3} (h : Alu3.wf tys satOk dw aw bw cw p = true) : p.head.guardOk = true := by
  simp only [Alu3.wf, Bool.and_eq_true] at h; simp only [h]
theorem AluC_wf_guard {p : AluC} (h : AluC.wf p = true) : p.head.guardOk = true := by
  simp only [AluC.wf, Bool.and_eq_true] at h; simp only [h]
theorem Atom_wf_guard {p : Atom} (h : Atom.wf p = true) : p.head.guardOk = true := by
  simp only [Atom.wf, Bool.and_eq_true] at h; simp only [h]
theorem BarD_wf_guard {p : BarD} (h : BarD.wf p = true) : p.head.guardOk = true := by
  simp only [BarD.wf, Bool.and_eq_true] at h; simp only [h]
theorem BarV_wf_guard {wide : Bool} {p : BarV} (h : BarV.wf wide p = true) : p.head.guardOk = true := by
  simp only [BarV.wf, Bool.and_eq_true] at h; simp only [h]
theorem Bkpt_wf_guard {p : Bkpt} (h : Bkpt.wf p = true) : p.head.guardOk = true := by
  simp only [Bkpt.wf, Bool.and_eq_true] at h; simp only [h]
theorem Bool3_wf_guard {p : Bool3} (h : Bool3.wf p = true) : p.head.guardOk = true := by
  simp only [Bool3.wf, Bool.and_eq_true] at h; simp only [h]
theorem Branch_wf_guard {p : Branch} (h : Branch.wf p = true) : p.head.guardOk = true := by
  simp only [Branch.wf, Bool.and_eq_true] at h; simp only [h]
theorem BranchX_wf_guard {p : BranchX} (h : BranchX.wf p = true) : p.head.guardOk = true := by
  simp only [BranchX.wf, Bool.and_eq_true] at h; simp only [h]
theorem Call_wf_guard {p : Call} (h : Call.wf p = true) : p.head.guardOk = true := by
  simp only [Call.wf, Bool.and_eq_true] at h; simp only [h]
theorem CallX_wf_guard {p : CallX} (h : CallX.wf p = true) : p.head.guardOk = true := by
  simp only [CallX.wf, Bool.and_eq_true] at h; simp only [h]
theorem Cas_wf_guard {p : Cas} (h : Cas.wf p = true) : p.head.guardOk = true := by
  simp only [Cas.wf, Bool.and_eq_true] at h; simp only [h]
theorem Cmp2_wf_guard {p : Cmp2} (h : Cmp2.wf p = true) : p.head.guardOk = true := by
  simp only [Cmp2.wf, Bool.and_eq_true] at h; simp only [h]
theorem Coll_wfColl_guard {wide : Bool} {p : Coll} (h : Coll.wfColl wide p = true) : p.head.guardOk = true := by
  simp only [Coll.wfColl, Bool.and_eq_true] at h; simp only [h]
theorem Coll_wfMask_guard {p : Coll} (h : Coll.wfMask p = true) : p.head.guardOk = true := by
  simp only [Coll.wfMask, Bool.and_eq_true] at h; simp only [h]
theorem Coll_wfNsig_guard {p : Coll} (h : Coll.wfNsig p = true) : p.head.guardOk = true := by
  simp only [Coll.wfNsig, Bool.and_eq_true] at h; simp only [h]
theorem Cpy_wf_guard {p : Cpy} (h : Cpy.wf p = true) : p.head.guardOk = true := by
  simp only [Cpy.wf, Bool.and_eq_true] at h; simp only [h]
theorem Cvt_wf_guard {p : Cvt} (h : Cvt.wf p = true) : p.head.guardOk = true := by
  simp only [Cvt.wf, Bool.and_eq_true] at h; simp only [h]
theorem CvtpP_wf_guard {p : CvtpP} (h : CvtpP.wf p = true) : p.head.guardOk = true := by
  simp only [CvtpP.wf, Bool.and_eq_true] at h; simp only [h]
theorem CvtpU_wf_guard {p : CvtpU} (h : CvtpU.wf p = true) : p.head.guardOk = true := by
  simp only [CvtpU.wf, Bool.and_eq_true] at h; simp only [h]
theorem Dqnt_wf_guard {p : Dqnt} (h : Dqnt.wf p = true) : p.head.guardOk = true := by
  simp only [Dqnt.wf, Bool.and_eq_true] at h; simp only [h]
theorem DstOnly_wf_guard {cceOk : Bool} {p : DstOnly} (h : DstOnly.wf cceOk p = true) : p.head.guardOk = true := by
  simp only [DstOnly.wf, Bool.and_eq_true] at h; simp only [h]
theorem Fab_wf_guard {ordOk : Bool} {p : Fab} (h : Fab.wf ordOk p = true) : p.head.guardOk = true := by
  simp only [Fab.wf, Bool.and_eq_true] at h; simp only [h]
theorem Fcmp_wf_guard {p : Fcmp} (h : Fcmp.wf p = true) : p.head.guardOk = true := by
  simp only [Fcmp.wf, Bool.and_eq_true] at h; simp only [h]
theorem Fp1_wf_guard {tys : List Ty} {p : Fp1} (h : Fp1.wf tys p = true) : p.head.guardOk = true := by
  simp only [Fp1.wf, Bool.and_eq_true] at h; simp only [h]
theorem Fp2_wf_guard {tys : List Ty} {rndOk cceOk d32 b32 : Bool} {p : Fp2} (h : Fp2.wf tys rndOk cceOk d32 b32 p = true) : p.head.guardOk = true := by
  simp only [Fp2.wf, Bool.and_eq_true] at h; simp only [h]
theorem Fp3_wf_guard {tys : List Ty} {rndOk : Bool} {p : Fp3} (h : Fp3.wf tys rndOk p = true) : p.head.guardOk = true := by
  simp only [Fp3.wf, Bool.and_eq_true] at h; simp only [h]
theorem Hmnmx_wf_guard {p : Hmnmx} (h : Hmnmx.wf p = true) : p.head.guardOk = true := by
  simp only [Hmnmx.wf, Bool.and_eq_true] at h; simp only [h]
theorem Launch_wf_guard {dw aw : Bool} {p : Launch} (h : Launch.wf dw aw p = true) : p.head.guardOk = true := by
  simp only [Launch.wf, Bool.and_eq_true] at h; simp only [h]
theorem Ld_wf_guard {fx : Bool} {p : Ld} (h : Ld.wf fx p = true) : p.head.guardOk = true := by
  simp only [Ld.wf, Bool.and_eq_true] at h; simp only [h]
theorem Loop_wf_guard {p : Loop} (h : Loop.wf p = true) : p.head.guardOk = true := by
  simp only [Loop.wf, Bool.and_eq_true] at h; simp only [h]
theorem Movi_wf_guard {p : Movi} (h : Movi.wf p = true) : p.head.guardOk = true := by
  simp only [Movi.wf, Bool.and_eq_true] at h; simp only [h]
theorem Mxacc_wf_guard {fOk : Bool} {p : Mxacc} (h : Mxacc.wf fOk p = true) : p.head.guardOk = true := by
  simp only [Mxacc.wf, Bool.and_eq_true] at h; simp only [h]
theorem Mxldb_wf_guard {p : Mxldb} (h : Mxldb.wf p = true) : p.head.guardOk = true := by
  simp only [Mxldb.wf, Bool.and_eq_true] at h; simp only [h]
theorem Mxop_wf_guard {p : Mxop} (h : Mxop.wf p = true) : p.head.guardOk = true := by
  simp only [Mxop.wf, Bool.and_eq_true] at h; simp only [h]
theorem Permb_wf_guard {p : Permb} (h : Permb.wf p = true) : p.head.guardOk = true := by
  simp only [Permb.wf, Bool.and_eq_true] at h; simp only [h]
theorem Plain_wf_guard {last : Bool} {p : Plain} (h : Plain.wf last p = true) : p.head.guardOk = true := by
  simp only [Plain.wf, Bool.and_eq_true] at h; simp only [h]
theorem Pref_wf_guard {p : Pref} (h : Pref.wf p = true) : p.head.guardOk = true := by
  simp only [Pref.wf, Bool.and_eq_true] at h; simp only [h]
theorem Qnt_wf_guard {p : Qnt} (h : Qnt.wf p = true) : p.head.guardOk = true := by
  simp only [Qnt.wf, Bool.and_eq_true] at h; simp only [h]
theorem Qscale_wf_guard {p : Qscale} (h : Qscale.wf p = true) : p.head.guardOk = true := by
  simp only [Qscale.wf, Bool.and_eq_true] at h; simp only [h]
theorem Rand_wf_guard {p : Rand} (h : Rand.wf p = true) : p.head.guardOk = true := by
  simp only [Rand.wf, Bool.and_eq_true] at h; simp only [h]
theorem Rdsr_wf_guard {p : Rdsr} (h : Rdsr.wf p = true) : p.head.guardOk = true := by
  simp only [Rdsr.wf, Bool.and_eq_true] at h; simp only [h]
theorem Red_wf_guard {p : Red} (h : Red.wf p = true) : p.head.guardOk = true := by
  simp only [Red.wf, Bool.and_eq_true] at h; simp only [h]
theorem Sadd_wf_guard {p : Sadd} (h : Sadd.wf p = true) : p.head.guardOk = true := by
  simp only [Sadd.wf, Bool.and_eq_true] at h; simp only [h]
theorem Scoped_wf_guard {p : Scoped} (h : Scoped.wf p = true) : p.head.guardOk = true := by
  simp only [Scoped.wf, Bool.and_eq_true] at h; simp only [h]
theorem Sel_wf_guard {p : Sel} (h : Sel.wf p = true) : p.head.guardOk = true := by
  simp only [Sel.wf, Bool.and_eq_true] at h; simp only [h]
theorem Sld_wf_guard {p : Sld} (h : Sld.wf p = true) : p.head.guardOk = true := by
  simp only [Sld.wf, Bool.and_eq_true] at h; simp only [h]
theorem Sset_wf_guard {wide : Bool} {p : Sset} (h : Sset.wf wide p = true) : p.head.guardOk = true := by
  simp only [Sset.wf, Bool.and_eq_true] at h; simp only [h]
theorem St_wf_guard {fx : Bool} {p : St} (h : St.wf fx p = true) : p.head.guardOk = true := by
  simp only [St.wf, Bool.and_eq_true] at h; simp only [h]
theorem TrapN_wf_guard {p : TrapN} (h : TrapN.wf p = true) : p.head.guardOk = true := by
  simp only [TrapN.wf, Bool.and_eq_true] at h; simp only [h]
theorem Waita_wf_guard {p : Waita} (h : Waita.wf p = true) : p.head.guardOk = true := by
  simp only [Waita.wf, Bool.and_eq_true] at h; simp only [h]
theorem Wrsr_wf_guard {p : Wrsr} (h : Wrsr.wf p = true) : p.head.guardOk = true := by
  simp only [Wrsr.wf, Bool.and_eq_true] at h; simp only [h]
theorem Xcmx_wf_guard {p : Xcmx} (h : Xcmx.wf p = true) : p.head.guardOk = true := by
  simp only [Xcmx.wf, Bool.and_eq_true] at h; simp only [h]
theorem Xred_wf_guard {excOk : Bool} {p : Xred} (h : Xred.wf excOk p = true) : p.head.guardOk = true := by
  simp only [Xred.wf, Bool.and_eq_true] at h; simp only [h]
theorem Xshf_wf_guard {p : Xshf} (h : Xshf.wf p = true) : p.head.guardOk = true := by
  simp only [Xshf.wf, Bool.and_eq_true] at h; simp only [h]
theorem Xvote_wf_guard {p : Xvote} (h : Xvote.wf p = true) : p.head.guardOk = true := by
  simp only [Xvote.wf, Bool.and_eq_true] at h; simp only [h]
theorem Alu2_wf_sat {tys : List Ty} {c b : Bool} {p : Alu2} (h : Alu2.wf tys false c b p = true) : p.sat = false := by
  simp only [Alu2.wf, Bool.and_eq_true, Bool.or_false, Bool.not_eq_true'] at h; simp only [h]
theorem Alu3_wf_sat {tys : List Ty} {d a b c : Bool} {p : Alu3} (h : Alu3.wf tys false d a b c p = true) :
    p.sat = false := by
  simp only [Alu3.wf, Bool.and_eq_true, Bool.or_false, Bool.not_eq_true'] at h; simp only [h]

end Sys2Proof.Laws

namespace Sys2Proof.Laws.RoundTrip

/-- The word of a well-formed program instruction decodes to it. -/
def Statement (i : Instr) : Prop := i.isProgram = true → i.wf = true → decode (encode i) = .ok i

/-- A device event has no word. -/
theorem event (i : Instr) (h : i.isProgram = false) : Statement i := fun hp _ => by rw [h] at hp; cases hp

theorem moduleReset (r : BootReport) : Statement (.moduleReset r) := event _ rfl
theorem linkTraining (width : Nat) (rate : Nat) : Statement (.linkTraining width rate) := event _ rfl
theorem unsupportedRequest (fn : Nat) (q : HostRequest) : Statement (.unsupportedRequest fn q) := event _ rfl
theorem liveFirmwareUpdate (fw : Firmware) : Statement (.liveFirmwareUpdate fw) := event _ rfl
theorem monitorSample (m : Sample) : Statement (.monitorSample m) := event _ rfl
theorem powerAlarmClear : Statement .powerAlarmClear := event _ rfl
theorem thermalTripEnd : Statement .thermalTripEnd := event _ rfl
theorem processMonitorRead (counts : List Nat) : Statement (.processMonitorRead counts) := event _ rfl
theorem energyMeterUpdate (e : EnergyReport) : Statement (.energyMeterUpdate e) := event _ rfl
theorem planningInterval : Statement .planningInterval := event _ rfl
theorem pwrlimWrite (v : Word) : Statement (.pwrlimWrite v) := event _ rfl
theorem quadFailureRepair (quad : QuadFault) : Statement (.quadFailureRepair quad) := event _ rfl
theorem quadRemap (quad : Nat) (pq : BitVec 5) : Statement (.quadRemap quad pq) := event _ rfl
theorem hbmRowSpare (stack : Nat) : Statement (.hbmRowSpare stack) := event _ rfl
theorem hbmPageRetire (frames : List Nat) : Statement (.hbmPageRetire frames) := event _ rfl
theorem fabricLaneRetire (port : Nat) (lane : Nat) : Statement (.fabricLaneRetire port lane) := event _ rfl
theorem moduleHotSwap (module : BitVec 11) : Statement (.moduleHotSwap module) := event _ rfl
theorem memoryScrub : Statement .memoryScrub := event _ rfl
theorem hiddenStructureError (place : HiddenPlace) (syndrome : Word) : Statement (.hiddenStructureError place syndrome) := event _ rfl
theorem correctedError (c : Corrected) : Statement (.correctedError c) := event _ rfl
theorem launchSlotWrite (vf : Nat) (off : Nat) (bytes : List Byte) : Statement (.launchSlotWrite vf off bytes) := event _ rfl
theorem launchCommit (vf : Nat) (off : Nat) (bytes : List Byte) : Statement (.launchCommit vf off bytes) := event _ rfl
theorem slotStatusRead (vf : Nat) (slot : Nat) : Statement (.slotStatusRead vf slot) := event _ rfl
theorem tcfgWrite (t : Nat) (v : DWord) : Statement (.tcfgWrite t v) := event _ rfl
theorem memoryWindowWrite (t : Nat) (off : Nat) (v : DWord) : Statement (.memoryWindowWrite t off v) := event _ rfl
theorem peerEntryWrite (t : Nat) (e : Nat) (v : DWord) : Statement (.peerEntryWrite t e v) := event _ rfl
theorem pathcfgWrite (t : Nat) (v : DWord) : Statement (.pathcfgWrite t v) := event _ rfl
theorem agemaxWrite (t : Nat) (v : DWord) : Statement (.agemaxWrite t v) := event _ rfl
theorem ptrootWrite (vf : Nat) (v : DWord) : Statement (.ptrootWrite vf v) := event _ rfl
theorem stampWrite (vf : Nat) (idx : Nat) (v : Word) : Statement (.stampWrite vf idx v) := event _ rfl
theorem tmeasinWrite (vf : Nat) (v : DWord) : Statement (.tmeasinWrite vf v) := event _ rfl
theorem attestationReport (fn : Nat) : Statement (.attestationReport fn) := event _ rfl
theorem attestationCertificate (fn : Nat) : Statement (.attestationCertificate fn) := event _ rfl
theorem attestationRequestEnd (written : Bool) : Statement (.attestationRequestEnd written) := event _ rfl
theorem registerWrite (fn : Nat) (off : Nat) (size : Nat) (v : DWord) : Statement (.registerWrite fn off size v) := event _ rfl
theorem flinkRead (fn : Nat) (port : Nat) : Statement (.flinkRead fn port) := event _ rfl
theorem msixUnmask (fn : Nat) (vec : Nat) : Statement (.msixUnmask fn vec) := event _ rfl
theorem functionLevelReset (vf : Nat) : Statement (.functionLevelReset vf) := event _ rfl
theorem apertureRead (vf : Nat) (off : Nat) (size : Nat) : Statement (.apertureRead vf off size) := event _ rfl
theorem apertureWrite (vf : Nat) (off : Nat) (bytes : List Byte) : Statement (.apertureWrite vf off bytes) := event _ rfl
theorem flitLinkCheckFailure (port : Nat) : Statement (.flitLinkCheckFailure port) := event _ rfl
theorem writePacket (port : Nat) (p : Packet) : Statement (.writePacket port p) := event _ rfl
theorem writeWithSignalPacket (port : Nat) (p : Packet) : Statement (.writeWithSignalPacket port p) := event _ rfl
theorem readRequestPacket (port : Nat) (p : Packet) : Statement (.readRequestPacket port p) := event _ rfl
theorem readResponsePacket (port : Nat) (p : Packet) : Statement (.readResponsePacket port p) := event _ rfl
theorem atomicRequestPacket (port : Nat) (p : Packet) : Statement (.atomicRequestPacket port p) := event _ rfl
theorem atomicResponsePacket (port : Nat) (p : Packet) : Statement (.atomicResponsePacket port p) := event _ rfl
theorem flushMarkerPacket (port : Nat) (p : Packet) : Statement (.flushMarkerPacket port p) := event _ rfl
theorem markerAckPacket (port : Nat) (p : Packet) : Statement (.markerAckPacket port p) := event _ rfl
theorem deliveryAckPacket (port : Nat) (p : Packet) : Statement (.deliveryAckPacket port p) := event _ rfl
theorem deliveryRefusalPacket (port : Nat) (p : Packet) : Statement (.deliveryRefusalPacket port p) := event _ rfl
theorem packetResendTimeout (dmod : BitVec 11) (sten : BitVec 4) (dten : BitVec 4) (seq : Word) : Statement (.packetResendTimeout dmod sten dten seq) := event _ rfl
theorem remoteHoldTimeout (smod : BitVec 11) (sten : BitVec 4) (dten : BitVec 4) (seq : Word) : Statement (.remoteHoldTimeout smod sten dten seq) := event _ rfl
theorem stepReadyPacket (port : Nat) (p : Packet) : Statement (.stepReadyPacket port p) := event _ rfl
theorem stepDataPacket (port : Nat) (p : Packet) : Statement (.stepDataPacket port p) := event _ rfl
theorem barrierArrivalPacket (port : Nat) (p : Packet) : Statement (.barrierArrivalPacket port p) := event _ rfl
theorem barrierReleasePacket (port : Nat) (p : Packet) : Statement (.barrierReleasePacket port p) := event _ rfl
theorem commSetupComplete (comm : BitVec 8) (others : List SetupReport) : Statement (.commSetupComplete comm others) := event _ rfl
theorem commSetupTimeout (e : SetupExpiry) : Statement (.commSetupTimeout e) := event _ rfl
theorem stepMatchTimeout (chain : Nat) : Statement (.stepMatchTimeout chain) := event _ rfl
theorem exchr (chain : Nat) : Statement (.exchr chain) := event _ rfl
theorem exchc (chain : Nat) : Statement (.exchc chain) := event _ rfl
theorem send (chain : Nat) : Statement (.send chain) := event _ rfl
theorem recv (chain : Nat) : Statement (.recv chain) := event _ rfl
theorem rscat (chain : Nat) : Statement (.rscat chain) := event _ rfl
theorem allred (chain : Nat) : Statement (.allred chain) := event _ rfl
theorem agath (chain : Nat) : Statement (.agath chain) := event _ rfl
theorem barrier (chain : Nat) : Statement (.barrier chain) := event _ rfl
theorem collStepComplete (chain : Nat) : Statement (.collStepComplete chain) := event _ rfl
theorem gangBind : Statement .gangBind := event _ rfl
theorem gangStart (quad : Nat) (node : Nat) : Statement (.gangStart quad node) := event _ rfl
theorem gangPreempt (core : Nat) (ent : Saving) : Statement (.gangPreempt core ent) := event _ rfl
theorem gangRestore (node : Nat) (block : Nat) : Statement (.gangRestore node block) := event _ rfl
theorem blockEnd (core : Nat) (ent : Nat) : Statement (.blockEnd core ent) := event _ rfl
theorem issueOpportunity (core : Nat) (part : Nat) (env : CycleEnv) : Statement (.issueOpportunity core part env) := event _ rfl
theorem gapElapsed (core : Nat) (ent : Nat) (tid : Nat) : Statement (.gapElapsed core ent tid) := event _ rfl
theorem yieldWake (core : Nat) (ent : Nat) (tid : Nat) : Statement (.yieldWake core ent tid) := event _ rfl
theorem loadDataReturn (core : Nat) (ent : Nat) (tid : Nat) : Statement (.loadDataReturn core ent tid) := event _ rfl
theorem fetchBlockFill (core : Nat) (ent : Nat) (tid : Nat) : Statement (.fetchBlockFill core ent tid) := event _ rfl
theorem granuleFill (core : Nat) (ent : Nat) (tid : Nat) (g : Nat) : Statement (.granuleFill core ent tid g) := event _ rfl
theorem pageWalk (core : Nat) (t : Nat) (va : CodeAddr) (write : Bool) : Statement (.pageWalk core t va write) := event _ rfl
theorem walkRetry (t : Nat) : Statement (.walkRetry t) := event _ rfl
theorem sideLogReplay (core : Nat) : Statement (.sideLogReplay core) := event _ rfl
theorem sweeperVisit (t : Nat) : Statement (.sweeperVisit t) := event _ rfl
theorem translationServicePoll (t : Nat) : Statement (.translationServicePoll t) := event _ rfl
theorem inval (t : Nat) : Statement (.inval t) := event _ rfl
theorem perm (t : Nat) : Statement (.perm t) := event _ rfl
theorem migrate (t : Nat) : Statement (.migrate t) := event _ rfl
theorem copyComplete (core : Nat) (ent : Nat) (idx : Nat) : Statement (.copyComplete core ent idx) := event _ rfl
theorem fabricCommandComplete (id : Nat) : Statement (.fabricCommandComplete id) := event _ rfl
theorem matrixGrant (quad : Nat) : Statement (.matrixGrant quad) := event _ rfl
theorem matrixPass (quad : Nat) (env : PassEnv) : Statement (.matrixPass quad env) := event _ rfl
theorem matrixComplete (quad : Nat) : Statement (.matrixComplete quad) := event _ rfl
theorem snapshotPoint (core : Nat) (ent : Nat) : Statement (.snapshotPoint core ent) := event _ rfl
theorem rollback (core : Nat) (ent : Nat) : Statement (.rollback core ent) := event _ rfl
theorem verifyTimeout (core : Nat) (ent : Nat) (tid : Nat) : Statement (.verifyTimeout core ent tid) := event _ rfl
theorem nop (p : Plain) : Statement (.nop p) := fun _ hw =>
  decode_encode_of rfl ((parse_control (p.enc 0x00) (by decide : ((0x00 : BitVec 8).extractLsb' 4 4).toNat = 0)).trans rfl) (Plain_wf_guard hw) hw
theorem bra (p : Branch) : Statement (.bra p) := fun _ hw =>
  decode_encode_of rfl ((parse_control (p.enc 0x01) (by decide : ((0x01 : BitVec 8).extractLsb' 4 4).toNat = 0)).trans rfl) (Branch_wf_guard hw) hw
theorem brx (p : BranchX) : Statement (.brx p) := fun _ hw =>
  decode_encode_of rfl ((parse_control (p.enc 0x02) (by decide : ((0x02 : BitVec 8).extractLsb' 4 4).toNat = 0)).trans (congrArg (fun x => x >>= fun q => pure (Instr.brx q)) (Laws.BranchX_parse _ p))) (BranchX_wf_guard hw) hw
theorem call (p : Call) : Statement (.call p) := fun _ hw =>
  decode_encode_of rfl ((parse_control (p.enc 0x03) (by decide : ((0x03 : BitVec 8).extractLsb' 4 4).toNat = 0)).trans rfl) (Call_wf_guard hw) hw
theorem callx (p : CallX) : Statement (.callx p) := fun _ hw =>
  decode_encode_of rfl ((parse_control (p.enc 0x04) (by decide : ((0x04 : BitVec 8).extractLsb' 4 4).toNat = 0)).trans (congrArg (fun x => x >>= fun q => pure (Instr.callx q)) (Laws.CallX_parse _ p))) (CallX_wf_guard hw) hw
theorem ret (p : Plain) : Statement (.ret p) := fun _ hw =>
  decode_encode_of rfl ((parse_control (p.enc 0x05) (by decide : ((0x05 : BitVec 8).extractLsb' 4 4).toNat = 0)).trans rfl) (Plain_wf_guard hw) hw
theorem exit (p : Plain) : Statement (.exit p) := fun _ hw =>
  decode_encode_of rfl ((parse_control (p.enc 0x06) (by decide : ((0x06 : BitVec 8).extractLsb' 4 4).toNat = 0)).trans rfl) (Plain_wf_guard hw) hw
theorem demote (p : Plain) : Statement (.demote p) := fun _ hw =>
  decode_encode_of rfl ((parse_control (p.enc 0x07) (by decide : ((0x07 : BitVec 8).extractLsb' 4 4).toNat = 0)).trans rfl) (Plain_wf_guard hw) hw
theorem yield (p : Plain) : Statement (.yield p) := fun _ hw =>
  decode_encode_of rfl ((parse_control (p.enc 0x08) (by decide : ((0x08 : BitVec 8).extractLsb' 4 4).toNat = 0)).trans rfl) (Plain_wf_guard hw) hw
theorem trap (p : TrapN) : Statement (.trap p) := fun _ hw =>
  decode_encode_of rfl ((parse_control (p.enc 0x09) (by decide : ((0x09 : BitVec 8).extractLsb' 4 4).toNat = 0)).trans (congrArg (fun x => x >>= fun q => pure (Instr.trap q)) (Laws.TrapN_parse _ p))) (TrapN_wf_guard hw) hw
theorem tret (p : Plain) : Statement (.tret p) := fun _ hw =>
  decode_encode_of rfl ((parse_control (p.enc 0x0A) (by decide : ((0x0A : BitVec 8).extractLsb' 4 4).toNat = 0)).trans rfl) (Plain_wf_guard hw) hw
theorem loop (p : Loop) : Statement (.loop p) := fun _ hw =>
  decode_encode_of rfl ((parse_control (p.enc 0x0B) (by decide : ((0x0B : BitVec 8).extractLsb' 4 4).toNat = 0)).trans (congrArg (fun x => x >>= fun q => pure (Instr.loop q)) (Laws.Loop_parse _ p))) (Loop_wf_guard hw) hw
theorem bkpt (p : Bkpt) : Statement (.bkpt p) := fun _ hw =>
  decode_encode_of rfl ((parse_control (p.enc 0x0C) (by decide : ((0x0C : BitVec 8).extractLsb' 4 4).toNat = 0)).trans (congrArg (fun x => x >>= fun q => pure (Instr.bkpt q)) (Laws.Bkpt_parse _ p))) (Bkpt_wf_guard hw) hw
theorem iadd (p : Alu2) : Statement (.iadd p) := fun _ hw =>
  decode_encode_of rfl ((parse_integer (p.enc 0x10 0) (by decide : ((0x10 : BitVec 8).extractLsb' 4 4).toNat = 1)).trans (congrArg (fun x => x >>= fun q => pure (Instr.iadd q)) (Laws.Alu2_parse _ p))) (Alu2_wf_guard hw) hw
theorem isub (p : Alu2) : Statement (.isub p) := fun _ hw =>
  decode_encode_of rfl ((parse_integer (p.enc 0x11 0) (by decide : ((0x11 : BitVec 8).extractLsb' 4 4).toNat = 1)).trans (congrArg (fun x => x >>= fun q => pure (Instr.isub q)) (Laws.Alu2_parse _ p))) (Alu2_wf_guard hw) hw
theorem iadc (p : AluC) : Statement (.iadc p) := fun _ hw =>
  decode_encode_of rfl ((parse_integer (p.enc 0x12) (by decide : ((0x12 : BitVec 8).extractLsb' 4 4).toNat = 1)).trans (congrArg (fun x => x >>= fun q => pure (Instr.iadc q)) (Laws.AluC_parse _ p))) (AluC_wf_guard hw) hw
theorem isbc (p : AluC) : Statement (.isbc p) := fun _ hw =>
  decode_encode_of rfl ((parse_integer (p.enc 0x13) (by decide : ((0x13 : BitVec 8).extractLsb' 4 4).toNat = 1)).trans (congrArg (fun x => x >>= fun q => pure (Instr.isbc q)) (Laws.AluC_parse _ p))) (AluC_wf_guard hw) hw
theorem imul (p : Alu2) : Statement (.imul p) := fun _ hw =>
  decode_encode_of rfl ((parse_integer (p.enc 0x14 0) (by decide : ((0x14 : BitVec 8).extractLsb' 4 4).toNat = 1)).trans (congrArg (fun x => x >>= fun q => pure (Instr.imul q)) (Laws.Alu2_parse _ p))) (Alu2_wf_guard hw) hw
theorem imulh (p : Alu2) : Statement (.imulh p) := fun _ hw =>
  decode_encode_of rfl ((parse_integer (p.enc 0x15 0) (by decide : ((0x15 : BitVec 8).extractLsb' 4 4).toNat = 1)).trans (congrArg (fun x => x >>= fun q => pure (Instr.imulh q)) (Laws.Alu2_parse _ p))) (Alu2_wf_guard hw) hw
theorem imad (p : Alu3) : Statement (.imad p) := fun _ hw =>
  decode_encode_of rfl ((parse_integer (p.enc 0x16 0) (by decide : ((0x16 : BitVec 8).extractLsb' 4 4).toNat = 1)).trans (congrArg (fun x => x >>= fun q => pure (Instr.imad q)) (Laws.Alu3_parse _ p))) (Alu3_wf_guard hw) hw
theorem imadw (p : Alu3) : Statement (.imadw p) := fun _ hw =>
  decode_encode_of rfl ((parse_integer (p.enc 0x17 0) (by decide : ((0x17 : BitVec 8).extractLsb' 4 4).toNat = 1)).trans (congrArg (fun x => x >>= fun q => pure (Instr.imadw q)) (Laws.Alu3_parse _ p))) (Alu3_wf_guard ((Bool.and_eq_true _ _).mp hw).1) hw
theorem imin (p : Alu2) : Statement (.imin p) := fun _ hw =>
  decode_encode_of rfl ((parse_integer (p.enc 0x18 0) (by decide : ((0x18 : BitVec 8).extractLsb' 4 4).toNat = 1)).trans (congrArg (fun x => x >>= fun q => pure (Instr.imin q)) (Laws.Alu2_parse _ p))) (Alu2_wf_guard hw) hw
theorem imax (p : Alu2) : Statement (.imax p) := fun _ hw =>
  decode_encode_of rfl ((parse_integer (p.enc 0x19 0) (by decide : ((0x19 : BitVec 8).extractLsb' 4 4).toNat = 1)).trans (congrArg (fun x => x >>= fun q => pure (Instr.imax q)) (Laws.Alu2_parse _ p))) (Alu2_wf_guard hw) hw
theorem iabs (p : Alu1) : Statement (.iabs p) := fun _ hw =>
  decode_encode_of rfl ((parse_integer (p.enc 0x1A) (by decide : ((0x1A : BitVec 8).extractLsb' 4 4).toNat = 1)).trans (congrArg (fun x => x >>= fun q => pure (Instr.iabs q)) (Laws.Alu1_parse _ p))) (Alu1_wf_guard hw) hw
theorem isad (p : Alu3) : Statement (.isad p) := fun _ hw =>
  decode_encode_of rfl ((parse_integer (p.enc 0x1B 0) (by decide : ((0x1B : BitVec 8).extractLsb' 4 4).toNat = 1)).trans (congrArg (fun x => x >>= fun q => pure (Instr.isad q)) (Laws.Alu3_parse _ p))) (Alu3_wf_guard hw) hw
theorem icmp (p : Cmp2) : Statement (.icmp p) := fun _ hw =>
  decode_encode_of rfl ((parse_integer (p.enc 0x1C) (by decide : ((0x1C : BitVec 8).extractLsb' 4 4).toNat = 1)).trans (congrArg (fun x => x >>= fun q => pure (Instr.icmp q)) (Laws.Cmp2_parse _ p))) (Cmp2_wf_guard hw) hw
theorem sel (p : Sel) : Statement (.sel p) := fun _ hw =>
  decode_encode_of rfl ((parse_integer (p.enc 0x1D) (by decide : ((0x1D : BitVec 8).extractLsb' 4 4).toNat = 1)).trans (congrArg (fun x => x >>= fun q => pure (Instr.sel q)) (Laws.Sel_parse _ p))) (Sel_wf_guard hw) hw
theorem iadd3 (p : Alu3) : Statement (.iadd3 p) := fun _ hw =>
  decode_encode_of rfl ((parse_integer (p.enc 0x1E 0) (by decide : ((0x1E : BitVec 8).extractLsb' 4 4).toNat = 1)).trans (congrArg (fun x => x >>= fun q => pure (Instr.iadd3 q)) (Laws.Alu3_parse _ p))) (Alu3_wf_guard hw) hw
theorem idivQ (p : Alu2) : Statement (.idivQ p) := fun _ hw =>
  decode_encode_of rfl ((parse_integer (p.enc 0x1F 0) (by decide : ((0x1F : BitVec 8).extractLsb' 4 4).toNat = 1)).trans (Eq.trans (if_neg (not_true (idivQ_mod p.ty p.sat))) (congrArg (fun x => x >>= fun q => pure (Instr.idivQ q)) (Laws.Alu2_parse _ p)))) (Alu2_wf_guard hw) hw
theorem idivR (p : Alu2) : Statement (.idivR p) := fun _ hw =>
  decode_encode_of rfl ((parse_integer (p.enc 0x1F 0x20) (by decide : ((0x1F : BitVec 8).extractLsb' 4 4).toNat = 1)).trans (Eq.trans (if_pos (idivR_mod p.ty p.sat)) (congrArg (fun x => x >>= fun q => pure (Instr.idivR q)) (Alu2_parse_rem _ p)))) (Alu2_wf_guard hw) hw
theorem and (p : Alu2) : Statement (.and p) := fun _ hw =>
  decode_encode_of rfl ((parse_logic (p.enc 0x20 0) (by decide : ((0x20 : BitVec 8).extractLsb' 4 4).toNat = 2)).trans (congrArg (fun x => x >>= fun q => pure (Instr.and q)) (Laws.Alu2_parse _ p))) (Alu2_wf_guard hw) hw
theorem or (p : Alu2) : Statement (.or p) := fun _ hw =>
  decode_encode_of rfl ((parse_logic (p.enc 0x21 0) (by decide : ((0x21 : BitVec 8).extractLsb' 4 4).toNat = 2)).trans (congrArg (fun x => x >>= fun q => pure (Instr.or q)) (Laws.Alu2_parse _ p))) (Alu2_wf_guard hw) hw
theorem xor (p : Alu2) : Statement (.xor p) := fun _ hw =>
  decode_encode_of rfl ((parse_logic (p.enc 0x22 0) (by decide : ((0x22 : BitVec 8).extractLsb' 4 4).toNat = 2)).trans (congrArg (fun x => x >>= fun q => pure (Instr.xor q)) (Laws.Alu2_parse _ p))) (Alu2_wf_guard hw) hw
theorem andn (p : Alu2) : Statement (.andn p) := fun _ hw =>
  decode_encode_of rfl ((parse_logic (p.enc 0x23 0) (by decide : ((0x23 : BitVec 8).extractLsb' 4 4).toNat = 2)).trans (congrArg (fun x => x >>= fun q => pure (Instr.andn q)) (Laws.Alu2_parse _ p))) (Alu2_wf_guard hw) hw
theorem bool3 (p : Bool3) : Statement (.bool3 p) := fun _ hw =>
  decode_encode_of rfl ((parse_logic (p.enc 0x24) (by decide : ((0x24 : BitVec 8).extractLsb' 4 4).toNat = 2)).trans (congrArg (fun x => x >>= fun q => pure (Instr.bool3 q)) (Laws.Bool3_parse _ p))) (Bool3_wf_guard hw) hw
theorem shl (p : Alu2) : Statement (.shl p) := fun _ hw =>
  decode_encode_of rfl ((parse_logic (p.enc 0x25 0) (by decide : ((0x25 : BitVec 8).extractLsb' 4 4).toNat = 2)).trans (congrArg (fun x => x >>= fun q => pure (Instr.shl q)) (Laws.Alu2_parse _ p))) (Alu2_wf_guard hw) hw
theorem shr (p : Alu2) : Statement (.shr p) := fun _ hw =>
  decode_encode_of rfl ((parse_logic (p.enc 0x26 0) (by decide : ((0x26 : BitVec 8).extractLsb' 4 4).toNat = 2)).trans (congrArg (fun x => x >>= fun q => pure (Instr.shr q)) (Laws.Alu2_parse _ p))) (Alu2_wf_guard hw) hw
theorem sar (p : Alu2) : Statement (.sar p) := fun _ hw =>
  decode_encode_of rfl ((parse_logic (p.enc 0x27 0) (by decide : ((0x27 : BitVec 8).extractLsb' 4 4).toNat = 2)).trans (congrArg (fun x => x >>= fun q => pure (Instr.sar q)) (Laws.Alu2_parse _ p))) (Alu2_wf_guard hw) hw
theorem rotL (p : Alu2) : Statement (.rotL p) := fun _ hw =>
  decode_encode_of rfl ((parse_logic (p.enc 0x28 0) (by decide : ((0x28 : BitVec 8).extractLsb' 4 4).toNat = 2)).trans (Eq.trans (if_neg (not_true ((congrArg (fun b => (tyMod p.ty b ||| 0).getLsbD 4) (Alu2_wf_sat hw)).trans (left_mod p.ty)))) (congrArg (fun x => x >>= fun q => pure (Instr.rotL q)) (Alu2_parseDir_left _ p (Alu2_wf_sat hw))))) (Alu2_wf_guard hw) hw
theorem rotR (p : Alu2) : Statement (.rotR p) := fun _ hw =>
  decode_encode_of rfl ((parse_logic (p.enc 0x28 0x10) (by decide : ((0x28 : BitVec 8).extractLsb' 4 4).toNat = 2)).trans (Eq.trans (if_pos (right_mod p.ty p.sat)) (congrArg (fun x => x >>= fun q => pure (Instr.rotR q)) (Alu2_parseDir_right _ p (Alu2_wf_sat hw))))) (Alu2_wf_guard hw) hw
theorem fshfL (p : Alu3) : Statement (.fshfL p) := fun _ hw =>
  decode_encode_of rfl ((parse_logic (p.enc 0x29 0) (by decide : ((0x29 : BitVec 8).extractLsb' 4 4).toNat = 2)).trans (Eq.trans (if_neg (not_true ((congrArg (fun b => (tyMod p.ty b ||| 0).getLsbD 4) (Alu3_wf_sat hw)).trans (left_mod p.ty)))) (congrArg (fun x => x >>= fun q => pure (Instr.fshfL q)) (Alu3_parseDir_left _ p (Alu3_wf_sat hw))))) (Alu3_wf_guard hw) hw
theorem fshfR (p : Alu3) : Statement (.fshfR p) := fun _ hw =>
  decode_encode_of rfl ((parse_logic (p.enc 0x29 0x10) (by decide : ((0x29 : BitVec 8).extractLsb' 4 4).toNat = 2)).trans (Eq.trans (if_pos (right_mod p.ty p.sat)) (congrArg (fun x => x >>= fun q => pure (Instr.fshfR q)) (Alu3_parseDir_right _ p (Alu3_wf_sat hw))))) (Alu3_wf_guard hw) hw
theorem bfx (p : Alu2) : Statement (.bfx p) := fun _ hw =>
  decode_encode_of rfl ((parse_logic (p.enc 0x2A 0) (by decide : ((0x2A : BitVec 8).extractLsb' 4 4).toNat = 2)).trans (congrArg (fun x => x >>= fun q => pure (Instr.bfx q)) (Laws.Alu2_parse _ p))) (Alu2_wf_guard hw) hw
theorem bfi (p : Alu3) : Statement (.bfi p) := fun _ hw =>
  decode_encode_of rfl ((parse_logic (p.enc 0x2B 0) (by decide : ((0x2B : BitVec 8).extractLsb' 4 4).toNat = 2)).trans (congrArg (fun x => x >>= fun q => pure (Instr.bfi q)) (Laws.Alu3_parse _ p))) (Alu3_wf_guard hw) hw
theorem popc (p : Alu1) : Statement (.popc p) := fun _ hw =>
  decode_encode_of rfl ((parse_logic (p.enc 0x2C) (by decide : ((0x2C : BitVec 8).extractLsb' 4 4).toNat = 2)).trans (congrArg (fun x => x >>= fun q => pure (Instr.popc q)) (Laws.Alu1_parse _ p))) (Alu1_wf_guard hw) hw
theorem clz (p : Alu1) : Statement (.clz p) := fun _ hw =>
  decode_encode_of rfl ((parse_logic (p.enc 0x2D) (by decide : ((0x2D : BitVec 8).extractLsb' 4 4).toNat = 2)).trans (congrArg (fun x => x >>= fun q => pure (Instr.clz q)) (Laws.Alu1_parse _ p))) (Alu1_wf_guard hw) hw
theorem brev (p : Alu1) : Statement (.brev p) := fun _ hw =>
  decode_encode_of rfl ((parse_logic (p.enc 0x2E) (by decide : ((0x2E : BitVec 8).extractLsb' 4 4).toNat = 2)).trans (congrArg (fun x => x >>= fun q => pure (Instr.brev q)) (Laws.Alu1_parse _ p))) (Alu1_wf_guard hw) hw
theorem permb (p : Permb) : Statement (.permb p) := fun _ hw =>
  decode_encode_of rfl ((parse_logic (p.enc 0x2F) (by decide : ((0x2F : BitVec 8).extractLsb' 4 4).toNat = 2)).trans (congrArg (fun x => x >>= fun q => pure (Instr.permb q)) (Laws.Permb_parse _ p))) (Permb_wf_guard hw) hw
theorem mov (p : Alu1) : Statement (.mov p) := fun _ hw =>
  decode_encode_of rfl ((parse_system (p.enc 0x30) (by decide : ((0x30 : BitVec 8).extractLsb' 4 4).toNat = 3)).trans (congrArg (fun x => x >>= fun q => pure (Instr.mov q)) (Laws.Alu1_parse _ p))) (Alu1_wf_guard hw) hw
theorem movi (p : Movi) : Statement (.movi p) := fun _ hw =>
  decode_encode_of rfl ((parse_system (p.enc 0x31) (by decide : ((0x31 : BitVec 8).extractLsb' 4 4).toNat = 3)).trans (congrArg (fun x => x >>= fun q => pure (Instr.movi q)) (Laws.Movi_parse _ p))) (Movi_wf_guard hw) hw
theorem sset (p : Sset) : Statement (.sset p) := fun _ hw =>
  decode_encode_of rfl ((parse_system (p.enc 0x32 0x07) (by decide : ((0x32 : BitVec 8).extractLsb' 4 4).toNat = 3)).trans (Eq.trans (sset_form (p.enc 0x32 0x07) (by decide : (0x32 : BitVec 8).toNat = 0x32) rfl) (congrArg (fun x => x >>= fun q => pure (Instr.sset q)) (Laws.Sset_parse _ _ p)))) (Sset_wf_guard hw) hw
theorem ssetLo (p : Sset) : Statement (.ssetLo p) := fun _ hw =>
  decode_encode_of rfl ((parse_system (p.enc 0x32 0x16) (by decide : ((0x32 : BitVec 8).extractLsb' 4 4).toNat = 3)).trans (Eq.trans (ssetLo_form (p.enc 0x32 0x16) (by decide : (0x32 : BitVec 8).toNat = 0x32) rfl) (congrArg (fun x => x >>= fun q => pure (Instr.ssetLo q)) (Laws.Sset_parse _ _ p)))) (Sset_wf_guard hw) hw
theorem ssetHi (p : Sset) : Statement (.ssetHi p) := fun _ hw =>
  decode_encode_of rfl ((parse_system (p.enc 0x32 0x26) (by decide : ((0x32 : BitVec 8).extractLsb' 4 4).toNat = 3)).trans (Eq.trans (ssetHi_form (p.enc 0x32 0x26) (by decide : (0x32 : BitVec 8).toNat = 0x32) rfl) (congrArg (fun x => x >>= fun q => pure (Instr.ssetHi q)) (Laws.Sset_parse _ _ p)))) (Sset_wf_guard hw) hw
theorem sadd (p : Sadd) : Statement (.sadd p) := fun _ hw =>
  decode_encode_of rfl ((parse_system (p.enc 0x33) (by decide : ((0x33 : BitVec 8).extractLsb' 4 4).toNat = 3)).trans (congrArg (fun x => x >>= fun q => pure (Instr.sadd q)) (Laws.Sadd_parse _ p))) (Sadd_wf_guard hw) hw
theorem sld (p : Sld) : Statement (.sld p) := fun _ hw =>
  decode_encode_of rfl ((parse_system (p.enc 0x34) (by decide : ((0x34 : BitVec 8).extractLsb' 4 4).toNat = 3)).trans (congrArg (fun x => x >>= fun q => pure (Instr.sld q)) (Laws.Sld_parse _ p))) (Sld_wf_guard hw) hw
theorem rdsr (p : Rdsr) : Statement (.rdsr p) := fun _ hw =>
  decode_encode_of rfl ((parse_system (p.enc 0x35) (by decide : ((0x35 : BitVec 8).extractLsb' 4 4).toNat = 3)).trans (congrArg (fun x => x >>= fun q => pure (Instr.rdsr q)) (Laws.Rdsr_parse _ p))) (Rdsr_wf_guard hw) hw
theorem wrsr (p : Wrsr) : Statement (.wrsr p) := fun _ hw =>
  decode_encode_of rfl ((parse_system (p.enc 0x36) (by decide : ((0x36 : BitVec 8).extractLsb' 4 4).toNat = 3)).trans (congrArg (fun x => x >>= fun q => pure (Instr.wrsr q)) (Laws.Wrsr_parse _ p))) (Wrsr_wf_guard hw) hw
theorem rand (p : Rand) : Statement (.rand p) := fun _ hw =>
  decode_encode_of rfl ((parse_system (p.enc 0x37) (by decide : ((0x37 : BitVec 8).extractLsb' 4 4).toNat = 3)).trans (congrArg (fun x => x >>= fun q => pure (Instr.rand q)) (Laws.Rand_parse _ p))) (Rand_wf_guard hw) hw
theorem electWv (p : DstOnly) : Statement (.electWv p) := fun _ hw =>
  decode_encode_of rfl ((parse_system (p.enc 0x38 0) (by decide : ((0x38 : BitVec 8).extractLsb' 4 4).toNat = 3)).trans (Eq.trans (if_neg (by decide : ¬ (0 : BitVec 8).getLsbD 0 = true)) (congrArg (fun x => x >>= fun q => pure (Instr.electWv q)) (Laws.DstOnly_parse _ _ p)))) (DstOnly_wf_guard hw) hw
theorem electBlk (p : DstOnly) : Statement (.electBlk p) := fun _ hw =>
  decode_encode_of rfl ((parse_system (p.enc 0x38 1) (by decide : ((0x38 : BitVec 8).extractLsb' 4 4).toNat = 3)).trans (Eq.trans (if_pos (by decide : (1 : BitVec 8).getLsbD 0 = true)) (congrArg (fun x => x >>= fun q => pure (Instr.electBlk q)) (Laws.DstOnly_parse _ _ p)))) (DstOnly_wf_guard hw) hw
theorem fadd (p : Fp2) : Statement (.fadd p) := fun _ hw =>
  decode_encode_of rfl ((parse_float (p.enc 0x40) (by decide : ((0x40 : BitVec 8).extractLsb' 4 4).toNat = 4)).trans (congrArg (fun x => x >>= fun q => pure (Instr.fadd q)) (Laws.Fp2_parse _ p))) (Fp2_wf_guard hw) hw
theorem fsub (p : Fp2) : Statement (.fsub p) := fun _ hw =>
  decode_encode_of rfl ((parse_float (p.enc 0x41) (by decide : ((0x41 : BitVec 8).extractLsb' 4 4).toNat = 4)).trans (congrArg (fun x => x >>= fun q => pure (Instr.fsub q)) (Laws.Fp2_parse _ p))) (Fp2_wf_guard hw) hw
theorem fmul (p : Fp2) : Statement (.fmul p) := fun _ hw =>
  decode_encode_of rfl ((parse_float (p.enc 0x42) (by decide : ((0x42 : BitVec 8).extractLsb' 4 4).toNat = 4)).trans (congrArg (fun x => x >>= fun q => pure (Instr.fmul q)) (Laws.Fp2_parse _ p))) (Fp2_wf_guard hw) hw
theorem ffma (p : Fp3) : Statement (.ffma p) := fun _ hw =>
  decode_encode_of rfl ((parse_float (p.enc 0x43) (by decide : ((0x43 : BitVec 8).extractLsb' 4 4).toNat = 4)).trans (congrArg (fun x => x >>= fun q => pure (Instr.ffma q)) (Laws.Fp3_parse _ p))) (Fp3_wf_guard hw) hw
theorem fmin (p : Fp2) : Statement (.fmin p) := fun _ hw =>
  decode_encode_of rfl ((parse_float (p.enc 0x44) (by decide : ((0x44 : BitVec 8).extractLsb' 4 4).toNat = 4)).trans (congrArg (fun x => x >>= fun q => pure (Instr.fmin q)) (Laws.Fp2_parse _ p))) (Fp2_wf_guard hw) hw
theorem fmax (p : Fp2) : Statement (.fmax p) := fun _ hw =>
  decode_encode_of rfl ((parse_float (p.enc 0x45) (by decide : ((0x45 : BitVec 8).extractLsb' 4 4).toNat = 4)).trans (congrArg (fun x => x >>= fun q => pure (Instr.fmax q)) (Laws.Fp2_parse _ p))) (Fp2_wf_guard hw) hw
theorem fcmp (p : Fcmp) : Statement (.fcmp p) := fun _ hw =>
  decode_encode_of rfl ((parse_float (p.enc 0x46) (by decide : ((0x46 : BitVec 8).extractLsb' 4 4).toNat = 4)).trans (congrArg (fun x => x >>= fun q => pure (Instr.fcmp q)) (Laws.Fcmp_parse _ p))) (Fcmp_wf_guard hw) hw
theorem frnd (p : Fp1) : Statement (.frnd p) := fun _ hw =>
  decode_encode_of rfl ((parse_float (p.enc 0x47) (by decide : ((0x47 : BitVec 8).extractLsb' 4 4).toNat = 4)).trans (congrArg (fun x => x >>= fun q => pure (Instr.frnd q)) (Laws.Fp1_parse _ p))) (Fp1_wf_guard hw) hw
theorem fcls (p : Fp2) : Statement (.fcls p) := fun _ hw =>
  decode_encode_of rfl ((parse_float (p.enc 0x48) (by decide : ((0x48 : BitVec 8).extractLsb' 4 4).toNat = 4)).trans (congrArg (fun x => x >>= fun q => pure (Instr.fcls q)) (Laws.Fp2_parse _ p))) (Fp2_wf_guard hw) hw
theorem fscl (p : Fp2) : Statement (.fscl p) := fun _ hw =>
  decode_encode_of rfl ((parse_float (p.enc 0x49) (by decide : ((0x49 : BitVec 8).extractLsb' 4 4).toNat = 4)).trans (congrArg (fun x => x >>= fun q => pure (Instr.fscl q)) (Laws.Fp2_parse _ p))) (Fp2_wf_guard hw) hw
theorem hadd2 (p : Fp2) : Statement (.hadd2 p) := fun _ hw =>
  decode_encode_of rfl ((parse_float (p.enc 0x4A) (by decide : ((0x4A : BitVec 8).extractLsb' 4 4).toNat = 4)).trans (congrArg (fun x => x >>= fun q => pure (Instr.hadd2 q)) (Laws.Fp2_parse _ p))) (Fp2_wf_guard hw) hw
theorem hmul2 (p : Fp2) : Statement (.hmul2 p) := fun _ hw =>
  decode_encode_of rfl ((parse_float (p.enc 0x4B) (by decide : ((0x4B : BitVec 8).extractLsb' 4 4).toNat = 4)).trans (congrArg (fun x => x >>= fun q => pure (Instr.hmul2 q)) (Laws.Fp2_parse _ p))) (Fp2_wf_guard hw) hw
theorem hfma2 (p : Fp3) : Statement (.hfma2 p) := fun _ hw =>
  decode_encode_of rfl ((parse_float (p.enc 0x4C) (by decide : ((0x4C : BitVec 8).extractLsb' 4 4).toNat = 4)).trans (congrArg (fun x => x >>= fun q => pure (Instr.hfma2 q)) (Laws.Fp3_parse _ p))) (Fp3_wf_guard hw) hw
theorem hmnmx2 (p : Hmnmx) : Statement (.hmnmx2 p) := fun _ hw =>
  decode_encode_of rfl ((parse_float (p.enc 0x4D) (by decide : ((0x4D : BitVec 8).extractLsb' 4 4).toNat = 4)).trans (congrArg (fun x => x >>= fun q => pure (Instr.hmnmx2 q)) (Laws.Hmnmx_parse _ p))) (Hmnmx_wf_guard hw) hw
theorem hdot2 (p : Fp3) : Statement (.hdot2 p) := fun _ hw =>
  decode_encode_of rfl ((parse_float (p.enc 0x4E) (by decide : ((0x4E : BitVec 8).extractLsb' 4 4).toNat = 4)).trans (congrArg (fun x => x >>= fun q => pure (Instr.hdot2 q)) (Laws.Fp3_parse _ p))) (Fp3_wf_guard hw) hw
theorem cvt (p : Cvt) : Statement (.cvt p) := fun _ hw =>
  decode_encode_of rfl ((parse_convert (p.enc 0x50) (by decide : ((0x50 : BitVec 8).extractLsb' 4 4).toNat = 5)).trans (congrArg (fun x => x >>= fun q => pure (Instr.cvt q)) (Laws.Cvt_parse _ p))) (Cvt_wf_guard hw) hw
theorem cvtpP (p : CvtpP) : Statement (.cvtpP p) := fun _ hw =>
  decode_encode_of rfl ((parse_convert (p.enc 0x51) (by decide : ((0x51 : BitVec 8).extractLsb' 4 4).toNat = 5)).trans (Eq.trans (if_neg (not_true (efMod_var p.ef false p.rnd.code))) (congrArg (fun x => x >>= fun q => pure (Instr.cvtpP q)) (Laws.CvtpP_parse _ p)))) (CvtpP_wf_guard hw) hw
theorem cvtpU (p : CvtpU) : Statement (.cvtpU p) := fun _ hw =>
  decode_encode_of rfl ((parse_convert (p.enc 0x51) (by decide : ((0x51 : BitVec 8).extractLsb' 4 4).toNat = 5)).trans (Eq.trans (if_pos (efMod_var p.ef true 0)) (congrArg (fun x => x >>= fun q => pure (Instr.cvtpU q)) (Laws.CvtpU_parse _ p)))) (CvtpU_wf_guard hw) hw
theorem qscale (p : Qscale) : Statement (.qscale p) := fun _ hw =>
  decode_encode_of rfl ((parse_convert (p.enc 0x52) (by decide : ((0x52 : BitVec 8).extractLsb' 4 4).toNat = 5)).trans (congrArg (fun x => x >>= fun q => pure (Instr.qscale q)) (Laws.Qscale_parse _ p))) (Qscale_wf_guard hw) hw
theorem qnt (p : Qnt) : Statement (.qnt p) := fun _ hw =>
  decode_encode_of rfl ((parse_convert (p.enc 0x53) (by decide : ((0x53 : BitVec 8).extractLsb' 4 4).toNat = 5)).trans (congrArg (fun x => x >>= fun q => pure (Instr.qnt q)) (Laws.Qnt_parse _ p))) (Qnt_wf_guard hw) hw
theorem dqnt (p : Dqnt) : Statement (.dqnt p) := fun _ hw =>
  decode_encode_of rfl ((parse_convert (p.enc 0x54) (by decide : ((0x54 : BitVec 8).extractLsb' 4 4).toNat = 5)).trans (congrArg (fun x => x >>= fun q => pure (Instr.dqnt q)) (Laws.Dqnt_parse _ p))) (Dqnt_wf_guard hw) hw
theorem rcp (p : Fp1) : Statement (.rcp p) := fun _ hw =>
  decode_encode_of rfl ((parse_convert (p.enc 0x55) (by decide : ((0x55 : BitVec 8).extractLsb' 4 4).toNat = 5)).trans (congrArg (fun x => x >>= fun q => pure (Instr.rcp q)) (Laws.Fp1_parse _ p))) (Fp1_wf_guard hw) hw
theorem rsq (p : Fp1) : Statement (.rsq p) := fun _ hw =>
  decode_encode_of rfl ((parse_convert (p.enc 0x56) (by decide : ((0x56 : BitVec 8).extractLsb' 4 4).toNat = 5)).trans (congrArg (fun x => x >>= fun q => pure (Instr.rsq q)) (Laws.Fp1_parse _ p))) (Fp1_wf_guard hw) hw
theorem sqrt (p : Fp1) : Statement (.sqrt p) := fun _ hw =>
  decode_encode_of rfl ((parse_convert (p.enc 0x57) (by decide : ((0x57 : BitVec 8).extractLsb' 4 4).toNat = 5)).trans (congrArg (fun x => x >>= fun q => pure (Instr.sqrt q)) (Laws.Fp1_parse _ p))) (Fp1_wf_guard hw) hw
theorem exp2 (p : Fp1) : Statement (.exp2 p) := fun _ hw =>
  decode_encode_of rfl ((parse_convert (p.enc 0x58) (by decide : ((0x58 : BitVec 8).extractLsb' 4 4).toNat = 5)).trans (congrArg (fun x => x >>= fun q => pure (Instr.exp2 q)) (Laws.Fp1_parse _ p))) (Fp1_wf_guard hw) hw
theorem log2 (p : Fp1) : Statement (.log2 p) := fun _ hw =>
  decode_encode_of rfl ((parse_convert (p.enc 0x59) (by decide : ((0x59 : BitVec 8).extractLsb' 4 4).toNat = 5)).trans (congrArg (fun x => x >>= fun q => pure (Instr.log2 q)) (Laws.Fp1_parse _ p))) (Fp1_wf_guard hw) hw
theorem sinpi (p : Fp1) : Statement (.sinpi p) := fun _ hw =>
  decode_encode_of rfl ((parse_convert (p.enc 0x5A) (by decide : ((0x5A : BitVec 8).extractLsb' 4 4).toNat = 5)).trans (congrArg (fun x => x >>= fun q => pure (Instr.sinpi q)) (Laws.Fp1_parse _ p))) (Fp1_wf_guard hw) hw
theorem cospi (p : Fp1) : Statement (.cospi p) := fun _ hw =>
  decode_encode_of rfl ((parse_convert (p.enc 0x5B) (by decide : ((0x5B : BitVec 8).extractLsb' 4 4).toNat = 5)).trans (congrArg (fun x => x >>= fun q => pure (Instr.cospi q)) (Laws.Fp1_parse _ p))) (Fp1_wf_guard hw) hw
theorem tanh (p : Fp1) : Statement (.tanh p) := fun _ hw =>
  decode_encode_of rfl ((parse_convert (p.enc 0x5C) (by decide : ((0x5C : BitVec 8).extractLsb' 4 4).toNat = 5)).trans (congrArg (fun x => x >>= fun q => pure (Instr.tanh q)) (Laws.Fp1_parse _ p))) (Fp1_wf_guard hw) hw
theorem xshf (p : Xshf) : Statement (.xshf p) := fun _ hw =>
  decode_encode_of rfl ((parse_cross (p.enc 0x60) (by decide : ((0x60 : BitVec 8).extractLsb' 4 4).toNat = 6)).trans (congrArg (fun x => x >>= fun q => pure (Instr.xshf q)) (Laws.Xshf_parse _ p))) (Xshf_wf_guard hw) hw
theorem xred (p : Xred) : Statement (.xred p) := fun _ hw =>
  decode_encode_of rfl ((parse_cross (p.enc 0x61) (by decide : ((0x61 : BitVec 8).extractLsb' 4 4).toNat = 6)).trans (congrArg (fun x => x >>= fun q => pure (Instr.xred q)) (Laws.Xred_parse _ p))) (Xred_wf_guard hw) hw
theorem xscan (p : Xred) : Statement (.xscan p) := fun _ hw =>
  decode_encode_of rfl ((parse_cross (p.enc 0x62) (by decide : ((0x62 : BitVec 8).extractLsb' 4 4).toNat = 6)).trans (congrArg (fun x => x >>= fun q => pure (Instr.xscan q)) (Laws.Xred_parse _ p))) (Xred_wf_guard hw) hw
theorem xvote (p : Xvote) : Statement (.xvote p) := fun _ hw =>
  decode_encode_of rfl ((parse_cross (p.enc 0x63) (by decide : ((0x63 : BitVec 8).extractLsb' 4 4).toNat = 6)).trans (congrArg (fun x => x >>= fun q => pure (Instr.xvote q)) (Laws.Xvote_parse _ p))) (Xvote_wf_guard hw) hw
theorem xcmx (p : Xcmx) : Statement (.xcmx p) := fun _ hw =>
  decode_encode_of rfl ((parse_cross (p.enc 0x64) (by decide : ((0x64 : BitVec 8).extractLsb' 4 4).toNat = 6)).trans (congrArg (fun x => x >>= fun q => pure (Instr.xcmx q)) (Laws.Xcmx_parse _ p))) (Xcmx_wf_guard hw) hw
theorem meet (p : Plain) : Statement (.meet p) := fun _ hw =>
  decode_encode_of rfl ((parse_cross (p.enc 0x65) (by decide : ((0x65 : BitVec 8).extractLsb' 4 4).toNat = 6)).trans rfl) (Plain_wf_guard hw) hw
theorem ld (p : Ld) : Statement (.ld p) := fun _ hw =>
  decode_encode_of rfl ((parse_memory (p.enc 0x70) (by decide : ((0x70 : BitVec 8).extractLsb' 4 4).toNat = 7)).trans (congrArg (fun x => x >>= fun q => pure (Instr.ld q)) (Laws.Ld_parse _ p))) (Ld_wf_guard hw) hw
theorem st (p : St) : Statement (.st p) := fun _ hw =>
  decode_encode_of rfl ((parse_memory (p.enc 0x71) (by decide : ((0x71 : BitVec 8).extractLsb' 4 4).toNat = 7)).trans (congrArg (fun x => x >>= fun q => pure (Instr.st q)) (Laws.St_parse _ p))) (St_wf_guard hw) hw
theorem atom (p : Atom) : Statement (.atom p) := fun _ hw =>
  decode_encode_of rfl ((parse_memory (p.enc 0x72) (by decide : ((0x72 : BitVec 8).extractLsb' 4 4).toNat = 7)).trans (congrArg (fun x => x >>= fun q => pure (Instr.atom q)) (Laws.Atom_parse _ p))) (Atom_wf_guard hw) hw
theorem red (p : Red) : Statement (.red p) := fun _ hw =>
  decode_encode_of rfl ((parse_memory (p.enc 0x73) (by decide : ((0x73 : BitVec 8).extractLsb' 4 4).toNat = 7)).trans (congrArg (fun x => x >>= fun q => pure (Instr.red q)) (Laws.Red_parse _ p))) (Red_wf_guard hw) hw
theorem cas (p : Cas) : Statement (.cas p) := fun _ hw =>
  decode_encode_of rfl ((parse_memory (p.enc 0x74) (by decide : ((0x74 : BitVec 8).extractLsb' 4 4).toNat = 7)).trans (congrArg (fun x => x >>= fun q => pure (Instr.cas q)) (Laws.Cas_parse _ p))) (Cas_wf_guard hw) hw
theorem atfx (p : St) : Statement (.atfx p) := fun _ hw =>
  decode_encode_of rfl ((parse_memory (p.enc 0x75) (by decide : ((0x75 : BitVec 8).extractLsb' 4 4).toNat = 7)).trans (congrArg (fun x => x >>= fun q => pure (Instr.atfx q)) (Laws.St_parse _ p))) (St_wf_guard hw) hw
theorem ldfx (p : Ld) : Statement (.ldfx p) := fun _ hw =>
  decode_encode_of rfl ((parse_memory (p.enc 0x76) (by decide : ((0x76 : BitVec 8).extractLsb' 4 4).toNat = 7)).trans (congrArg (fun x => x >>= fun q => pure (Instr.ldfx q)) (Laws.Ld_parse _ p))) (Ld_wf_guard hw) hw
theorem pref (p : Pref) : Statement (.pref p) := fun _ hw =>
  decode_encode_of rfl ((parse_memory (p.enc 0x77) (by decide : ((0x77 : BitVec 8).extractLsb' 4 4).toNat = 7)).trans (congrArg (fun x => x >>= fun q => pure (Instr.pref q)) (Laws.Pref_parse _ p))) (Pref_wf_guard hw) hw
theorem barInit (p : BarV) : Statement (.barInit p) := fun _ hw =>
  decode_encode_of rfl ((parse_sync (p.enc 0x80 0) (by decide : ((0x80 : BitVec 8).extractLsb' 4 4).toNat = 8)).trans (Eq.trans (barInit_form (p.enc 0x80 0) ((congrArg BitVec.toNat (barMod_form 0 p.gang)).trans (by decide))) (congrArg (fun x => x >>= fun q => pure (Instr.barInit q)) (Laws.BarV_parse _ _ p)))) (BarV_wf_guard hw) hw
theorem barExpect (p : BarV) : Statement (.barExpect p) := fun _ hw =>
  decode_encode_of rfl ((parse_sync (p.enc 0x80 1) (by decide : ((0x80 : BitVec 8).extractLsb' 4 4).toNat = 8)).trans (Eq.trans (barExpect_form (p.enc 0x80 1) ((congrArg BitVec.toNat (barMod_form 1 p.gang)).trans (by decide))) (congrArg (fun x => x >>= fun q => pure (Instr.barExpect q)) (Laws.BarV_parse _ _ p)))) (BarV_wf_guard hw) hw
theorem barArrive (p : BarD) : Statement (.barArrive p) := fun _ hw =>
  decode_encode_of rfl ((parse_sync (p.enc 0x80 2) (by decide : ((0x80 : BitVec 8).extractLsb' 4 4).toNat = 8)).trans (Eq.trans (barArrive_form (p.enc 0x80 2) ((congrArg BitVec.toNat (barMod_form 2 p.gang)).trans (by decide))) (congrArg (fun x => x >>= fun q => pure (Instr.barArrive q)) (Laws.BarD_parse _ _ p)))) (BarD_wf_guard hw) hw
theorem barWait (p : BarV) : Statement (.barWait p) := fun _ hw =>
  decode_encode_of rfl ((parse_sync (p.enc 0x80 3) (by decide : ((0x80 : BitVec 8).extractLsb' 4 4).toNat = 8)).trans (Eq.trans (barWait_form (p.enc 0x80 3) ((congrArg BitVec.toNat (barMod_form 3 p.gang)).trans (by decide))) (congrArg (fun x => x >>= fun q => pure (Instr.barWait q)) (Laws.BarV_parse _ _ p)))) (BarV_wf_guard hw) hw
theorem barArrwait (p : BarD) : Statement (.barArrwait p) := fun _ hw =>
  decode_encode_of rfl ((parse_sync (p.enc 0x80 4) (by decide : ((0x80 : BitVec 8).extractLsb' 4 4).toNat = 8)).trans (Eq.trans (barArrwait_form (p.enc 0x80 4) ((congrArg BitVec.toNat (barMod_form 4 p.gang)).trans (by decide))) (congrArg (fun x => x >>= fun q => pure (Instr.barArrwait q)) (Laws.BarD_parse _ _ p)))) (BarD_wf_guard hw) hw
theorem phaseAcq (p : Scoped) : Statement (.phaseAcq p) := fun _ hw =>
  decode_encode_of rfl ((parse_sync (p.encPhase 0x81 1) (by decide : ((0x81 : BitVec 8).extractLsb' 4 4).toNat = 8)).trans (Eq.trans (phaseAcq_form (p.encPhase 0x81 1) ((congrArg BitVec.toNat (phase_form p.sc 1)).trans (by decide))) (congrArg (fun x => x >>= fun q => pure (Instr.phaseAcq q)) (Laws.Scoped_parsePhase _ _ p)))) (Scoped_wf_guard hw) hw
theorem phaseRel (p : Scoped) : Statement (.phaseRel p) := fun _ hw =>
  decode_encode_of rfl ((parse_sync (p.encPhase 0x81 2) (by decide : ((0x81 : BitVec 8).extractLsb' 4 4).toNat = 8)).trans (Eq.trans (phaseRel_form (p.encPhase 0x81 2) ((congrArg BitVec.toNat (phase_form p.sc 2)).trans (by decide))) (congrArg (fun x => x >>= fun q => pure (Instr.phaseRel q)) (Laws.Scoped_parsePhase _ _ p)))) (Scoped_wf_guard hw) hw
theorem phaseAr (p : Scoped) : Statement (.phaseAr p) := fun _ hw =>
  decode_encode_of rfl ((parse_sync (p.encPhase 0x81 3) (by decide : ((0x81 : BitVec 8).extractLsb' 4 4).toNat = 8)).trans (Eq.trans (phaseAr_form (p.encPhase 0x81 3) ((congrArg BitVec.toNat (phase_form p.sc 3)).trans (by decide))) (congrArg (fun x => x >>= fun q => pure (Instr.phaseAr q)) (Laws.Scoped_parsePhase _ _ p)))) (Scoped_wf_guard hw) hw
theorem fence (p : Scoped) : Statement (.fence p) := fun _ hw =>
  decode_encode_of rfl ((parse_sync (p.encFence 0x82) (by decide : ((0x82 : BitVec 8).extractLsb' 4 4).toNat = 8)).trans (congrArg (fun x => x >>= fun q => pure (Instr.fence q)) (Laws.Scoped_parseFence _ p))) (Scoped_wf_guard hw) hw
theorem waita (p : Waita) : Statement (.waita p) := fun _ hw =>
  decode_encode_of rfl ((parse_sync (p.enc 0x83) (by decide : ((0x83 : BitVec 8).extractLsb' 4 4).toNat = 8)).trans (congrArg (fun x => x >>= fun q => pure (Instr.waita q)) (Laws.Waita_parse _ p))) (Waita_wf_guard hw) hw
theorem cpyLin (p : Cpy) : Statement (.cpyLin p) := fun _ hw =>
  decode_encode_of rfl ((parse_engine (p.enc 0x90 0) (by decide : ((0x90 : BitVec 8).extractLsb' 4 4).toNat = 9)).trans (Eq.trans (if_neg (not_true ((cpyMod_form 0 p.bar p.flg).trans (by decide)))) (congrArg (fun x => x >>= fun q => pure (Instr.cpyLin q)) (Laws.Cpy_parse _ _ p)))) (Cpy_wf_guard hw) hw
theorem cpyGath (p : Cpy) : Statement (.cpyGath p) := fun _ hw =>
  decode_encode_of rfl ((parse_engine (p.enc 0x90 1) (by decide : ((0x90 : BitVec 8).extractLsb' 4 4).toNat = 9)).trans (Eq.trans (if_pos ((cpyMod_form 1 p.bar p.flg).trans (by decide))) (congrArg (fun x => x >>= fun q => pure (Instr.cpyGath q)) (Laws.Cpy_parse _ _ p)))) (Cpy_wf_guard hw) hw
theorem cpytG2s (p : Cpy) : Statement (.cpytG2s p) := fun _ hw =>
  decode_encode_of rfl ((parse_engine (p.enc 0x91 0) (by decide : ((0x91 : BitVec 8).extractLsb' 4 4).toNat = 9)).trans (Eq.trans (if_neg (not_true ((cpyMod_form 0 p.bar p.flg).trans (by decide)))) (congrArg (fun x => x >>= fun q => pure (Instr.cpytG2s q)) (Laws.Cpy_parse _ _ p)))) (Cpy_wf_guard hw) hw
theorem cpytS2g (p : Cpy) : Statement (.cpytS2g p) := fun _ hw =>
  decode_encode_of rfl ((parse_engine (p.enc 0x91 1) (by decide : ((0x91 : BitVec 8).extractLsb' 4 4).toNat = 9)).trans (Eq.trans (if_pos ((cpyMod_form 1 p.bar p.flg).trans (by decide))) (congrArg (fun x => x >>= fun q => pure (Instr.cpytS2g q)) (Laws.Cpy_parse _ _ p)))) (Cpy_wf_guard hw) hw
theorem put (p : Fab) : Statement (.put p) := fun _ hw =>
  decode_encode_of rfl ((parse_engine (p.enc 0x92) (by decide : ((0x92 : BitVec 8).extractLsb' 4 4).toNat = 9)).trans (congrArg (fun x => x >>= fun q => pure (Instr.put q)) (Laws.Fab_parse _ p))) (Fab_wf_guard hw) hw
theorem puts (p : Fab) : Statement (.puts p) := fun _ hw =>
  decode_encode_of rfl ((parse_engine (p.enc 0x93) (by decide : ((0x93 : BitVec 8).extractLsb' 4 4).toNat = 9)).trans (congrArg (fun x => x >>= fun q => pure (Instr.puts q)) (Laws.Fab_parse _ p))) (Fab_wf_guard hw) hw
theorem get (p : Fab) : Statement (.get p) := fun _ hw =>
  decode_encode_of rfl ((parse_engine (p.enc 0x94) (by decide : ((0x94 : BitVec 8).extractLsb' 4 4).toNat = 9)).trans (congrArg (fun x => x >>= fun q => pure (Instr.get q)) (Laws.Fab_parse _ p))) (Fab_wf_guard hw) hw
theorem collStep (p : Coll) : Statement (.collStep p) := fun _ hw =>
  decode_encode_of rfl ((parse_engine (p.enc 0x95 0) (by decide : ((0x95 : BitVec 8).extractLsb' 4 4).toNat = 9)).trans (Eq.trans (collStep_form (p.enc 0x95 0) (by decide : ((0 : BitVec 8)).toNat = 0)) (congrArg (fun x => x >>= fun q => pure (Instr.collStep q)) (Laws.Coll_parse _ _ p)))) (Coll_wfColl_guard hw) hw
theorem collSetup (p : Coll) : Statement (.collSetup p) := fun _ hw =>
  decode_encode_of rfl ((parse_engine (p.enc 0x95 1) (by decide : ((0x95 : BitVec 8).extractLsb' 4 4).toNat = 9)).trans (Eq.trans (collSetup_form (p.enc 0x95 1) (by decide : ((1 : BitVec 8)).toNat = 1)) (congrArg (fun x => x >>= fun q => pure (Instr.collSetup q)) (Laws.Coll_parse _ _ p)))) (Coll_wfColl_guard hw) hw
theorem collFree (p : Coll) : Statement (.collFree p) := fun _ hw =>
  decode_encode_of rfl ((parse_engine (p.enc 0x95 2) (by decide : ((0x95 : BitVec 8).extractLsb' 4 4).toNat = 9)).trans (Eq.trans (collFree_form (p.enc 0x95 2) (by decide : ((2 : BitVec 8)).toNat = 2)) (congrArg (fun x => x >>= fun q => pure (Instr.collFree q)) (Laws.Coll_parse _ _ p)))) (Coll_wfColl_guard hw) hw
theorem launch (p : Launch) : Statement (.launch p) := fun _ hw =>
  decode_encode_of rfl ((parse_engine (p.enc 0x96 0) (by decide : ((0x96 : BitVec 8).extractLsb' 4 4).toNat = 9)).trans (congrArg (fun x => x >>= fun q => pure (Instr.launch q)) (Laws.Launch_parse _ _ p))) (Launch_wf_guard hw) hw
theorem nsigArm (p : Launch) : Statement (.nsigArm p) := fun _ hw =>
  decode_encode_of rfl ((parse_engine (p.enc 0x97 0) (by decide : ((0x97 : BitVec 8).extractLsb' 4 4).toNat = 9)).trans (Eq.trans (nsigArm_form (p.enc 0x97 0) (by decide : ((0 : BitVec 8)).toNat = 0)) (congrArg (fun x => x >>= fun q => pure (Instr.nsigArm q)) (Laws.Launch_parse _ _ p)))) (Launch_wf_guard hw) hw
theorem nsigDec (p : Coll) : Statement (.nsigDec p) := fun _ hw =>
  decode_encode_of rfl ((parse_engine (p.enc 0x97 1) (by decide : ((0x97 : BitVec 8).extractLsb' 4 4).toNat = 9)).trans (Eq.trans (nsigDec_form (p.enc 0x97 1) (by decide : ((1 : BitVec 8)).toNat = 1)) (congrArg (fun x => x >>= fun q => pure (Instr.nsigDec q)) (Laws.Coll_parse _ _ p)))) (Coll_wfNsig_guard hw) hw
theorem nsigCan (p : Coll) : Statement (.nsigCan p) := fun _ hw =>
  decode_encode_of rfl ((parse_engine (p.enc 0x97 2) (by decide : ((0x97 : BitVec 8).extractLsb' 4 4).toNat = 9)).trans (Eq.trans (nsigCan_form (p.enc 0x97 2) (by decide : ((2 : BitVec 8)).toNat = 2)) (congrArg (fun x => x >>= fun q => pure (Instr.nsigCan q)) (Laws.Coll_parse _ _ p)))) (Coll_wfNsig_guard hw) hw
theorem nsigQry (p : Launch) : Statement (.nsigQry p) := fun _ hw =>
  decode_encode_of rfl ((parse_engine (p.enc 0x97 3) (by decide : ((0x97 : BitVec 8).extractLsb' 4 4).toNat = 9)).trans (Eq.trans (nsigQry_form (p.enc 0x97 3) (by decide : ((3 : BitVec 8)).toNat = 3)) (congrArg (fun x => x >>= fun q => pure (Instr.nsigQry q)) (Laws.Launch_parse _ _ p)))) (Launch_wf_guard hw) hw
theorem mxop (p : Mxop) : Statement (.mxop p) := fun _ hw =>
  decode_encode_of rfl ((parse_matrix (p.enc 0xA0) (by decide : ((0xA0 : BitVec 8).extractLsb' 4 4).toNat = 10)).trans (congrArg (fun x => x >>= fun q => pure (Instr.mxop q)) (Laws.Mxop_parse _ p))) (Mxop_wf_guard hw) hw
theorem mxldb (p : Mxldb) : Statement (.mxldb p) := fun _ hw =>
  decode_encode_of rfl ((parse_matrix (p.enc 0xA1) (by decide : ((0xA1 : BitVec 8).extractLsb' 4 4).toNat = 10)).trans (congrArg (fun x => x >>= fun q => pure (Instr.mxldb q)) (Laws.Mxldb_parse _ p))) (Mxldb_wf_guard hw) hw
theorem mxaccZero (p : Mxacc) : Statement (.mxaccZero p) := fun _ hw =>
  decode_encode_of rfl ((parse_matrix (p.enc 0xA2 0) (by decide : ((0xA2 : BitVec 8).extractLsb' 4 4).toNat = 10)).trans (Eq.trans (mxaccZero_form (p.enc 0xA2 0) ((congrArg BitVec.toNat (mxacc_form p.f 0)).trans (by decide))) (congrArg (fun x => x >>= fun q => pure (Instr.mxaccZero q)) (Laws.Mxacc_parse _ _ p)))) (Mxacc_wf_guard hw) hw
theorem mxaccLd (p : Mxacc) : Statement (.mxaccLd p) := fun _ hw =>
  decode_encode_of rfl ((parse_matrix (p.enc 0xA2 1) (by decide : ((0xA2 : BitVec 8).extractLsb' 4 4).toNat = 10)).trans (Eq.trans (mxaccLd_form (p.enc 0xA2 1) ((congrArg BitVec.toNat (mxacc_form p.f 1)).trans (by decide))) (congrArg (fun x => x >>= fun q => pure (Instr.mxaccLd q)) (Laws.Mxacc_parse _ _ p)))) (Mxacc_wf_guard hw) hw
theorem mxaccSt (p : Mxacc) : Statement (.mxaccSt p) := fun _ hw =>
  decode_encode_of rfl ((parse_matrix (p.enc 0xA2 2) (by decide : ((0xA2 : BitVec 8).extractLsb' 4 4).toNat = 10)).trans (Eq.trans (mxaccSt_form (p.enc 0xA2 2) ((congrArg BitVec.toNat (mxacc_form p.f 2)).trans (by decide))) (congrArg (fun x => x >>= fun q => pure (Instr.mxaccSt q)) (Laws.Mxacc_parse _ _ p)))) (Mxacc_wf_guard hw) hw
theorem mxaccFree (p : Mxacc) : Statement (.mxaccFree p) := fun _ hw =>
  decode_encode_of rfl ((parse_matrix (p.enc 0xA2 3) (by decide : ((0xA2 : BitVec 8).extractLsb' 4 4).toNat = 10)).trans (Eq.trans (mxaccFree_form (p.enc 0xA2 3) ((congrArg BitVec.toNat (mxacc_form p.f 3)).trans (by decide))) (congrArg (fun x => x >>= fun q => pure (Instr.mxaccFree q)) (Laws.Mxacc_parse _ _ p)))) (Mxacc_wf_guard hw) hw
theorem mxstat (p : DstOnly) : Statement (.mxstat p) := fun _ hw =>
  decode_encode_of rfl ((parse_matrix (p.enc 0xA3 0) (by decide : ((0xA3 : BitVec 8).extractLsb' 4 4).toNat = 10)).trans (Eq.trans (if_neg (by decide : ¬ (0 : BitVec 8).getLsbD 0 = true)) (congrArg (fun x => x >>= fun q => pure (Instr.mxstat q)) (Laws.DstOnly_parse _ _ p)))) (DstOnly_wf_guard hw) hw
theorem mxstatClr (p : Coll) : Statement (.mxstatClr p) := fun _ hw =>
  decode_encode_of rfl ((parse_matrix (p.enc 0xA3 1) (by decide : ((0xA3 : BitVec 8).extractLsb' 4 4).toNat = 10)).trans (Eq.trans (if_pos (by decide : (1 : BitVec 8).getLsbD 0 = true)) (congrArg (fun x => x >>= fun q => pure (Instr.mxstatClr q)) (Laws.Coll_parse _ _ p)))) (Coll_wfMask_guard hw) hw
theorem sriovVfEnable (numVfs : Nat) : Statement (.sriovVfEnable numVfs) := event _ rfl
theorem chainStepReadTimeout (chain : Nat) : Statement (.chainStepReadTimeout chain) := event _ rfl

end Sys2Proof.Laws.RoundTrip
end

