-- ==== Sys2Proof/Tests/Slice0.lean ====
section
/-! SUPPORT. Tests: words written out by hand, ill-formed terms, and states that meet the hypotheses of the statements. -/

namespace Sys2Proof.Tests

open Sys2Proof Sys2Proof.Machine

/-! ## Words written field by field, from the encoding tables of the spec -/

/-- A word without hints whose guard is always true (R308, R316). -/
def plainWord (imm : BitVec 32) (fb fa fd : BitVec 12) (mod op : BitVec 8) : BitVec 96 :=
  (0 : BitVec 2) ++ (0 : BitVec 3) ++ (0 : BitVec 1) ++ (14 : BitVec 4) ++ (0 : BitVec 2) ++ imm ++ fb ++ fa ++ fd ++ mod ++ op

/-- The header of such a word. -/
def al : Head := ⟨14, 0, false, false, false, false, 0⟩

/-- A plain destination. -/
def dst (r : BitVec 8) : Dst := ⟨false, false, 0, r⟩

/-- Control flow (R343). -/
def controlWords : List (BitVec 96 × Instr) := [
  (plainWord 0 0 0 0 0 0x00, .nop ⟨al⟩),
  (plainWord 0xFFFFFFFF 0 0 0 0 0x01, .bra ⟨al, 0xFFFFFFFF⟩),
  (plainWord 0 0 0x406 0 0 0x02, .brx ⟨al, .s 6, 0⟩),
  (plainWord 2 0 0 0 20 0x03, .call ⟨al, 20, 2⟩),
  (plainWord 0 0 0x406 0 20 0x04, .callx ⟨al, 20, .s 6, 0⟩),
  (plainWord 0 0 0 0 0 0x05, .ret ⟨al⟩),
  (plainWord 0 0 0 0 0 0x06, .exit ⟨al⟩),
  (plainWord 0 0 0 0 0 0x07, .demote ⟨al⟩),
  (plainWord 0 0 0 0 0 0x08, .yield ⟨al⟩),
  (plainWord 31 0 0 0 0 0x09, .trap ⟨al, 31⟩),
  (plainWord 0 0 0 0 0 0x0A, .tret ⟨al⟩),
  (plainWord 0xFFFFFFFE 0 0 6 6 0x0B, .loop ⟨al, 6, 0xFFFFFFFE⟩),
  (plainWord 0xABCD 0 0 0 0 0x0C, .bkpt ⟨al, 0xABCD⟩)]

/-- Integer arithmetic (R355): type in MOD[3:0], SAT in MOD[4], the variant above. -/
def integerWords : List (BitVec 96 × Instr) := [
  (plainWord 0 0x404 2 8 0x12 0x10, .iadd ⟨al, .i32, true, dst 8, .v 2, .s 4, 0⟩),
  (plainWord 5 0xC01 2 8 0x07 0x11, .isub ⟨al, .n64, false, dst 8, .v 2, .sp .imm, 5⟩),
  (plainWord 0 3 2 9 0x26 0x12, .iadc ⟨al, .n32, 1, dst 9, .v 2, .v 3, 0⟩),
  (plainWord 0 3 2 9 0x62 0x13, .isbc ⟨al, .i32, 3, dst 9, .v 2, .v 3, 0⟩),
  (plainWord 0 3 2 8 0x16 0x14, .imul ⟨al, .n32, true, dst 8, .v 2, .v 3, 0⟩),
  (plainWord 0 4 2 8 0x03 0x15, .imulh ⟨al, .i64, false, dst 8, .v 2, .v 4, 0⟩),
  (plainWord 5 3 2 8 0x02 0x16, .imad ⟨al, .i32, false, dst 8, .v 2, .v 3, .v 5⟩),
  (plainWord 4 3 2 8 0x16 0x17, .imadw ⟨al, .n32, true, dst 8, .v 2, .v 3, .v 4⟩),
  (plainWord 0xC00 3 2 8 0x02 0x17, .imadw ⟨al, .i32, false, dst 8, .v 2, .v 3, .sp .zero⟩),
  (plainWord 0 3 2 8 0x02 0x18, .imin ⟨al, .i32, false, dst 8, .v 2, .v 3, 0⟩),
  (plainWord 0 3 2 8 0x06 0x19, .imax ⟨al, .n32, false, dst 8, .v 2, .v 3, 0⟩),
  (plainWord 0 0 2 8 0x12 0x1A, .iabs ⟨al, .i32, true, dst 8, .v 2, 0⟩),
  (plainWord 5 3 2 8 0x00 0x1B, .isad ⟨al, .i8, false, dst 8, .v 2, .v 3, .v 5⟩),
  (plainWord 0 3 2 8 0xA6 0x1C, .icmp ⟨al, .n32, .ge, dst 8, .v 2, .v 3, 0⟩),
  (plainWord 0x1D 3 2 8 0x06 0x1D, .sel ⟨al, .n32, dst 8, .v 2, .v 3, 1, 13⟩),
  (plainWord 0x404 3 2 8 0x16 0x1E, .iadd3 ⟨al, .n32, true, dst 8, .v 2, .v 3, .s 4⟩),
  (plainWord 0 3 2 8 0x12 0x1F, .idivQ ⟨al, .i32, true, dst 8, .v 2, .v 3, 0⟩),
  (plainWord 0 3 2 8 0x26 0x1F, .idivR ⟨al, .n32, false, dst 8, .v 2, .v 3, 0⟩)]

/-- Logic and bit operations (R360). -/
def logicWords : List (BitVec 96 × Instr) := [
  (plainWord 0 3 2 8 0x06 0x20, .and ⟨al, .n32, false, dst 8, .v 2, .v 3, 0⟩),
  (plainWord 0 4 2 8 0x07 0x21, .or ⟨al, .n64, false, dst 8, .v 2, .v 4, 0⟩),
  (plainWord 0 3 2 8 0x02 0x22, .xor ⟨al, .i32, false, dst 8, .v 2, .v 3, 0⟩),
  (plainWord 0 3 2 8 0x06 0x23, .andn ⟨al, .n32, false, dst 8, .v 2, .v 3, 0⟩),
  (plainWord 0xA8005 3 2 8 0x06 0x24, .bool3 ⟨al, .n32, dst 8, .v 2, .v 3, .v 5, 0xA8⟩),
  (plainWord 0 5 2 8 0x07 0x25, .shl ⟨al, .n64, false, dst 8, .v 2, .v 5, 0⟩),
  (plainWord 0 3 2 8 0x06 0x26, .shr ⟨al, .n32, false, dst 8, .v 2, .v 3, 0⟩),
  (plainWord 0 3 2 8 0x02 0x27, .sar ⟨al, .i32, false, dst 8, .v 2, .v 3, 0⟩),
  (plainWord 0 3 2 8 0x06 0x28, .rotL ⟨al, .n32, false, dst 8, .v 2, .v 3, 0⟩),
  (plainWord 0 3 2 8 0x16 0x28, .rotR ⟨al, .n32, false, dst 8, .v 2, .v 3, 0⟩),
  (plainWord 5 4 2 8 0x07 0x29, .fshfL ⟨al, .n64, false, dst 8, .v 2, .v 4, .v 5⟩),
  (plainWord 5 3 2 8 0x16 0x29, .fshfR ⟨al, .n32, false, dst 8, .v 2, .v 3, .v 5⟩),
  (plainWord 0 3 2 8 0x03 0x2A, .bfx ⟨al, .i64, false, dst 8, .v 2, .v 3, 0⟩),
  (plainWord 6 3 2 8 0x07 0x2B, .bfi ⟨al, .n64, false, dst 8, .v 2, .v 3, .v 6⟩),
  (plainWord 0 0 2 9 0x07 0x2C, .popc ⟨al, .n64, false, dst 9, .v 2, 0⟩),
  (plainWord 0 0 2 9 0x06 0x2D, .clz ⟨al, .n32, false, dst 9, .v 2, 0⟩),
  (plainWord 0 0 2 8 0x07 0x2E, .brev ⟨al, .n64, false, dst 8, .v 2, 0⟩),
  (plainWord 0 0x404 2 8 0x00 0x2F, .permb ⟨al, dst 8, .v 2, .s 4, 0⟩)]

/-- Moves, uniform registers and system access (R366); numbers of status registers from R331. -/
def systemWords : List (BitVec 96 × Instr) := [
  (plainWord 0x34000000 0 0xC01 4 0x07 0x30, .mov ⟨al, .n64, false, dst 4, .sp .imm, 0x34000000⟩),
  (plainWord 0x12 0 4 4 0x07 0x31, .movi ⟨al, true, dst 4, .v 4, 0x12⟩),
  (plainWord 0x12 0 0 4 0x06 0x31, .movi ⟨al, false, dst 4, .v 0, 0x12⟩),
  (plainWord 0 0 2 44 0x07 0x32, .sset ⟨al, 44, .v 2, 0⟩),
  (plainWord 0 0 3 44 0x16 0x32, .ssetLo ⟨al, 44, .v 3, 0⟩),
  (plainWord 0 0 3 44 0x26 0x32, .ssetHi ⟨al, 44, .v 3, 0⟩),
  (plainWord 0 4 2 0x62C 0x07 0x33, .sadd ⟨al, ⟨false, true, 2, 44⟩, .v 2, .v 4, 0⟩),
  (plainWord 8 2 0x404 44 0x07 0x34, .sld ⟨al, true, 44, 4, .v 2, 8⟩),
  (plainWord 2 0 0 8 0x06 0x35, .rdsr ⟨al, false, dst 8, 2⟩),
  (plainWord 1 0 3 0 0x06 0x36, .wrsr ⟨al, false, .v 3, 1⟩),
  (plainWord 0 0 0 8 0x07 0x37, .rand ⟨al, true, dst 8⟩),
  (plainWord 0 0 0 8 0x00 0x38, .electWv ⟨al, dst 8⟩),
  (plainWord 0 0 0 0x609 0x01 0x38, .electBlk ⟨al, ⟨false, true, 2, 9⟩⟩)]

/-- Floating point (R376, R382). -/
def floatWords : List (BitVec 96 × Instr) := [
  (plainWord 0 3 2 6 0x0A 0x40, .fadd ⟨al, .f32, .rne, dst 6, .v 2, .v 3, 0⟩),
  (plainWord 0 4 2 6 0x2B 0x41, .fsub ⟨al, .f64, .rup, dst 6, .v 2, .v 4, 0⟩),
  (plainWord 0 3 2 6 0x4A 0x42, .fmul ⟨al, .f32, .ctr, dst 6, .v 2, .v 3, 0⟩),
  (plainWord 4 3 2 6 0x1A 0x43, .ffma ⟨al, .f32, .rtz, dst 6, .v 2, .v 3, .v 4⟩),
  (plainWord 0 3 2 6 0x0A 0x44, .fmin ⟨al, .f32, .rne, dst 6, .v 2, .v 3, 0⟩),
  (plainWord 0 3 2 6 0x0A 0x45, .fmax ⟨al, .f32, .rne, dst 6, .v 2, .v 3, 0⟩),
  (plainWord 0 4 2 0x507 0x6B 0x46, .fcmp ⟨al, .f64, .un, ⟨false, true, 1, 7⟩, .v 2, .v 4, 0⟩),
  (plainWord 0 0 2 6 0x3A 0x47, .frnd ⟨al, .f32, .rdn, dst 6, .v 2, 0⟩),
  (plainWord 0x381 0xC01 2 7 0x08 0x48, .fcls ⟨al, .f16, .rne, dst 7, .v 2, .sp .imm, 0x381⟩),
  (plainWord 0 3 2 6 0x0B 0x49, .fscl ⟨al, .f64, .rne, dst 6, .v 2, .v 3, 0⟩),
  (plainWord 0 3 2 6 0x19 0x4A, .hadd2 ⟨al, .bf16, .rtz, dst 6, .v 2, .v 3, 0⟩),
  (plainWord 0 3 2 6 0x08 0x4B, .hmul2 ⟨al, .f16, .rne, dst 6, .v 2, .v 3, 0⟩),
  (plainWord 5 3 2 6 0x28 0x4C, .hfma2 ⟨al, .f16, .rup, dst 6, .v 2, .v 3, .v 5⟩),
  (plainWord 0 3 2 6 0x19 0x4D, .hmnmx2 ⟨al, .bf16, true, dst 6, .v 2, .v 3, 0⟩),
  (plainWord 5 3 2 6 0x08 0x4E, .hdot2 ⟨al, .f16, .rne, dst 6, .v 2, .v 3, .v 5⟩)]

/-- Conversions and special functions (R384, R385, R391). -/
def conversionWords : List (BitVec 96 × Instr) := [
  (plainWord 0 1 2 6 0xA2 0x50, .cvt ⟨al, .i32, .f32, .rtz, dst 6, .v 2, 0⟩),
  (plainWord 0x3005 0 2 6 0x10 0x51, .cvtpP ⟨al, .i8, .rtz, dst 6, .v 2, .v 5, 3⟩),
  (plainWord 0xF000 0 2 6 0x0D 0x51, .cvtpU ⟨al, .tr, dst 6, .v 2, 15⟩),
  (plainWord 0 0 2 0x508 0x04 0x52, .qscale ⟨al, .f4, ⟨false, true, 1, 8⟩, .v 2, 0⟩),
  (plainWord 0x1005 3 2 6 0x20 0x53, .qnt ⟨al, .i8, .rup, dst 6, .v 2, .v 3, .v 5, 1⟩),
  (plainWord 0x7000 3 2 6 0x02 0x54, .dqnt ⟨al, .nib, .rne, dst 6, .v 2, .v 3, 7⟩),
  (plainWord 0 0 2 6 0x0A 0x55, .rcp ⟨al, .f32, .rne, dst 6, .v 2, 0⟩),
  (plainWord 0 0 2 6 0x1A 0x56, .rsq ⟨al, .f32, .rtz, dst 6, .v 2, 0⟩),
  (plainWord 0 0 2 6 0x0A 0x57, .sqrt ⟨al, .f32, .rne, dst 6, .v 2, 0⟩),
  (plainWord 0 0 2 6 0x0A 0x58, .exp2 ⟨al, .f32, .rne, dst 6, .v 2, 0⟩),
  (plainWord 0 0 2 6 0x0A 0x59, .log2 ⟨al, .f32, .rne, dst 6, .v 2, 0⟩),
  (plainWord 0 0 2 6 0x0A 0x5A, .sinpi ⟨al, .f32, .rne, dst 6, .v 2, 0⟩),
  (plainWord 0 0 2 6 0x0A 0x5B, .cospi ⟨al, .f32, .rne, dst 6, .v 2, 0⟩),
  (plainWord 0 0 2 6 0x0A 0x5C, .tanh ⟨al, .f32, .rne, dst 6, .v 2, 0⟩)]

/-- Cross-lane exchange (R395). -/
def laneWords : List (BitVec 96 × Instr) := [
  (plainWord 1 0xC01 2 6 0x0E 0x60, .xshf ⟨al, .xor, true, true, dst 6, .v 2, .sp .imm, 1⟩),
  (plainWord 0 0 2 7 0x0A 0x61, .xred ⟨al, .f32, .add, false, dst 7, .v 2, 0⟩),
  (plainWord 0 0 2 7 0xD6 0x62, .xscan ⟨al, .n32, .xor, true, dst 7, .v 2, 0⟩),
  (plainWord 0 0 2 7 0x1A 0x63, .xvote ⟨al, .map, 3, dst 7, .v 2, 0⟩),
  (plainWord 0x22 3 2 6 0x0A 0x64, .xcmx ⟨al, .f32, dst 6, .v 2, .v 3, 2, 4⟩),
  (plainWord 0 0 0 0 0 0x65, .meet ⟨al⟩)]

/-- Loads, stores and atomics (R404, R405): SUBOP, offset and source C in IMM; scope, order and type in MOD. -/
def memoryWords : List (BitVec 96 × Instr) := [
  (plainWord 0x08000000 2 0x404 6 0x96 0x70, .ld ⟨al, .n32, .acq, .dev, dst 6, ⟨4, .v 2, 0x8000⟩⟩),
  (plainWord 0x00010003 2 0x404 0 0x26 0x71, .st ⟨al, .n32, .rel, .blk, ⟨4, .v 2, 16⟩, .v 3⟩),
  (plainWord 0x60010003 0xC10 0x404 6 0xB6 0x72, .atom ⟨al, .exch, .n32, .ar, .dev, dst 6, ⟨4, .sp .lane, 16⟩, .v 3⟩),
  (plainWord 0x50000004 2 0x404 0 0x07 0x73, .red ⟨al, .xor, .n64, .rlx, .blk, ⟨4, .v 2, 0⟩, .v 4⟩),
  (plainWord 4 2 0x404 6 0x72 0x74, .cas ⟨al, .i32, .ar, .gang, dst 6, ⟨4, .v 2, 0⟩, 4⟩),
  (plainWord 0x00000003 2 0x404 0 0xEA 0x75, .atfx ⟨al, .f32, .rel, .sys, ⟨4, .v 2, 0⟩, .v 3⟩),
  (plainWord 0 2 0x404 6 0x0B 0x76, .ldfx ⟨al, .f64, .rlx, .blk, dst 6, ⟨4, .v 2, 0⟩⟩),
  (plainWord 0 2 0x404 0 0x80 0x77, .pref ⟨al, true, ⟨4, .v 2, 0⟩⟩)]

/-- Barriers, phases and waits (R411, R415, R416). -/
def syncWords : List (BitVec 96 × Instr) := [
  (plainWord 0x00010004 2 0x404 0 0x08 0x80, .barInit ⟨al, true, ⟨4, .v 2, 16⟩, .v 4⟩),
  (plainWord 0x00000003 2 0x404 0 0x01 0x80, .barExpect ⟨al, false, ⟨4, .v 2, 0⟩, .v 3⟩),
  (plainWord 0 2 0x404 6 0x0A 0x80, .barArrive ⟨al, true, dst 6, ⟨4, .v 2, 0⟩⟩),
  (plainWord 0x00000003 2 0x404 0 0x03 0x80, .barWait ⟨al, false, ⟨4, .v 2, 0⟩, .v 3⟩),
  (plainWord 0 2 0x404 6 0x04 0x80, .barArrwait ⟨al, false, dst 6, ⟨4, .v 2, 0⟩⟩),
  (plainWord 0 0 0 0 0x0D 0x81, .phaseAcq ⟨al, .sys⟩),
  (plainWord 0 0 0 0 0x06 0x81, .phaseRel ⟨al, .gang⟩),
  (plainWord 0 0 0 0 0x0B 0x81, .phaseAr ⟨al, .dev⟩),
  (plainWord 0 0 0 0 0x02 0x82, .fence ⟨al, .dev⟩),
  (plainWord 0x07FFC000 2 0x404 6 0x00 0x83, .waita ⟨al, dst 6, ⟨4, .v 2, 0x7FFC⟩⟩)]

/-- Engine commands (R419, R425, R429 to R431). -/
def engineWords : List (BitVec 96 × Instr) := [
  (plainWord 0x00020004 0x408 0x404 0 0x10 0x90, .cpyLin ⟨al, true, false, 4, 8, 4, 0x20⟩),
  (plainWord 0x07FFF004 0x408 0x404 0 0x21 0x90, .cpyGath ⟨al, false, true, 4, 8, 4, 0x7FFF⟩),
  (plainWord 0x00020004 0x408 0x404 0 0x30 0x91, .cpytG2s ⟨al, true, true, 4, 8, 4, 0x20⟩),
  (plainWord 0x00020004 0x408 0x404 0 0x01 0x91, .cpytS2g ⟨al, false, false, 4, 8, 4, 0x20⟩),
  (plainWord 3 2 0x404 0 0x00 0x92, .put ⟨al, .rlx, .s 4, .v 2, .v 3⟩),
  (plainWord 3 0xC00 0xC00 0 0x0E 0x93, .puts ⟨al, .rel, .sp .zero, .sp .zero, .v 3⟩),
  (plainWord 0x405 2 0x404 0 0x00 0x94, .get ⟨al, .rlx, .s 4, .v 2, .s 5⟩),
  (plainWord 0 0 2 6 0x00 0x95, .collStep ⟨al, dst 6, .v 2, 0⟩),
  (plainWord 0 0 0x405 6 0x01 0x95, .collSetup ⟨al, dst 6, .s 5, 0⟩),
  (plainWord 9 0 0xC01 6 0x02 0x95, .collFree ⟨al, dst 6, .sp .imm, 9⟩),
  (plainWord 0 3 0x404 5 0x00 0x96, .launch ⟨al, dst 5, .s 4, .v 3, 0⟩),
  (plainWord 0 3 2 6 0x00 0x97, .nsigArm ⟨al, dst 6, .v 2, .v 3, 0⟩),
  (plainWord 0 0 3 6 0x01 0x97, .nsigDec ⟨al, dst 6, .v 3, 0⟩),
  (plainWord 0 0 3 0x800 0x02 0x97, .nsigCan ⟨al, ⟨true, false, 0, 0⟩, .v 3, 0⟩),
  (plainWord 0 3 2 6 0x03 0x97, .nsigQry ⟨al, dst 6, .v 2, .v 3, 0⟩)]

/-- Matrix operations (R443, R455, R457, R460). -/
def matrixWords : List (BitVec 96 × Instr) := [
  (plainWord 64 0xC00 0xC01 0 0x00 0xA0, .mxop ⟨al, .sp .imm, .sp .zero, 64⟩),
  (plainWord 0x00020004 0 0x404 0 0x30 0xA1, .mxldb ⟨al, true, true, 4, 4, 0x20⟩),
  (plainWord 4 0 0 0 0x00 0xA2, .mxaccZero ⟨al, 0, 4⟩),
  (plainWord 4 0 0 0 0x11 0xA2, .mxaccLd ⟨al, 4, 4⟩),
  (plainWord 4 0 0 0 0x06 0xA2, .mxaccSt ⟨al, 1, 4⟩),
  (plainWord 4 0 0 0 0x03 0xA2, .mxaccFree ⟨al, 0, 4⟩),
  (plainWord 0 0 0 6 0x00 0xA3, .mxstat ⟨al, dst 6⟩),
  (plainWord 0 0 3 6 0x01 0xA3, .mxstatClr ⟨al, dst 6, .v 3, 0⟩)]

/-- Each word decodes to its instruction, which is well formed and whose encoding is the word. -/
def wordsDecode (ws : List (BitVec 96 × Instr)) : Bool :=
  ws.all (fun x => match decode x.1 with
    | .ok i => decide (i = x.2) && i.wf && decide (encode i = x.1)
    | .error _ => false)

theorem test_words_control : wordsDecode controlWords = true := by decide
theorem test_words_integer : wordsDecode integerWords = true := by decide
theorem test_words_logic : wordsDecode logicWords = true := by decide
theorem test_words_system : wordsDecode systemWords = true := by decide
theorem test_words_float : wordsDecode floatWords = true := by decide
theorem test_words_conversion : wordsDecode conversionWords = true := by decide
theorem test_words_lane : wordsDecode laneWords = true := by decide
theorem test_words_memory : wordsDecode memoryWords = true := by decide
theorem test_words_sync : wordsDecode syncWords = true := by decide
theorem test_words_engine : wordsDecode engineWords = true := by decide
theorem test_words_matrix : wordsDecode matrixWords = true := by decide

/-! ## Ill-formed terms, at least one for each check of `Instr.wf` -/

/-- Heads with one fault each: condition 15, condition 14 with a selector, chain, last uses. -/
def cond15 : Head := { al with cond := 15 }
def selected : Head := { al with csel := 1 }
def chained : Head := { al with chain := true }
def lastA : Head := { al with lua := true }
def lastB : Head := { al with lub := true }
def lastC : Head := { al with luc := true }

/-- Guards, hints, operands and destinations (R311, R313 to R318, R162, R341). -/
def illGeneral : List Instr := [
  .nop ⟨cond15⟩, .nop ⟨selected⟩, .nop ⟨lastA⟩, .exit ⟨chained⟩, .ret ⟨lastB⟩, .meet ⟨chained⟩, .nop ⟨lastC⟩,
  .iadd ⟨lastA, .i32, false, dst 8, .s 2, .v 3, 0⟩, .iadd ⟨lastB, .i32, false, dst 8, .v 2, .s 3, 0⟩,
  .iadd ⟨lastC, .i32, false, dst 8, .v 2, .v 3, 0⟩, .imad ⟨lastC, .i32, false, dst 8, .v 2, .v 3, .s 5⟩,
  .iadd ⟨al, .i64, false, dst 8, .v 3, .v 4, 0⟩, .iadd ⟨al, .i64, false, dst 8, .v 2, .v 3, 0⟩,
  .iadd ⟨al, .i64, false, dst 7, .v 2, .v 4, 0⟩, .iadd ⟨al, .i32, false, dst 8, .v 2, .sp .immhi, 1⟩,
  .iadd ⟨al, .i32, false, ⟨true, false, 0, 8⟩, .v 2, .v 3, 0⟩, .iadd ⟨al, .i32, false, ⟨false, false, 1, 8⟩, .v 2, .v 3, 0⟩,
  .iadd ⟨al, .i32, false, dst 8, .v 2, .v 3, 1⟩, .imad ⟨al, .i32, false, dst 8, .v 2, .v 3, .sp .imm⟩,
  .imad ⟨al, .i64, false, dst 8, .v 2, .v 4, .v 5⟩]

/-- Control flow (R343). -/
def illControl : List Instr := [
  .bra ⟨cond15, 1⟩, .bra ⟨chained, 1⟩, .brx ⟨cond15, .s 6, 0⟩, .brx ⟨chained, .s 6, 0⟩, .brx ⟨al, .sp .lane, 0⟩,
  .brx ⟨al, .v 3, 0⟩, .brx ⟨al, .s 6, 1⟩, .call ⟨selected, 0, 1⟩, .call ⟨chained, 0, 1⟩, .callx ⟨cond15, 0, .s 6, 0⟩,
  .callx ⟨lastA, 0, .s 6, 0⟩, .callx ⟨al, 0, .sp .zero, 0⟩, .callx ⟨al, 0, .s 6, 1⟩, .trap ⟨cond15, 1⟩, .trap ⟨chained, 1⟩,
  .bkpt ⟨cond15, 1⟩, .bkpt ⟨chained, 1⟩, .loop ⟨cond15, 6, 1⟩, .loop ⟨chained, 6, 1⟩, .demote ⟨chained⟩, .yield ⟨cond15⟩,
  .tret ⟨chained⟩]

/-- Integers, logic and bits (R355, R360, R365). -/
def illInteger : List Instr := [
  .iadd ⟨al, .f32, false, dst 8, .v 2, .v 3, 0⟩, .imulh ⟨al, .i32, true, dst 8, .v 2, .v 3, 0⟩,
  .isub ⟨cond15, .i32, false, dst 8, .v 2, .v 3, 0⟩, .iadc ⟨cond15, .i32, 0, dst 8, .v 2, .v 3, 0⟩,
  .iadc ⟨lastC, .i32, 0, dst 8, .v 2, .v 3, 0⟩, .iadc ⟨al, .i8, 0, dst 8, .v 2, .v 3, 0⟩, .isbc ⟨al, .i64, 0, dst 9, .v 2, .v 4, 0⟩,
  .isbc ⟨al, .i64, 0, dst 8, .v 3, .v 4, 0⟩, .isbc ⟨al, .i64, 0, dst 8, .v 2, .v 5, 0⟩, .isbc ⟨al, .i32, 0, dst 8, .v 2, .v 4, 7⟩,
  .imad ⟨cond15, .i32, false, dst 8, .v 2, .v 3, .v 5⟩, .imadw ⟨al, .i64, false, dst 8, .v 2, .v 4, .v 6⟩,
  .imadw ⟨al, .i32, false, dst 8, .v 2, .v 3, .sp .tid⟩,
  .imadw ⟨al, .i32, false, dst 9, .v 2, .v 3, .v 4⟩, .imadw ⟨al, .i32, false, dst 8, .v 2, .v 3, .v 5⟩,
  .fshfL ⟨al, .i32, true, dst 8, .v 2, .v 3, .v 5⟩, .iadd3 ⟨al, .n64, false, dst 8, .v 3, .v 4, .v 6⟩,
  .iadd3 ⟨al, .n64, false, dst 8, .v 2, .v 5, .v 6⟩, .iabs ⟨cond15, .i32, false, dst 8, .v 2, 0⟩,
  .iabs ⟨lastB, .i32, false, dst 8, .v 2, 0⟩,
  .iabs ⟨al, .n32, false, dst 8, .v 2, 0⟩, .popc ⟨al, .n32, true, dst 8, .v 2, 0⟩, .brev ⟨al, .n64, false, dst 9, .v 2, 0⟩,
  .popc ⟨al, .n64, false, dst 9, .v 3, 0⟩, .clz ⟨al, .n32, false, dst 9, .v 2, 1⟩,
  .icmp ⟨cond15, .i32, .eq, dst 8, .v 2, .v 3, 0⟩, .icmp ⟨lastC, .i32, .eq, dst 8, .v 2, .v 3, 0⟩,
  .icmp ⟨al, .n8, .eq, dst 8, .v 2, .v 3, 0⟩,
  .icmp ⟨al, .i64, .eq, dst 9, .v 2, .v 4, 0⟩, .icmp ⟨al, .i64, .eq, dst 8, .v 3, .v 4, 0⟩, .icmp ⟨al, .i64, .eq, dst 8, .v 2, .v 5, 0⟩,
  .icmp ⟨al, .i32, .eq, dst 8, .v 2, .v 3, 4⟩, .sel ⟨selected, .n32, dst 8, .v 2, .v 3, 0, 0⟩, .sel ⟨lastC, .n32, dst 8, .v 2, .v 3, 0, 0⟩,
  .sel ⟨al, .i32, dst 8, .v 2, .v 3, 0, 0⟩, .sel ⟨al, .n32, ⟨false, true, 0, 8⟩, .v 2, .v 3, 0, 0⟩,
  .sel ⟨al, .n32, dst 8, .sp .imm, .v 3, 0, 0⟩, .sel ⟨al, .n32, dst 8, .v 2, .sp .immz, 0, 0⟩, .sel ⟨al, .n32, dst 8, .v 2, .v 3, 0, 14⟩,
  .sel ⟨al, .n32, dst 8, .v 2, .v 3, 0, 15⟩, .bool3 ⟨cond15, .n32, dst 8, .v 2, .v 3, .v 4, 1⟩,
  .bool3 ⟨lastC, .n32, dst 8, .v 2, .v 3, .s 4, 1⟩,
  .bool3 ⟨al, .n16, dst 8, .v 2, .v 3, .v 4, 1⟩, .bool3 ⟨al, .n64, dst 9, .v 2, .v 4, .v 6, 1⟩,
  .bool3 ⟨al, .n32, dst 8, .sp .imm, .v 3, .v 4, 1⟩,
  .bool3 ⟨al, .n32, dst 8, .v 2, .sp .imm, .v 4, 1⟩, .bool3 ⟨al, .n32, dst 8, .v 2, .v 3, .sp .imm, 1⟩,
  .permb ⟨cond15, dst 8, .v 2, .v 4, 0⟩,
  .permb ⟨lastB, dst 8, .v 2, .s 4, 0⟩, .permb ⟨al, ⟨false, true, 0, 8⟩, .v 2, .v 4, 0⟩, .permb ⟨al, dst 8, .sp .immhi, .v 4, 0⟩,
  .permb ⟨al, dst 8, .v 2, .s 5, 0⟩, .permb ⟨al, dst 8, .v 2, .b 0, 0⟩, .permb ⟨al, dst 8, .v 2, .sp .zero, 0⟩,
  .permb ⟨al, dst 8, .v 2, .v 4, 1⟩]

/-- Moves and system access (R366). -/
def illSystem : List Instr := [
  .mov ⟨al, .n32, false, ⟨false, true, 0, 8⟩, .v 2, 0⟩, .mov ⟨al, .i32, false, dst 8, .v 2, 0⟩, .movi ⟨cond15, false, dst 8, .v 0, 1⟩,
  .movi ⟨lastA, false, dst 8, .v 0, 1⟩, .movi ⟨al, false, ⟨false, true, 0, 8⟩, .v 0, 1⟩, .movi ⟨al, true, dst 9, .v 0, 1⟩,
  .movi ⟨al, false, dst 8, .v 1, 1⟩, .movi ⟨al, true, dst 8, .sp .imm, 1⟩, .sset ⟨cond15, 4, .v 2, 0⟩, .sset ⟨lastB, 4, .v 2, 0⟩,
  .sset ⟨al, 4, .v 3, 0⟩, .ssetLo ⟨al, 4, .sp .immhi, 0⟩, .ssetHi ⟨al, 4, .v 3, 1⟩, .sadd ⟨cond15, dst 4, .v 2, .v 4, 0⟩,
  .sadd ⟨lastC, dst 4, .v 2, .v 4, 0⟩, .sadd ⟨al, ⟨true, false, 0, 0⟩, .v 2, .v 4, 0⟩, .sadd ⟨al, dst 4, .v 3, .v 4, 0⟩,
  .sadd ⟨al, dst 4, .v 2, .v 5, 0⟩, .sadd ⟨al, dst 4, .v 2, .v 4, 1⟩, .sld ⟨cond15, true, 4, 4, .v 2, 0⟩,
  .sld ⟨chained, true, 4, 4, .v 2, 0⟩,
  .sld ⟨al, true, 4, 5, .v 2, 0⟩, .sld ⟨al, true, 4, 4, .sp .imm, 0⟩, .rdsr ⟨cond15, false, dst 8, 0⟩, .rdsr ⟨chained, false, dst 8, 0⟩,
  .rdsr ⟨al, false, ⟨false, true, 0, 8⟩, 0⟩, .rdsr ⟨al, false, dst 8, 9⟩, .rdsr ⟨al, false, dst 8, 0x20⟩, .wrsr ⟨cond15, false, .v 2, 0⟩,
  .wrsr ⟨chained, false, .v 2, 0⟩, .wrsr ⟨al, false, .sp .imm, 0⟩, .wrsr ⟨al, false, .v 2, 15⟩, .rand ⟨cond15, false, dst 8⟩,
  .rand ⟨lastA, false, dst 8⟩, .rand ⟨al, true, dst 9⟩, .electWv ⟨cond15, dst 8⟩, .electBlk ⟨chained, dst 8⟩,
  .electWv ⟨al, ⟨true, false, 0, 8⟩⟩,
  .mxstat ⟨al, ⟨false, true, 0, 8⟩⟩]

/-- Floating point and conversions (R376, R382, R384, R385, R391). -/
def illFloat : List Instr := [
  .frnd ⟨cond15, .f32, .rne, dst 6, .v 2, 0⟩, .frnd ⟨lastB, .f32, .rne, dst 6, .v 2, 0⟩, .frnd ⟨al, .f16, .rne, dst 6, .v 2, 0⟩,
  .rcp ⟨al, .f64, .rne, dst 6, .v 2, 0⟩, .frnd ⟨al, .f64, .rne, dst 7, .v 2, 0⟩, .frnd ⟨al, .f64, .rne, dst 6, .v 3, 0⟩,
  .tanh ⟨al, .f32, .rne, dst 6, .v 2, 3⟩, .fadd ⟨cond15, .f32, .rne, dst 6, .v 2, .v 3, 0⟩, .fadd ⟨lastC, .f32, .rne, dst 6, .v 2, .v 3, 0⟩,
  .fmul ⟨al, .i32, .rne, dst 6, .v 2, .v 3, 0⟩, .fmin ⟨al, .f32, .rtz, dst 6, .v 2, .v 3, 0⟩,
  .fadd ⟨al, .f32, .rne, ⟨false, true, 0, 6⟩, .v 2, .v 3, 0⟩,
  .fadd ⟨al, .f64, .rne, dst 6, .v 3, .v 4, 0⟩, .fadd ⟨al, .f64, .rne, dst 6, .v 2, .v 5, 0⟩, .fadd ⟨al, .f32, .rne, dst 6, .v 2, .v 3, 1⟩,
  .ffma ⟨cond15, .f32, .rne, dst 6, .v 2, .v 3, .v 4⟩, .ffma ⟨lastA, .f32, .rne, dst 6, .s 2, .v 3, .v 4⟩,
  .hfma2 ⟨al, .f32, .rne, dst 6, .v 2, .v 3, .v 4⟩,
  .hdot2 ⟨al, .f16, .rtz, dst 6, .v 2, .v 3, .v 4⟩, .ffma ⟨al, .f64, .rne, dst 7, .v 2, .v 4, .v 8⟩,
  .ffma ⟨al, .f32, .rne, dst 6, .sp .imm, .v 3, .v 4⟩,
  .ffma ⟨al, .f32, .rne, dst 6, .v 2, .sp .imm, .v 4⟩, .ffma ⟨al, .f32, .rne, dst 6, .v 2, .v 3, .sp .imm⟩,
  .fcmp ⟨cond15, .f32, .un, dst 6, .v 2, .v 3, 0⟩, .fcmp ⟨lastC, .f32, .un, dst 6, .v 2, .v 3, 0⟩,
  .fcmp ⟨al, .n32, .un, dst 6, .v 2, .v 3, 0⟩,
  .fcmp ⟨al, .f32, .un, ⟨true, false, 0, 6⟩, .v 2, .v 3, 0⟩, .fcmp ⟨al, .f64, .un, dst 6, .v 3, .v 4, 0⟩,
  .fcmp ⟨al, .f64, .un, dst 6, .v 2, .v 5, 0⟩,
  .fcmp ⟨al, .f32, .un, dst 6, .v 2, .v 3, 1⟩, .hmnmx2 ⟨cond15, .f16, true, dst 6, .v 2, .v 3, 0⟩,
  .hmnmx2 ⟨lastC, .f16, true, dst 6, .v 2, .v 3, 0⟩,
  .hmnmx2 ⟨al, .f32, true, dst 6, .v 2, .v 3, 0⟩, .hmnmx2 ⟨al, .f16, true, ⟨false, true, 0, 6⟩, .v 2, .v 3, 0⟩,
  .hmnmx2 ⟨al, .f16, true, dst 6, .sp .immhi, .v 3, 0⟩, .hmnmx2 ⟨al, .f16, true, dst 6, .v 2, .sp .immhi, 0⟩,
  .hmnmx2 ⟨al, .f16, true, dst 6, .v 2, .v 3, 1⟩,
  .cvt ⟨cond15, .i32, .f32, .rne, dst 6, .v 2, 0⟩, .cvt ⟨lastB, .i32, .f32, .rne, dst 6, .v 2, 0⟩,
  .cvt ⟨al, .qs, .f32, .rne, dst 6, .v 2, 0⟩,
  .cvt ⟨al, .i32, .qs, .rne, dst 6, .v 2, 0⟩, .cvt ⟨al, .i64, .f32, .rne, dst 7, .v 2, 0⟩, .cvt ⟨al, .i32, .f64, .rne, dst 6, .v 3, 0⟩,
  .cvt ⟨al, .i32, .f32, .rne, dst 6, .v 2, 1⟩, .cvtpP ⟨cond15, .i8, .rne, dst 6, .v 2, .v 5, 3⟩,
  .cvtpP ⟨lastB, .i8, .rne, dst 6, .v 2, .v 5, 3⟩,
  .cvtpP ⟨al, .i8, .rne, dst 6, .v 2, .v 5, 4⟩, .cvtpP ⟨al, .i8, .rne, ⟨false, true, 0, 6⟩, .v 2, .v 5, 3⟩,
  .cvtpP ⟨al, .i8, .rne, dst 6, .sp .imm, .v 5, 3⟩,
  .cvtpP ⟨al, .i8, .rne, dst 6, .v 2, .sp .imm, 3⟩, .cvtpU ⟨cond15, .tr, dst 6, .v 2, 15⟩, .cvtpU ⟨lastC, .tr, dst 6, .v 2, 15⟩,
  .cvtpU ⟨al, .f4, dst 6, .v 2, 8⟩,
  .cvtpU ⟨al, .tr, ⟨false, true, 0, 6⟩, .v 2, 15⟩, .cvtpU ⟨al, .tr, dst 6, .sp .imm, 15⟩, .qscale ⟨cond15, .f4, dst 6, .v 2, 0⟩,
  .qscale ⟨lastB, .f4, dst 6, .v 2, 0⟩,
  .qscale ⟨al, .n8, dst 6, .v 2, 0⟩, .qscale ⟨al, .f4, ⟨true, false, 0, 6⟩, .v 2, 0⟩, .qscale ⟨al, .f4, dst 6, .sp .immhi, 0⟩,
  .qscale ⟨al, .f4, dst 6, .v 2, 1⟩,
  .qnt ⟨cond15, .i8, .rne, dst 6, .v 2, .v 3, .v 5, 1⟩, .qnt ⟨lastA, .i8, .rne, dst 6, .s 2, .v 3, .v 5, 1⟩,
  .qnt ⟨al, .f16, .rne, dst 6, .v 2, .v 3, .v 5, 1⟩,
  .qnt ⟨al, .i8, .rne, dst 6, .v 2, .v 3, .v 5, 4⟩, .qnt ⟨al, .i8, .rne, ⟨false, true, 0, 6⟩, .v 2, .v 3, .v 5, 1⟩,
  .qnt ⟨al, .i8, .rne, dst 6, .sp .imm, .v 3, .v 5, 1⟩,
  .qnt ⟨al, .i8, .rne, dst 6, .v 2, .sp .imm, .v 5, 1⟩, .qnt ⟨al, .i8, .rne, dst 6, .v 2, .v 3, .sp .imm, 1⟩,
  .dqnt ⟨cond15, .nib, .rne, dst 6, .v 2, .v 3, 7⟩,
  .dqnt ⟨lastC, .nib, .rne, dst 6, .v 2, .v 3, 7⟩, .dqnt ⟨al, .bf16, .rne, dst 6, .v 2, .v 3, 1⟩,
  .dqnt ⟨al, .nib, .rne, dst 6, .v 2, .v 3, 8⟩,
  .dqnt ⟨al, .nib, .rne, ⟨false, true, 0, 6⟩, .v 2, .v 3, 7⟩, .dqnt ⟨al, .nib, .rne, dst 6, .sp .imm, .v 3, 7⟩,
  .dqnt ⟨al, .nib, .rne, dst 6, .v 2, .sp .imm, 7⟩]

/-- Cross-lane exchange, memory and synchronisation (R395, R404, R405, R408, R411, R415, R416). -/
def illMemory : List Instr := [
  .xshf ⟨cond15, .up, false, false, dst 6, .v 2, .v 3, 0⟩, .xshf ⟨chained, .up, false, false, dst 6, .v 2, .v 3, 0⟩,
  .xshf ⟨al, .up, false, true, dst 7, .v 2, .v 3, 0⟩, .xshf ⟨al, .up, false, true, dst 6, .v 3, .v 3, 0⟩,
  .xshf ⟨al, .up, false, true, dst 6, .v 2, .sp .immhi, 0⟩,
  .xshf ⟨al, .up, false, false, dst 6, .v 2, .v 3, 1⟩, .xred ⟨cond15, .f32, .add, false, dst 7, .v 2, 0⟩,
  .xred ⟨chained, .f32, .add, false, dst 7, .v 2, 0⟩,
  .xred ⟨al, .f16, .add, false, dst 7, .v 2, 0⟩, .xred ⟨al, .f32, .xor, false, dst 7, .v 2, 0⟩,
  .xred ⟨al, .f32, .add, true, dst 7, .v 2, 0⟩,
  .xscan ⟨al, .f64, .add, true, dst 7, .v 2, 0⟩, .xscan ⟨al, .f64, .add, true, dst 6, .v 3, 0⟩,
  .xscan ⟨al, .f32, .add, true, dst 6, .v 3, 1⟩,
  .xvote ⟨cond15, .cnt, 0, dst 7, .v 2, 0⟩, .xvote ⟨chained, .cnt, 0, dst 7, .v 2, 0⟩, .xvote ⟨al, .cnt, 1, dst 7, .v 2, 0⟩,
  .xvote ⟨al, .cnt, 0, ⟨true, false, 0, 7⟩, .v 2, 0⟩, .xvote ⟨al, .cnt, 0, dst 7, .sp .immhi, 0⟩, .xvote ⟨al, .cnt, 0, dst 7, .v 2, 1⟩,
  .xcmx ⟨cond15, .f32, dst 6, .v 2, .v 3, 2, 4⟩, .xcmx ⟨chained, .f32, dst 6, .v 2, .v 3, 2, 4⟩, .xcmx ⟨al, .f64, dst 6, .v 2, .v 4, 2, 4⟩,
  .xcmx ⟨al, .f32, dst 7, .v 2, .v 3, 2, 4⟩, .xcmx ⟨al, .f32, ⟨true, false, 0, 0⟩, .v 2, .v 3, 2, 4⟩,
  .xcmx ⟨al, .f32, dst 6, .sp .imm, .v 3, 2, 4⟩,
  .xcmx ⟨al, .f32, dst 6, .v 2, .sp .imm, 2, 4⟩, .ld ⟨cond15, .n32, .rlx, .blk, dst 6, ⟨4, .v 2, 0⟩⟩,
  .ld ⟨chained, .n32, .rlx, .blk, dst 6, ⟨4, .v 2, 0⟩⟩,
  .ld ⟨al, .tr, .rlx, .blk, dst 6, ⟨4, .v 2, 0⟩⟩, .ldfx ⟨al, .n32, .rlx, .blk, dst 6, ⟨4, .v 2, 0⟩⟩,
  .ld ⟨al, .n32, .rel, .blk, dst 6, ⟨4, .v 2, 0⟩⟩,
  .ld ⟨al, .n64, .rlx, .blk, dst 7, ⟨4, .v 2, 0⟩⟩, .ld ⟨al, .n32, .rlx, .blk, dst 6, ⟨5, .v 2, 0⟩⟩,
  .ld ⟨al, .n32, .rlx, .blk, dst 6, ⟨4, .sp .imm, 0⟩⟩,
  .st ⟨cond15, .n32, .rlx, .blk, ⟨4, .v 2, 0⟩, .v 3⟩, .st ⟨chained, .n32, .rlx, .blk, ⟨4, .v 2, 0⟩, .v 3⟩,
  .st ⟨al, .qs, .rlx, .blk, ⟨4, .v 2, 0⟩, .v 3⟩,
  .atfx ⟨al, .n64, .rlx, .blk, ⟨4, .v 2, 0⟩, .v 4⟩, .st ⟨al, .n32, .acq, .blk, ⟨4, .v 2, 0⟩, .v 3⟩,
  .st ⟨al, .n32, .rlx, .blk, ⟨6, .v 2, 0⟩, .v 3⟩,
  .st ⟨al, .n64, .rlx, .blk, ⟨4, .v 2, 0⟩, .v 3⟩, .atom ⟨cond15, .add, .n32, .rlx, .blk, dst 6, ⟨4, .v 2, 0⟩, .v 3⟩,
  .atom ⟨chained, .add, .n32, .rlx, .blk, dst 6, ⟨4, .v 2, 0⟩, .v 3⟩, .atom ⟨al, .add, .n16, .rlx, .blk, dst 6, ⟨4, .v 2, 0⟩, .v 3⟩,
  .atom ⟨al, .add, .n32, .rlx, .blk, ⟨false, true, 0, 6⟩, ⟨4, .v 2, 0⟩, .v 3⟩,
  .atom ⟨al, .add, .n32, .rlx, .blk, dst 6, ⟨7, .v 2, 0⟩, .v 3⟩,
  .atom ⟨al, .add, .n32, .rlx, .blk, dst 6, ⟨4, .v 2, 0⟩, .sp .imm⟩, .red ⟨cond15, .add, .n32, .rlx, .blk, ⟨4, .v 2, 0⟩, .v 3⟩,
  .red ⟨chained, .add, .n32, .rlx, .blk, ⟨4, .v 2, 0⟩, .v 3⟩, .red ⟨al, .add, .f32, .rlx, .blk, ⟨4, .v 2, 0⟩, .v 3⟩,
  .red ⟨al, .exch, .n32, .rlx, .blk, ⟨4, .v 2, 0⟩, .v 3⟩,
  .red ⟨al, .add, .n32, .acq, .blk, ⟨4, .v 2, 0⟩, .v 3⟩, .red ⟨al, .add, .n32, .rlx, .blk, ⟨5, .v 2, 0⟩, .v 3⟩,
  .red ⟨al, .add, .n64, .rlx, .blk, ⟨4, .v 2, 0⟩, .v 3⟩,
  .cas ⟨cond15, .n32, .rlx, .blk, dst 6, ⟨4, .v 2, 0⟩, 4⟩, .cas ⟨chained, .n32, .rlx, .blk, dst 6, ⟨4, .v 2, 0⟩, 4⟩,
  .cas ⟨al, .f32, .rlx, .blk, dst 6, ⟨4, .v 2, 0⟩, 4⟩,
  .cas ⟨al, .n64, .rlx, .blk, dst 7, ⟨4, .v 2, 0⟩, 4⟩, .cas ⟨al, .n32, .rlx, .blk, dst 6, ⟨5, .v 2, 0⟩, 4⟩,
  .cas ⟨al, .n64, .rlx, .blk, dst 6, ⟨4, .v 2, 0⟩, 6⟩,
  .cas ⟨al, .n32, .rlx, .blk, dst 6, ⟨4, .v 2, 0⟩, 5⟩, .pref ⟨cond15, false, ⟨4, .v 2, 0⟩⟩, .pref ⟨chained, false, ⟨4, .v 2, 0⟩⟩,
  .pref ⟨al, false, ⟨5, .v 2, 0⟩⟩,
  .barInit ⟨cond15, false, ⟨4, .v 2, 0⟩, .v 4⟩, .barWait ⟨chained, false, ⟨4, .v 2, 0⟩, .v 4⟩,
  .barExpect ⟨al, false, ⟨5, .v 2, 0⟩, .v 4⟩, .barInit ⟨al, false, ⟨4, .v 2, 0⟩, .v 5⟩,
  .barArrive ⟨cond15, false, dst 6, ⟨4, .v 2, 0⟩⟩, .barArrive ⟨chained, false, dst 6, ⟨4, .v 2, 0⟩⟩,
  .barArrwait ⟨al, false, dst 6, ⟨5, .v 2, 0⟩⟩,
  .barArrwait ⟨al, false, ⟨false, true, 0, 6⟩, ⟨4, .v 2, 0⟩⟩, .phaseAr ⟨cond15, .blk⟩, .fence ⟨chained, .blk⟩,
  .waita ⟨cond15, dst 6, ⟨4, .v 2, 0⟩⟩,
  .waita ⟨chained, dst 6, ⟨4, .v 2, 0⟩⟩, .waita ⟨al, dst 6, ⟨5, .v 2, 0⟩⟩, .waita ⟨al, ⟨false, true, 0, 6⟩, ⟨4, .v 2, 0⟩⟩]

/-- Engine and matrix commands (R419, R425, R429 to R431, R443, R455, R457, R460). -/
def illEngine : List Instr := [
  .cpyLin ⟨cond15, false, false, 4, 8, 4, 0⟩, .cpyGath ⟨chained, false, false, 4, 8, 4, 0⟩, .cpytG2s ⟨al, false, false, 5, 8, 4, 0⟩,
  .cpytS2g ⟨al, false, false, 4, 9, 4, 0⟩, .mxldb ⟨cond15, false, false, 4, 4, 0⟩, .mxldb ⟨chained, false, false, 4, 4, 0⟩,
  .mxldb ⟨al, false, false, 5, 4, 0⟩,
  .put ⟨cond15, .rlx, .s 4, .v 2, .v 3⟩, .put ⟨chained, .rlx, .s 4, .v 2, .v 3⟩, .put ⟨al, .rlx, .s 5, .v 2, .v 3⟩,
  .put ⟨al, .rlx, .s 4, .sp .imm, .v 3⟩,
  .get ⟨al, .rlx, .sp .zero, .v 2, .v 3⟩, .get ⟨al, .rlx, .v 4, .v 2, .v 3⟩, .puts ⟨al, .rlx, .s 4, .v 2, .sp .imm⟩,
  .put ⟨al, .rel, .s 4, .v 2, .v 3⟩,
  .puts ⟨al, .acq, .s 4, .v 2, .v 3⟩, .collStep ⟨cond15, dst 6, .v 2, 0⟩, .collStep ⟨chained, dst 6, .v 2, 0⟩,
  .collSetup ⟨al, ⟨false, true, 0, 6⟩, .v 2, 0⟩,
  .collSetup ⟨al, dst 6, .v 3, 0⟩, .collFree ⟨al, dst 6, .sp .lane, 0⟩, .collFree ⟨al, dst 6, .v 3, 1⟩, .nsigDec ⟨cond15, dst 6, .v 3, 0⟩,
  .nsigDec ⟨chained, dst 6, .v 3, 0⟩, .nsigCan ⟨al, ⟨false, true, 0, 6⟩, .v 3, 0⟩, .nsigCan ⟨al, dst 6, .sp .immhi, 0⟩,
  .nsigCan ⟨al, dst 6, .v 3, 1⟩,
  .mxstatClr ⟨cond15, dst 6, .v 3, 0⟩, .mxstatClr ⟨chained, dst 6, .v 3, 0⟩, .mxstatClr ⟨al, ⟨false, true, 0, 6⟩, .v 3, 0⟩,
  .mxstatClr ⟨al, dst 6, .sp .imm, 0⟩,
  .mxstatClr ⟨al, dst 6, .v 3, 1⟩, .launch ⟨cond15, dst 6, .s 4, .v 3, 0⟩, .launch ⟨chained, dst 6, .s 4, .v 3, 0⟩,
  .nsigQry ⟨al, dst 7, .v 2, .v 3, 0⟩,
  .launch ⟨al, dst 6, .v 3, .v 3, 0⟩, .launch ⟨al, dst 6, .s 4, .sp .immhi, 0⟩, .launch ⟨al, dst 6, .s 4, .v 3, 1⟩,
  .mxop ⟨cond15, .v 2, .sp .zero, 0⟩,
  .mxop ⟨chained, .v 2, .sp .zero, 0⟩, .mxop ⟨al, .sp .immhi, .sp .zero, 0⟩, .mxop ⟨al, .v 2, .v 4, 0⟩, .mxop ⟨al, .v 2, .s 5, 0⟩,
  .mxop ⟨al, .v 2, .sp .zero, 1⟩,
  .mxaccZero ⟨cond15, 0, 4⟩, .mxaccZero ⟨chained, 0, 4⟩, .mxaccFree ⟨al, 1, 4⟩, .mxaccSt ⟨al, 5, 4⟩]

/-- Events that name an agent which the part does not have. -/
def illEvents : List Instr := [
  .moduleReset ⟨true, ⟨[], [], 0⟩, ⟨[], [], 0⟩, [(48, 0)], [], [], [], [], [], List.replicate 16 0xFF, [], 0, 8000⟩,
  .moduleReset ⟨true, ⟨[], [], 0⟩, ⟨[], [], 0⟩, [(0, 25)], [], [], [], [], [], List.replicate 16 0xFF, [], 0, 8000⟩,
  .moduleReset ⟨true, ⟨[], [], 0⟩, ⟨[], [], 0⟩, [], [], [], [], [], [], [], [], 0, 8000⟩,
  .moduleReset ⟨true, ⟨[], [], 0⟩, ⟨[], [], 0⟩, [], [], [], [], [], [], List.replicate 16 0xFF, [], 0, 999⟩,
  .monitorSample ⟨[], [], [], 0, 0, [], [], 0⟩, .correctedError ⟨14, 0, 0, 0⟩,
  .linkTraining 3 5, .linkTraining 16 7, .unsupportedRequest 17 .ats, .quadFailureRepair ⟨48, true⟩, .quadRemap 48 0, .quadRemap 0 25, .hbmRowSpare 8,
  .fabricLaneRetire 16 0, .fabricLaneRetire 0 8, .launchSlotWrite 16 0 [], .launchCommit 16 0 [], .slotStatusRead 16 0, .slotStatusRead 0 32,
  .tcfgWrite 16 0, .memoryWindowWrite 16 0 0, .peerEntryWrite 16 0 0, .peerEntryWrite 0 64 0, .pathcfgWrite 16 0, .agemaxWrite 16 0, .ptrootWrite 16 0,
  .stampWrite 16 0 0, .stampWrite 0 16 0, .tmeasinWrite 16 0, .attestationReport 17, .attestationCertificate 17, .registerWrite 17 0 8 0, .flinkRead 17 0,
  .flinkRead 0 16, .msixUnmask 17 0, .msixUnmask 0 64, .functionLevelReset 16, .apertureRead 16 0 4, .apertureWrite 16 0 [], .flitLinkCheckFailure 16,
  .gangStart 48 0, .gangPreempt 192 ⟨0, false⟩, .gangPreempt 0 ⟨Config.slotEntries, false⟩, .blockEnd 192 0, .issueOpportunity 192 0 ⟨[], [], none, []⟩,
  .issueOpportunity 0 16 ⟨[], [], none, []⟩, .gapElapsed 192 0 0, .yieldWake 192 0 0, .loadDataReturn 192 0 0, .fetchBlockFill 192 0 0, .granuleFill 192 0 0 0,
  .pageWalk 192 0 0 false, .pageWalk 0 16 0 false, .walkRetry 16, .sideLogReplay 192, .sweeperVisit 16, .translationServicePoll 16, .inval 16, .perm 16,
  .migrate 16, .copyComplete 192 0 0, .matrixGrant 48, .matrixPass 48 ⟨false, [], []⟩, .matrixComplete 48, .snapshotPoint 192 0, .rollback 192 0, .verifyTimeout 192 0 0,
  .sriovVfEnable 17]

/-- Reserved fields that read zero. -/
def noReserved : Reserved := ⟨0, 0, 0, 0, 0, 0, 0, 0, 0⟩

/-- A packet at a port that the part has not. -/
def illPackets : List Instr :=
  let p : Packet := ⟨0, 0, 0, 0, 0, 0, 0, 0, 0, 0, 0, 0, 0, noReserved, [], [], [], none⟩
  [.writePacket 16 p, .writeWithSignalPacket 16 p, .readRequestPacket 16 p, .readResponsePacket 16 p, .atomicRequestPacket 16 p,
    .atomicResponsePacket 16 p, .flushMarkerPacket 16 p, .markerAckPacket 16 p, .deliveryAckPacket 16 p, .deliveryRefusalPacket 16 p,
    .stepReadyPacket 16 p, .stepDataPacket 16 p, .barrierArrivalPacket 16 p, .barrierReleasePacket 16 p]

theorem test_wf_refuses_general : illGeneral.all (fun i => !i.wf) = true := by decide
theorem test_wf_refuses_control : illControl.all (fun i => !i.wf) = true := by decide
theorem test_wf_refuses_integer : illInteger.all (fun i => !i.wf) = true := by decide
theorem test_wf_refuses_system : illSystem.all (fun i => !i.wf) = true := by decide
theorem test_wf_refuses_float : illFloat.all (fun i => !i.wf) = true := by decide
theorem test_wf_refuses_memory : illMemory.all (fun i => !i.wf) = true := by decide
theorem test_wf_refuses_engine : illEngine.all (fun i => !i.wf) = true := by decide
theorem test_wf_refuses_events : illEvents.all (fun i => !i.wf) = true := by decide
theorem test_wf_refuses_packets : illPackets.all (fun i => !i.wf) = true := by decide

/-! ## A small state in which an instruction executes

One block of one thread of tenant 0, which has a window of 1 MiB and four nodes, on core 0, with a scratchpad of 8 KiB,
backing at 0x20000, a trap table at 0x10000 whose handler of trap 0x20 is the block at 0x1000, and the instruction alone in that
block. Records: `s4` the scratchpad, `s8` a page of the module at
0x30000, `s12` a page at 0x80000 that is not mapped, `s16` the scratchpad of rank 0 through SPACE 2, `s20` no bytes with OOB 1,
`s24` no bytes with OOB 0, `s28` the tile, `s32` a page of module 5, `s36` a page of cells, `s40` the address 0x1000. -/

/-- The words of a record with a base, an extent, a SPACE, an OOB and ACCESS 3 (R178). -/
def recordWords (k base extent space oob : Nat) : List (Nat × UVal) :=
  [(k, ⟨BitVec.ofNat 64 base, false⟩), (k + 1, ⟨BitVec.ofNat 64 extent, false⟩),
   (k + 2, ⟨BitVec.ofNat 64 (space * 2 ^ 12 + oob * 2 ^ 10 + 3 * 2 ^ 8), false⟩), (k + 3, ⟨0, false⟩)]

/-- A mapping of a 64 KiB page of tenant 0 to the frame or module of a tier, of a KIND. -/
def mapped (va pfn tier kind : Nat) : TlbEntry := ⟨0, va, 65536, pfn, true, true, true, tier, kind, 0, .none⟩

def stageThread : Thread :=
  { Thread.start 0 0x1000 with
    fresh := false
    frame := 32
    regs := [(2, ⟨0, false⟩), (3, ⟨1, false⟩), (4, ⟨0, false⟩), (5, ⟨64, false⟩), (6, ⟨0, false⟩), (7, ⟨0, false⟩),
      (10, ⟨5, true⟩)] }

def stageBlock : Block :=
  { fetchBlock with
    rec_ := { fetchRec with
      scrLen := 2
      frame := 1024 }
    unif := recordWords 4 0 8192 1 0 ++ recordWords 8 0x30000 65536 0 0 ++ recordWords 12 0x80000 65536 0 0 ++
      recordWords 16 0 8192 2 0 ++ recordWords 20 0 0 1 1 ++ recordWords 24 0 0 1 0 ++ recordWords 28 0 8388608 3 0 ++
      recordWords 32 0x50000 65536 0 0 ++ recordWords 36 0x40000 65536 0 0 ++ [(40, ⟨0x1000, false⟩)]
    threads := [stageThread] }

/-- The state of an instruction with this block. -/
def stageOf (b : Block) (i : Instr) : State :=
  let s := (State.reset.withFetchWord 96 (encode i).toNat).modTenant 0 (fun t =>
    { t with enable := true, vfOn := true, maxprio := 7, nodecnt := 4, twin := 0x81 :: t.twin.drop 1 })
  ({ s with
    blocks := [b]
    mem := s.mem.store 0x10100 (toBytes 8 0x1000) false [] } : State).modCore 0 (fun k => { k with
    tlb := [mapped 0x10000 1 0 0, mapped 0x20000 2 0 0, mapped 0x30000 3 0 0, mapped 0x40000 4 0 1, mapped 0x50000 5 2 0,
      mapped 0x60000 6 0 0] })

def stage : Instr → State := stageOf stageBlock

/-- The same with the thread changed, and with the block's record changed. -/
def stageTh (f : Thread → Thread) : Instr → State := stageOf { stageBlock with threads := [f stageThread] }
def stageRec (f : BindRec → BindRec) : Instr → State := stageOf { stageBlock with rec_ := f stageBlock.rec_ }

/-- A demoted thread, one at the greatest depth, one at depth 1, and a block whose token nobody holds. -/
def demoted (th : Thread) : Thread := { th with dem := true }
def stageDem : Instr → State := stageTh demoted
def stageFree : Instr → State := stageOf { stageBlock with token := none }

/-- The shed, operands and context of a state whose one thread may begin an instruction. -/
def begins? (s : State) (i : Instr) : Option (Shed × Use × Ctx) :=
  match s.shed, useOf i with
  | some sh, some u =>
    match sh.members with
    | [id] =>
      match ({ s with shed := none } : State).ctx id with
      | some c =>
        if decide (c.id = id) && (sh.twinCtx [c]).isNone && !u.chainTooLong c && !c.th.exited && i.wf then some (sh, u, c) else none
      | none => none
    | _ => none
  | _, _ => none

/-- A well-formed instruction begins in a state, and its thread meets a condition there. -/
def beginsWith (s : State) (i : Instr) (P : State → Use → Ctx → Bool) : Bool :=
  match begins? s i with
  | some (sh, u, c) => P (s.begun sh u c) u c
  | none => false

/-- A well-formed instruction executes its own effect in a state, and a condition holds there. -/
def meets (s : State) (i : Instr) (P : State → Ctx → Bool) : Bool :=
  beginsWith s i (fun t u c => guardTrue u.head c.th.ccs && !u.guardPoison c && !u.beyondFrame c.th.frame && !u.latchBad c &&
    s.hasRoom u c && P t c)

theorem beginsWith_sound {s : State} {i : Instr} {P : State → Use → Ctx → Bool} (h : beginsWith s i P = true) :
    ∃ sh u c, i.wf = true ∧ useOf i = some u ∧ Begins s sh u c ∧ P (s.begun sh u c) u c = true := by
  unfold beginsWith at h
  split at h
  · rename_i sh u c hb
    unfold begins? at hb
    split at hb
    · rename_i sh' u' h1 h2
      split at hb
      · rename_i id hm
        split at hb
        · rename_i c' hc
          split at hb
          · rename_i hk
            simp only [Bool.and_eq_true, decide_eq_true_eq, Bool.not_eq_true', Option.isNone_iff_eq_none] at hk
            obtain ⟨⟨⟨⟨hi, ht⟩, hl⟩, he⟩, hw⟩ := hk
            simp only [Option.some.injEq, Prod.mk.injEq] at hb
            obtain ⟨rfl, rfl, rfl⟩ := hb
            exact ⟨sh', u', c', hw, h2, ⟨h1, by rw [hm, hi], by rw [hi]; exact hc, ht, hl, he⟩, h⟩
          · cases hb
        · cases hb
      · cases hb
    · cases hb
  · cases h

/-- What `meets` says: the hypotheses of the statements about an instruction's own effect hold together. -/
theorem meets_sound {s : State} {i : Instr} {P : State → Ctx → Bool} (h : meets s i P = true) :
    ∃ sh u c, i.wf = true ∧ useOf i = some u ∧ Solo s sh u c ∧ P (s.begun sh u c) c = true := by
  obtain ⟨sh, u, c, hw, hu, hb, hp⟩ := beginsWith_sound h
  simp only [Bool.and_eq_true, Bool.not_eq_true'] at hp
  obtain ⟨⟨⟨⟨⟨h1, h2⟩, h3⟩, h4⟩, h5⟩, h6⟩ := hp
  exact ⟨sh, u, c, hw, hu, ⟨hb, h1, h2, h3, h4, h5⟩, h6⟩

/-- Every instruction of a list executes its own effect on the stage. -/
def allMeet (ws : List (BitVec 96 × Instr)) : Bool := ws.all (fun x => meets (stage x.2) x.2 (fun _ _ => true))

/-- Conditions of the statements, as they are checked here. -/
def performs (c : Ctx) (s : State) (shared : Bool) : Bool :=
  decide (((s.block? c.id.core c.id.ent).bind (·.snap)).bind (fun sn => sn.entry c.id.tid (c.now s).effects) = none) &&
    decide (¬ (c.blk.verify = .secondary ∧ shared = true))
def releasesNow (c : Ctx) (s : State) : Bool :=
  !c.th.dem && decide (c.blk.verify = .single) && !(c.now s).released && s.sideLogClear c.blk
def sysDone (c : Ctx) (s : State) : Bool :=
  s.fabricSent c.id.core && (c.sysSent s).fabricClear c.id.core && !(c.now (c.sysSent s)).awaits
def mayAct (c : Ctx) : Bool := decide (c.blk.token = some c.id.tid) && !c.th.dem
def actsNow (c : Ctx) (s : State) : Bool := releasesNow c s && performs c (s.writeBackAll c.id.core) true

theorem performs_iff (c : Ctx) (s : State) (b : Bool) : performs c s b = true ↔ c.performsNow s b := by
  rw [performs, Bool.and_eq_true, decide_eq_true_eq, decide_eq_true_eq]; rfl
theorem releasesNow_iff (c : Ctx) (s : State) : releasesNow c s = true ↔ c.releasesNow s := by
  simp [releasesNow, Ctx.releasesNow, and_assoc]
theorem sysDone_iff (c : Ctx) (s : State) : sysDone c s = true ↔ c.sysDone s := by simp [sysDone, Ctx.sysDone, and_assoc]
theorem mayAct_iff (c : Ctx) : mayAct c = true ↔ c.mayAct := by simp [mayAct, Ctx.mayAct]
theorem actsNow_iff (c : Ctx) (s : State) : actsNow c s = true ↔ c.actsNow s := by
  rw [actsNow, Bool.and_eq_true, releasesNow_iff, performs_iff]; rfl

/-! ## Every instruction executes its own effect in some state

The words of the encoding tests again: each of these instructions executes on the stage, so the hypotheses of the statements
about it hold together. The conditions that a statement adds are met further below. -/

theorem test_stage_control : allMeet controlWords = true := by decide
theorem test_stage_integer : allMeet integerWords = true := by decide
theorem test_stage_logic : allMeet logicWords = true := by decide
theorem test_stage_system : allMeet systemWords = true := by decide
theorem test_stage_float : allMeet floatWords = true := by decide
theorem test_stage_conversion : allMeet conversionWords = true := by decide
theorem test_stage_lane : allMeet laneWords = true := by decide
theorem test_stage_memory : allMeet memoryWords = true := by decide
theorem test_stage_sync : allMeet syncWords = true := by decide
theorem test_stage_engine : allMeet engineWords = true := by decide
theorem test_stage_matrix : allMeet matrixWords = true := by decide

/-! ## The conditions of the statements about control flow -/

/-- How a transfer's target is met. -/
def reached (s : State) (c : Ctx) (t : CodeAddr) (entry : Bool) : Fetched := (s.reach c.id c.blk.tenant t.toNat c.th.pc.toNat entry false).2
def isOk : Fetched → Bool
  | .ok _ => true
  | _ => false
def isTrap : Fetched → Bool
  | .trap _ _ => true
  | _ => false
def isLines : Fetched → Bool
  | .lines => true
  | _ => false
def isHold : Fetched → Bool
  | .hold => true
  | _ => false

/-- Branches: to the block itself, to a page that is not mapped, to a page of cells, to a page of another module. -/
theorem test_meets_bra :
    let tgt := fun (off : Word) (q : Fetched → Bool) =>
      meets (stage (.bra ⟨al, off⟩)) (.bra ⟨al, off⟩) (fun s c => q (reached s c (c.offsetTarget off) false))
    (tgt 0 isOk && tgt 0xFFFFFFFF isHold && tgt 0xFC0 isTrap && tgt 0x13C0 isLines) = true := by decide

theorem test_meets_brx :
    let to_ := fun (a : Src) (imm : Word) (q : State → Ctx → UVal → Bool) =>
      meets (stage (.brx ⟨al, a, imm⟩)) (.brx ⟨al, a, imm⟩) (fun s c => q s c (c.src s imm true a))
    let at_ := fun (x : UVal) => !x.poison && decide (x.val.extractLsb' 54 10 = 0 ∧ x.val.extractLsb' 0 6 = 0)
    (to_ (.s 40) 0 (fun s c x => at_ x && isOk (reached s c (x.val.extractLsb' 0 54) false)) &&
      to_ (.sp .immz) 0x80000 (fun s c x => at_ x && isHold (reached s c (x.val.extractLsb' 0 54) false)) &&
      to_ (.sp .immz) 0x40000 (fun s c x => at_ x && isTrap (reached s c (x.val.extractLsb' 0 54) false)) &&
      to_ (.sp .immz) 0x1004 (fun _ _ x => !x.poison && decide (x.val.extractLsb' 0 6 ≠ 0)) &&
      to_ (.v 10) 0 (fun _ c x => x.poison && !c.th.dem)) = true := by decide

theorem test_meets_loop :
    let of_ := fun (r : BitVec 8) (off : Word) (q : State → Ctx → UVal → Bool) =>
      meets (stage (.loop ⟨al, r, off⟩)) (.loop ⟨al, r, off⟩) (fun s c => q s c (c.src s 0 false (.v r)))
    (of_ 2 0 (fun _ _ n => !n.poison && n.val == 0) && of_ 3 0 (fun _ _ n => !n.poison && n.val == 1) &&
      of_ 5 0 (fun s c n => !n.poison && n.val != 0 && n.val != 1 && isOk (reached s c (c.offsetTarget 0) false)) &&
      of_ 5 0xFFFFFFFF (fun s c n => !n.poison && n.val != 0 && n.val != 1 && isHold (reached s c (c.offsetTarget 0xFFFFFFFF) false)) &&
      of_ 10 0 (fun _ c n => n.poison && !c.th.dem)) = true := by decide

/-- A call at depth 0 that enters the block, at depth 255, and outside the last slot of its block. -/
def entersB (s : State) (c : Ctx) (n : Nat) (t : CodeAddr) : Bool :=
  !callMisplaced s c && decide (c.th.depth ≠ 255) && (match s.reach c.id c.blk.tenant t.toNat c.th.pc.toNat true false with
    | (s1, .ok k) => decide (c.th.fbase + n + k.frame ≤ c.blk.rec_.frame) &&
      decide ((s1.pushLink c.id (c.th.depth + 1) (BitVec.ofNat 54 (c.th.pc.toNat / 64 * 64 + 68)) n c.th.frame).2 = .ready)
    | _ => false)
def deepest (th : Thread) : Thread := { th with depth := 255 }
def twoSlots (i : Instr) : State :=
  (stage i).modCore 0 (fun k => { k with ibuf := [⟨0, 0x1000, 2, true, 256, [encode i, encode i], none⟩] })

theorem test_meets_calls :
    let c1 : Instr := .call ⟨al, 20, 0⟩
    let c2 : Instr := .callx ⟨al, 20, .s 40, 0⟩
    (meets (stage c1) c1 (fun s c => entersB s c 20 (c.offsetTarget 0)) &&
      meets (stage c2) c2 (fun s c =>
        let x := c.src s 0 true (.s 40)
        !x.poison && x.val.extractLsb' 54 10 == 0 && x.val.extractLsb' 0 6 == 0 && entersB s c 20 (x.val.extractLsb' 0 54)) &&
      meets (stageTh deepest c1) c1 (fun s c => !callMisplaced s c && c.th.depth == 255) &&
      meets (stageTh deepest c2) c2 (fun s c => !callMisplaced s c && c.th.depth == 255) &&
      beginsWith (twoSlots c1) c1 (fun _ u c =>
        callMisplaced (({ twoSlots c1 with shed := none } : State).occupy ⟨0, 0, 0x1004, [⟨0, 0, 0⟩], none⟩ (u.shedCycles [c])) c)) = true := by
  decide

/-- A return at depth 0, and at depth 1 to the block itself through a link entry with slide 0 and frame 32. -/
def linked (f : Thread → Thread) (i : Instr) : State :=
  let s := stageTh (fun th => f { th with depth := 1 }) i
  { s with mem := s.mem.store (s.linkAddr stageBlock 0 1) (toBytes 8 0x1004 ++ toBytes 8 (32 * 2 ^ 8)) false [] }

theorem test_meets_ret :
    let i : Instr := .ret ⟨al⟩
    (meets (stage i) i (fun _ c => c.th.depth == 0) &&
      meets (linked id i) i (fun s c => c.th.depth != 0 && (match s.readLink c.id c.th.depth c.th.pc.toNat with
        | (s1, .ready, pc, n, size) => pc == 0x1004 && n == 0 && size == 32 &&
          isOk (s1.reach c.id c.blk.tenant (BitVec.ofNat 54 (pc / 64 * 64)).toNat c.th.pc.toNat false false).2
        | _ => false))) = true := by decide

theorem test_meets_tret :
    let i : Instr := .tret ⟨al⟩
    let pc := fun (w : Word) (th : Thread) => { th with regs := [(2, ⟨w, false⟩), (3, ⟨0, false⟩)] }
    (meets (stageTh (pc 0x1004) i) i (fun s c => !(c.src s 0 true (.v 2)).poison && c.th.depth == 0) &&
      meets (linked (pc 0x1006) i) i (fun s c => !(c.src s 0 true (.v 2)).poison && c.th.depth != 0 &&
        decide ((c.src s 0 true (.v 2)).nat % 64 ∉ [4, 16, 28, 40, 52])) &&
      meets (linked (pc 0x1004) i) i (fun s c =>
        let x := c.src s 0 true (.v 2)
        !x.poison && c.th.depth != 0 && x.val.extractLsb' 54 10 == 0 && decide (x.nat % 64 ∈ [4, 16, 28, 40, 52]) &&
          (match s.reach c.id c.blk.tenant (x.nat / 64 * 64) c.th.pc.toNat false false with
            | (s1, .ok k) => decide ((x.nat % 64 - 4) / 12 < k.nslot) && decide ((s1.readLink c.id c.th.depth c.th.pc.toNat).2.1 = .ready)
            | _ => false))) = true := by decide

theorem test_meets_ends :
    let y : Instr := .yield ⟨al⟩
    let t : Instr := .trap ⟨al, 31⟩
    (meets (stage y) y (fun _ c => !c.blk.rec_.flags.getLsbD 0) &&
      meets (stageRec (fun r => { r with flags := 1 }) y) y (fun _ c => c.blk.rec_.flags.getLsbD 0) &&
      meets (stage (.exit ⟨al⟩)) (.exit ⟨al⟩) (fun _ c => decide (c.blk.verify = .single)) &&
      meets (stage t) t (fun _ c => decide (c.th.chain = none)) &&
      meets (stageTh (fun th => { th with chain := some ⟨0x1004, 1, [], [], th.ccs, 0, 0⟩ }) t) t
        (fun _ c => decide (c.th.chain ≠ none))) = true := by decide

/-- A thread that holds the token and is not demoted, one demoted, one without it; a clean and a poisoned status write. -/
theorem test_meets_uniform :
    let i : Instr := .sset ⟨al, 44, .v 2, 0⟩
    let w : Instr := .wrsr ⟨al, false, .v 3, 2⟩
    let r : Instr := .rand ⟨al, true, dst 8⟩
    (meets (stage i) i (fun _ c => decide (c.blk.token = some c.id.tid) && !c.th.dem) &&
      meets (stageDem i) i (fun _ c => c.th.dem) && meets (stageFree i) i (fun _ c => decide (c.blk.token ≠ some c.id.tid)) &&
      meets (stage w) w (fun s c => !(c.src s 0 false (.v 3)).poison && !c.th.dem && (c.src s 0 false (.v 3)).val.getLsbD 0) &&
      meets (stage r) r (fun _ c => !c.th.dem)) = true := by decide

/-- Every status register of R331 that `RDSR` reads. -/
theorem test_meets_rdsr : ([0, 1, 2, 3, 4, 5, 6, 7, 8, 0x10, 0x1F] : List (BitVec 12)).all (fun n =>
    meets (stage (.rdsr ⟨al, true, dst 8, n⟩)) (.rdsr ⟨al, true, dst 8, n⟩) (fun _ _ => true)) = true := by decide

/-! ## Before the effect, and traps -/

theorem test_meets_checks :
    let i := fun (h : Head) => (.iadd ⟨h, .i32, false, dst 8, .v 2, .v 3, 0⟩ : Instr)
    let eq : Head := { al with cond := 0 }
    let bad : Thread → Thread := fun th => { th with ccs := { th.ccs with c0 := ⟨⟨false, true, false, false⟩, true⟩ } }
    (beginsWith (stage (i eq)) (i eq) (fun _ u c => !u.guardPoison c && !guardTrue u.head c.th.ccs) &&
      beginsWith (stageTh bad (i eq)) (i eq) (fun _ u c => u.guardPoison c) &&
      beginsWith (stageTh (fun th => { th with frame := 8 }) (i al)) (i al) (fun _ u c =>
        !u.guardPoison c && guardTrue u.head c.th.ccs && u.beyondFrame c.th.frame) &&
      (let l : Instr := .iadd ⟨al, .i32, false, dst 8, .b 1, .v 3, 0⟩
      beginsWith (stage l) l (fun _ u c => !u.guardPoison c && guardTrue u.head c.th.ccs && !u.beyondFrame c.th.frame && u.latchBad c)) &&
      (let l := i { al with chain := true }
      let s := stageTh (fun th => { th with chain := some ⟨0x1004, 7, [], [], th.ccs, 0, 0⟩ }) l
      match s.shed, useOf l with
      | some sh, some u => (match ({ s with shed := none } : State).ctx ⟨0, 0, 0⟩ with
        | some c => decide (sh.members = [c.id]) && (sh.twinCtx [c]).isNone && u.chainTooLong c
        | none => false)
      | _, _ => false)) = true := by decide

/-- A trap whose handler can be entered, one at depth 255, one whose handler is no entry, one whose table is not mapped. -/
def trapMeets (s : State) (th : Thread) : Bool × Bool × Bool :=
  let id : ThreadId := ⟨0, 0, 0⟩
  match s.block? 0 0 with
  | none => (false, false, false)
  | some b => match s.trapEntry id b 0x20 0x1004 with
    | (s1, .ready, h) => match s1.reach id b.tenant h 0x1004 true true with
      | (s2, .ok k) =>
        (match s2.allocate id [(th.frame, 12)] with
          | (s3, .ready) => decide ((s3.pushLink id (th.depth + 1) th.pc (th.frame % 256) th.frame).2 = .ready) &&
            decide (th.depth < 255) && decide (th.fbase + th.frame + k.frame ≤ b.rec_.frame) && decide (12 ≤ k.frame)
          | _ => false, decide (th.depth = 255), false)
      | (_, .trap _ _) => (false, false, true)
      | _ => (false, false, false)
    | (_, .hold _, _) => (false, true, true)
    | _ => (false, false, false)

theorem test_meets_traps :
    let i : Instr := .trap ⟨al, 0⟩
    let noTable := fun (s : State) => s.modCore 0 (fun k => { k with tlb := [] })
    let noEntry := fun (s : State) => s.modCore 0 (fun k => { k with ibuf := [⟨0, 0x1000, 1, false, 256, [0], none⟩] })
    (trapMeets (stage i) stageThread = (true, false, false) ∧
      trapMeets (stageTh deepest i) (deepest stageThread) = (false, true, false) ∧
      trapMeets (noEntry (stage i)) stageThread = (false, false, true) ∧
      trapMeets (noTable (stage i)) stageThread = (false, true, true)) := by decide

/-! ## The conditions of the statements about memory -/

/-- A boundary of `BufferAddresses` for each clause: the last word inside, one past it, a misaligned one, below zero. -/
theorem test_meets_addresses :
    let r := fun oob => Rec.of ⟨0x1000, BitVec.ofNat 64 (4 * 2 ^ 40 + 64), BitVec.ofNat 64 (oob * 2 ^ 10 + 3 * 2 ^ 8), 0⟩
    ((r 0).swz = 0 ∧ (r 0).place 0 15 0 4 = .at_ 0x103C ∧ (r 0).place 0 16 0 4 = .bounds 0x1040 ∧ (r 1).place 0 16 0 4 = .outside ∧
      (r 0).place 0 0 (-1) 4 = .bounds 0xFFF ∧ (r 0).place 0 14 2 4 = .misaligned 0x103A) := by decide

def fateOf (s : State) (c : Ctx) (w : Want) (kinds : List Nat) (stamp quiet : Bool) : Option (State × Fate) :=
  match c.form s w with
  | .va a => some (s.fate c.blk w.acc kinds stamp quiet a)
  | _ => none
def goes (f : Option (State × Fate)) (P : State → TlbEntry → Bool) : Bool :=
  match f with
  | some (s1, .go e) => P s1 e
  | _ => false
def holds (f : Option (State × Fate)) : Bool :=
  match f with
  | some (_, .hold) => true
  | _ => false
def logs (f : Option (State × Fate)) (s : State) (c : Ctx) : Bool :=
  match f with
  | some (s1, .log) => decide ((s1.core c.id.core).sideLog = (s.core c.id.core).sideLog) &&
      decide ((s1.core c.id.core).sideLog.length < Config.sideLogMax)
  | _ => false
def traps : Formed → Bool
  | .trap _ => true
  | _ => false
/-- The block of a formed scratchpad access. -/
def scratchOf (s : State) (c : Ctx) (w : Want) : Option (Nat × Block) :=
  match c.form s w with
  | .scr m off => (c.scrBlock s m).map (fun b => (off, b))
  | _ => none

/-- The memory operand of a record and an offset, indexed by `v2`, which holds 0. -/
def at_ (k : BitVec 8) (off : BitVec 16) : MemOp := ⟨k, .v 2, off⟩

/-- `LD`: outside, own and gang scratchpads at their last word, a page of the module, of another module without and with a
route, an address failure of a thread that is not demoted and of one that is, a page that is not valid. -/
theorem test_meets_ld :
    let ld := fun (m : MemOp) => (.ld ⟨al, .n32, .acq, .dev, dst 6, m⟩ : Instr)
    let w := fun (m : MemOp) => wantOf m 4 .load 1
    let of_ := fun (st : Instr → State) (m : MemOp) (q : State → Ctx → Bool) => meets (st (ld m)) (ld m) q
    let page := fun (s : State) (c : Ctx) (m : MemOp) => fateOf s c (w m) [0, 1, 2] true false
    (of_ stage (at_ 20 0) (fun s c => decide (c.form s (w (at_ 20 0)) = .outside)) &&
      of_ stage (at_ 4 8188) (fun s c => (scratchOf s c (w (at_ 4 8188))).isSome) &&
      of_ stage (at_ 16 8188) (fun s c => (scratchOf s c (w (at_ 16 8188))).isSome) &&
      of_ stage (at_ 8 0) (fun s c => goes (page s c (at_ 8 0)) (fun _ e => e.tier != 2)) &&
      of_ stage (at_ 32 0) (fun s c => !c.th.dem && goes (page s c (at_ 32 0)) (fun s1 e =>
        e.tier == 2 && !s1.reachable c.blk.tenant (lineRequest e (0x50000 / 128)).dmod)) &&
      of_ (fun i => let s := stage i; { s with boot := { s.boot with self := 5 } }) (at_ 32 0) (fun s c =>
        !c.th.dem && goes (page s c (at_ 32 0)) (fun s1 e =>
          e.tier == 2 && s1.reachable c.blk.tenant (lineRequest e (0x50000 / 128)).dmod)) &&
      of_ stage (at_ 4 8192) (fun s c => traps (c.form s (w (at_ 4 8192))) && !c.th.dem) &&
      of_ stageDem (at_ 24 0) (fun s c => traps (c.form s (w (at_ 24 0))) && c.th.dem) &&
      of_ stage (at_ 12 0) (fun s c => !c.th.dem && holds (page s c (at_ 12 0)))) = true := by decide

theorem test_meets_ldfx :
    let ld := fun (m : MemOp) => (.ldfx ⟨al, .f32, .rlx, .blk, dst 6, m⟩ : Instr)
    let w := fun (m : MemOp) => wantOf m 16 .load 1
    (meets (stage (ld (at_ 20 0))) (ld (at_ 20 0)) (fun s c => decide (c.form s (w (at_ 20 0)) = .outside)) &&
      meets (stage (ld (at_ 36 16))) (ld (at_ 36 16)) (fun s c =>
        goes (fateOf s c (w (at_ 36 16)) [1] false c.th.dem) (fun _ _ => true)) &&
      meets (stage (ld (at_ 4 0))) (ld (at_ 4 0)) (fun s c => decide (c.form s (w (at_ 4 0)) = .scr none 0) && !c.th.dem)) = true := by
  decide

theorem test_meets_sld :
    let sld := fun (k : BitVec 8) => (.sld ⟨al, true, 44, k, .v 2, 8⟩ : Instr)
    let w := fun (k : BitVec 8) => (⟨k, .v 2, 8, 8, .load, 1⟩ : Want)
    let mine := fun (c : Ctx) => decide (c.blk.token = some c.id.tid) && !c.th.dem
    (meets (stageFree (sld 4)) (sld 4) (fun _ c => decide (c.blk.token ≠ some c.id.tid)) &&
      meets (stage (sld 4)) (sld 4) (fun s c => mine c && decide (c.form s (w 4) = .scr none 8)) &&
      meets (stage (sld 8)) (sld 8) (fun s c => mine c && goes (fateOf s c (w 8) [0, 1, 2] false false) (fun _ e => e.tier != 2))) =
      true := by decide

theorem test_meets_pref :
    let pref := fun (dev : Bool) (k : BitVec 8) => (.pref ⟨al, dev, at_ k 0⟩ : Instr)
    let w := fun (k : BitVec 8) => wantOf (at_ k 0) 1 .load 1
    (meets (stageDem (pref false 8)) (pref false 8) (fun _ c => c.th.dem) &&
      meets (stage (pref false 24)) (pref false 24) (fun s c => traps (c.form s (w 24))) &&
      [true, false].all (fun dev => meets (stage (pref dev 8)) (pref dev 8) (fun s c =>
        !c.th.dem && goes (fateOf s c (w 8) [0] false true) (fun _ e => decide (e.tier < 2))))) = true := by decide

/-- What an access with a release passes, and the state in which it then performs. -/
def passesB (c : Ctx) (s : State) (o : Ord) (sc : Scope) : Bool :=
  !c.th.dem && (!(releases o) || decide (sc = .blk) || (releasesNow c s && (decide (sc ≠ .sys) || sysDone c s)))
theorem passesB_iff (c : Ctx) (s : State) (o : Ord) (sc : Scope) : passesB c s o sc = true → c.passes s o sc := by
  intro h
  simp only [passesB, Bool.and_eq_true, Bool.or_eq_true, Bool.not_eq_true', decide_eq_true_eq] at h
  refine ⟨h.1, fun hr hs => ?_⟩
  rcases h.2 with (h1 | h1) | ⟨h1, h2⟩
  · rw [hr] at h1; cases h1
  · exact absurd h1 hs
  · refine ⟨(releasesNow_iff c s).1 h1, fun hsys => ?_⟩
    rcases h2 with h2 | h2
    · exact absurd hsys h2
    · exact (sysDone_iff c s).1 h2

/-- The clauses about a value that a store or atomic puts into a scratchpad, into a page of the module and into the side log,
with `.RLX` at block scope, `.REL` at device scope and `.AR` at system scope. -/
theorem test_meets_st :
    let st := fun (o : Ord) (sc : Scope) (m : MemOp) => (.st ⟨al, .n32, o, sc, m, .v 3⟩ : Instr)
    let w := fun (m : MemOp) => wantOf m 4 .store 2
    let of_ := fun (o : Ord) (sc : Scope) (m : MemOp) (q : State → Ctx → State → Bool) =>
      meets (stage (st o sc m)) (st o sc m) (fun s c => passesB c s o sc && !(c.src s 0 false (.v 3)).poison &&
        decide (c.blk.verify = .single) && q s c (c.freed s o sc))
    let all := fun (q : Ord → Scope → Bool) => [(Ord.rlx, Scope.blk), (.rel, .dev), (.rel, .sys)].all (fun x => q x.1 x.2)
    (meets (stageDem (st .rlx .blk (at_ 4 0))) (st .rlx .blk (at_ 4 0)) (fun _ c => c.th.dem) &&
      of_ .rlx .blk (at_ 20 0) (fun s c _ => decide (c.form s (w (at_ 20 0)) = .outside)) &&
      all (fun o sc => of_ o sc (at_ 4 8188) (fun s c f => match c.form s (w (at_ 4 8188)) with
        | .scr m _ => (c.scrBlock s m).isSome && decide (c.scrBlock f m = c.scrBlock s m)
        | _ => false)) &&
      all (fun o sc => of_ o sc (at_ 8 0) (fun s c f => decide (c.form s (w (at_ 8 0)) = .va 0x30000) &&
        goes (fateOf f c (w (at_ 8 0)) [0, 1, 2] true false) (fun _ e => e.tier != 2))) &&
      all (fun o sc => of_ o sc (at_ 12 0) (fun s c f => logs (fateOf f c (w (at_ 12 0)) [0, 1, 2] true false) s c)) &&
      of_ .rlx .blk (at_ 24 0) (fun s c _ => traps (c.form s (w (at_ 24 0))))) = true := by decide

/-- A place in memory or scratchpad whose old value an atomic reads. -/
def atPlace (s : State) (c : Ctx) (o : Ord) (sc : Scope) (w : Want) (n : Nat) : Bool :=
  let f := c.freed s o sc
  match c.form s w with
  | .scr m off => (match c.scrBlock s m, c.scrBlock f m with
    | some b, some b' => decide (b = b') && performs c f false && !f.scratch.anyPoison (b.place off) n
    | _, _ => false)
  | .va a => (match f.fate c.blk w.acc [0, 2] false false a with
    | (s1, .go e) => decide (e.tier ≤ 1) && performs c f true &&
      !(((s1.countAt c.blk.grid e a).flushRange c.id.core (e.pa a) n).homeRead (c.reader a) (e.pa a) n).2.2
    | _ => false)
  | _ => false

theorem test_meets_atom :
    let atom := fun (d : Dst) (m : MemOp) => (.atom ⟨al, .add, .n32, .ar, .dev, d, m, .v 3⟩ : Instr)
    let ok := fun (d : Dst) (m : MemOp) (w : Want) => meets (stage (atom d m)) (atom d m) (fun s c =>
      passesB c s .ar .dev && !(c.src s 0 false (.v 3)).poison && atPlace s c .ar .dev w 4)
    let none_ : Dst := ⟨true, false, 0, 0⟩
    (meets (stageDem (atom (dst 6) (at_ 4 0))) (atom (dst 6) (at_ 4 0)) (fun _ c => c.th.dem) &&
      [4, 16, 8].all (fun k => ok (dst 6) (at_ k 0) (wantOf (at_ k 0) 4 .atom 3)) &&
      [4, 8].all (fun k => ok none_ (at_ k 0) (wantOf (at_ k 0) 4 .red 2)) &&
      meets (stage (atom (dst 6) (at_ 24 0))) (atom (dst 6) (at_ 24 0)) (fun s c =>
        !c.th.dem && traps (c.form s (wantOf (at_ 24 0) 4 .atom 3)))) = true := by decide

theorem test_meets_red :
    let red := fun (m : MemOp) => (.red ⟨al, .add, .n32, .rel, .dev, m, .v 3⟩ : Instr)
    let w := fun (m : MemOp) => wantOf m 4 .red 2
    let ok := fun (m : MemOp) (q : State → Ctx → Bool) => meets (stage (red m)) (red m) (fun s c =>
      passesB c s .rel .dev && !(c.src s 0 false (.v 3)).poison && q s c)
    (meets (stage (red (at_ 20 0))) (red (at_ 20 0)) (fun s c => decide (c.form s (w (at_ 20 0)) = .outside)) &&
      [4, 8].all (fun k => ok (at_ k 0) (fun s c => atPlace s c .rel .dev (w (at_ k 0)) 4)) &&
      ok (at_ 12 0) (fun s c => performs c (c.freed s .rel .dev) true &&
        logs (fateOf (c.freed s .rel .dev) c (w (at_ 12 0)) [0, 2] false false) s c) &&
      ok (at_ 24 0) (fun s c => traps (c.form s (w (at_ 24 0))))) = true := by decide

theorem test_meets_cas :
    let cas := fun (m : MemOp) => (.cas ⟨al, .n32, .ar, .gang, dst 6, m, 4⟩ : Instr)
    [4, 16, 8].all (fun k => meets (stage (cas (at_ k 0))) (cas (at_ k 0)) (fun s c =>
      passesB c s .ar .gang && !(c.src s 0 false (.v 4)).poison && !(c.src s 0 false (.v 5)).poison &&
        atPlace s c .ar .gang (wantOf (at_ k 0) 4 .atom 3) 4)) = true := by decide

theorem test_meets_atfx :
    let atfx := fun (m : MemOp) => (.atfx ⟨al, .f32, .rel, .dev, m, .v 3⟩ : Instr)
    let w := fun (m : MemOp) => wantOf m 16 .red 2
    let ok := fun (m : MemOp) (q : State → Ctx → State → Bool) => meets (stage (atfx m)) (atfx m) (fun s c =>
      passesB c s .rel .dev && !(c.src s 0 false (.v 3)).poison && performs c (c.freed s .rel .dev) true && q s c (c.freed s .rel .dev))
    (meets (stageDem (atfx (at_ 36 0))) (atfx (at_ 36 0)) (fun _ c => c.th.dem) &&
      meets (stage (atfx (at_ 4 0))) (atfx (at_ 4 0)) (fun s c => !c.th.dem && decide (c.form s (w (at_ 4 0)) = .scr none 0)) &&
      ok (at_ 36 16) (fun s c f => decide (c.form s (w (at_ 36 16)) = .va 0x40010) &&
        goes (fateOf f c (w (at_ 36 16)) [1] false false) (fun s1 e =>
          !(((s1.countAt c.blk.grid e 0x40010).flushRange c.id.core (e.pa 0x40010) 16).discover (c.reader 0x40010) (e.pa 0x40010)
            16).mem.anyPoison (e.pa 0x40010) 16)) &&
      ok (at_ 12 0) (fun s c f => logs (fateOf f c (w (at_ 12 0)) [1] false false) s c)) = true := by decide

/-! ## The conditions of the statements about rendezvous and synchronisation -/

/-- The threads of a rendezvous stand gathered, with room for their results. -/
def gatheredB (u : Use) (s1 : State) (b : Block) (c : Ctx) (ths : List Thread) : Bool :=
  decide (s1.block? c.id.core c.id.ent = some b) && !ths.isEmpty &&
    ths.all (fun x => !x.running && decide (x.pc = c.th.pc) && decide (x.depth = c.th.depth) && (x.absent u).isEmpty) &&
    (roomFor u s1 (s1.parts b ths)).2
def mayArriveB (u : Use) (c : Ctx) : Bool :=
  !u.guardPoison c && (!guardTrue u.head c.th.ccs || (!u.beyondFrame c.th.frame && !u.latchBad c))
theorem mayArriveB_iff (u : Use) (c : Ctx) : mayArriveB u c = true ↔ u.mayArrive c := by
  cases h : guardTrue u.head c.th.ccs <;> simp [mayArriveB, Use.mayArrive, h]

/-- The stage with a second thread of the weave that still runs. -/
def stageTwo : Instr → State := stageOf { stageBlock with
  rec_ := { stageBlock.rec_ with threads := 2 }
  threads := [stageThread, { stageThread with tid := 1 }] }

/-- Each rendezvous instruction as the last arrival of its weave, and as one that waits for another thread. -/
theorem test_meets_rendezvous :
    let rs := (laneWords.map (·.2)) ++ [.electWv ⟨al, dst 8⟩]
    let gathered := fun (s : State) (i : Instr) (u : Use) (c : Ctx) =>
      let s1 := c.heldAt s (.rendezvous (guardTrue u.head c.th.ccs) i)
      match s1.block? 0 0 with
      | some b => gatheredB u s1 b c (b.weave (weaveOf c.id.tid)) &&
        (b.weave (weaveOf c.id.tid)).all (fun x => match x.status with
          | .rendezvous _ j => decide (j = i)
          | _ => false)
      | none => false
    let waits := fun (s : State) (i : Instr) (u : Use) (c : Ctx) =>
      match (c.heldAt s (.rendezvous (guardTrue u.head c.th.ccs) i)).block? 0 0 with
      | some b => (b.weave (weaveOf c.id.tid)).any (fun x => decide (x.status = .run))
      | none => false
    (rs.all (fun i => beginsWith (stage i) i (fun s u c => mayArriveB u c && gathered s i u c)) &&
      rs.all (fun i => beginsWith (stageTwo i) i (fun s u c => mayArriveB u c && waits s i u c))) = true := by decide

theorem test_meets_elect :
    let i : Instr := .electBlk ⟨al, dst 8⟩
    let pool := fun (b : Block) => b.threads.filter (fun x => !x.exited && !x.dem)
    let held := fun (s : State) (u : Use) (c : Ctx) => c.heldAt s (.electBlk (guardTrue u.head c.th.ccs) i)
    (beginsWith (stage i) i (fun s u c => mayArriveB u c && !c.th.dem && c.th.tid == c.id.tid &&
        (match (held s u c).block? 0 0 with
          | some b => gatheredB u (held s u c) b c (pool b) && (pool b).all (fun x => match x.status with
            | .electBlk _ j => decide (j = i)
            | _ => false)
          | none => false)) &&
      beginsWith (stageTwo i) i (fun s u c => mayArriveB u c && !c.th.dem && (match (held s u c).block? 0 0 with
        | some b => (pool b).any (fun x => decide (x.status = .run))
        | none => false)) &&
      beginsWith (stage i) i (fun _ u c => c.blk.threads.filter (fun x => !x.exited && !x.dem) == [c.th] && (c.th.absent u).isEmpty &&
        !c.blk.flag 1 && guardTrue u.head c.th.ccs && !u.guardPoison c)) = true := by decide

/-- Participants of an election and of a delivery: one of them wins, none does, and each has its own result. -/
theorem test_meets_parts :
    let i : Instr := .electWv ⟨al, dst 8⟩
    let s := stageTwo i
    let ps := (match s.ctx ⟨0, 0, 0⟩, s.ctx ⟨0, 0, 1⟩ with
      | some a, some b => [⟨a, true⟩, ⟨b, true⟩]
      | _, _ => [] : List Part)
    (ps.map (·.c.id) = [⟨0, 0, 0⟩, ⟨0, 0, 1⟩] ∧ (ps.map (·.c.id)).Nodup ∧ ps.all (fun x => !x.c.th.dem) = true ∧
      (s.block? 0 0).isSome = true ∧ (s.thread? ⟨0, 0, 1⟩).isSome = true) := by decide

/-- The stage with a barrier object at the start of the scratchpad. -/
def withBarrier (o : BarObj) (i : Instr) : State :=
  let s := stage i
  { s with scratch := s.scratch.store 0 o.toBytes false [] }

/-- The object that a barrier instruction forms, of the own scratchpad and of a gang member's. -/
def objectB (s : State) (c : Ctx) (gang : Bool) (m : MemOp) (q : BarObj → Option Nat → Bool) : Bool :=
  !c.th.dem && (match c.formObj s m 16 3 (if gang then [1, 2] else [1]) with
    | .scr mem off => (match c.scrBlock s mem with
      | some b => q (s.barObj b off) mem
      | none => false)
    | _ => false)
def steps (c : Ctx) (s : State) (mem : Option Nat) : Bool := mem.isNone || performs c s false
def arrives (c : Ctx) (s : State) (gang : Bool) (mem : Option Nat) : Bool :=
  (!gang || releasesNow c s) && decide (c.blk.snap.bind (·.entry c.id.tid c.th.effects) = none) && steps c (c.released s gang) mem

theorem test_meets_barInit :
    let i := fun (gang : Bool) (k : BitVec 8) (v : BitVec 8) => (.barInit ⟨al, gang, at_ k 0, .v v⟩ : Instr)
    let one : BarObj := ⟨0, false, 1, 0, 1, false⟩
    let value := fun (s : State) (c : Ctx) (v : BitVec 8) => c.src s 0 true (.v v)
    let reserved : Thread → Thread := fun th => { th with regs := [(2, ⟨0, false⟩), (4, ⟨1, false⟩), (5, ⟨0x10000, false⟩)] }
    ([(false, 4), (true, 4), (true, 16)].all (fun x => meets (withBarrier one (i x.1 x.2 6)) (i x.1 x.2 6) (fun s c =>
        objectB s c x.1 (at_ x.2 0) (fun o mem => !o.reserved && steps c s mem) && !(value s c 6).poison &&
          (value s c 6).val.extractLsb' 48 16 == 0)) &&
      meets (stageTh reserved (i false 4 4)) (i false 4 4) (fun s c => objectB s c false (at_ 4 0) (fun o _ => !o.reserved) &&
        !(value s c 4).poison && (value s c 4).val.extractLsb' 48 16 != 0) &&
      meets (stageDem (i false 4 6)) (i false 4 6) (fun _ c => c.th.dem) &&
      meets (stage (i false 24 6)) (i false 24 6) (fun s c => !c.th.dem && traps (c.formObj s (at_ 24 0) 16 3 [1])) &&
      (let s := stage (i false 4 6)
      let s1 : State := { s with scratch := s.scratch.store 4 (toBytes 4 (2 ^ 17)) false [] }
      meets s1 (i false 4 6) (fun s c => objectB s c false (at_ 4 0) (fun o _ => o.reserved)))) = true := by decide

theorem test_meets_barCounts :
    let e : Instr := .barExpect ⟨al, false, at_ 4 0, .v 3⟩
    let one : BarObj := ⟨0, false, 1, 0, 1, false⟩
    let arr := fun (gang : Bool) (k : BitVec 8) => (.barArrive ⟨al, gang, dst 6, at_ k 0⟩ : Instr)
    let big : Thread → Thread := fun th => { th with regs := [(2, ⟨0, false⟩), (3, ⟨0x80000000, false⟩)] }
    (meets (withBarrier one e) e (fun s c => objectB s c false (at_ 4 0) (fun o mem => !o.reserved && steps c s mem) &&
        !(c.src s 0 false (.v 3)).poison && !(c.src s 0 false (.v 3)).val.getLsbD 31) &&
      meets (stageTh big e) e (fun s c => objectB s c false (at_ 4 0) (fun o _ => !o.reserved) &&
        !(c.src s 0 false (.v 3)).poison && (c.src s 0 false (.v 3)).val.getLsbD 31) &&
      meets (stageDem e) e (fun _ c => c.th.dem) &&
      [(false, 4), (true, 4), (true, 16)].all (fun x => meets (withBarrier one (arr x.1 x.2)) (arr x.1 x.2) (fun s c =>
        objectB s c x.1 (at_ x.2 0) (fun o mem => !o.reserved && arrives c s x.1 mem && decide (1 ≤ o.arrivals)))) &&
      [false, true].all (fun g => meets (stage (arr g 4)) (arr g 4) (fun s c =>
        objectB s c g (at_ 4 0) (fun o _ => !o.reserved && (!g || releasesNow c s) && o.arrivals == 0))) &&
      meets (stageDem (arr true 4)) (arr true 4) (fun _ c => c.th.dem)) = true := by decide

theorem test_meets_barWaits :
    let w := fun (gang : Bool) (r : BitVec 8) => (.barWait ⟨al, gang, at_ 4 0, .v r⟩ : Instr)
    let a := fun (gang : Bool) => (.barArrwait ⟨al, gang, dst 6, at_ 4 0⟩ : Instr)
    let tok := fun (s : State) (c : Ctx) (r : BitVec 8) => (c.src s 0 false (.v r)).val.getLsbD 0
    ([false, true].all (fun g => meets (stage (w g 3)) (w g 3) (fun s c => objectB s c g (at_ 4 0) (fun o _ =>
        !o.reserved && !(c.src s 0 false (.v 3)).poison && o.phase != tok s c 3))) &&
      [false, true].all (fun g => meets (stage (w g 2)) (w g 2) (fun s c => objectB s c g (at_ 4 0) (fun o _ =>
        !o.reserved && !(c.src s 0 false (.v 2)).poison && o.phase == tok s c 2))) &&
      [1, 2].all (fun n => [false, true].all (fun g => meets (withBarrier ⟨0, false, n, 0, 2, false⟩ (a g)) (a g) (fun s c =>
        objectB s c g (at_ 4 0) (fun o mem => !o.reserved && arrives c s g mem && decide (1 ≤ o.arrivals))))) &&
      meets (stageDem (a true)) (a true) (fun _ c => c.th.dem)) = true := by decide

/-- Phases at block scope and at wider ones, with a load in flight, with an entry in the side log, and with a marker owed. -/
theorem test_meets_phases :
    let ld : LoadRec := ⟨none, none, .n32, ⟨0, false⟩, none, none, false, false⟩
    let log : SideEntry := SideEntry.fresh stageBlock 0 ⟨1, 0, .rlx, .blk, 0x80000, zeroBytes 4, false, []⟩
    let loading : Thread → Thread := fun th => { th with loads := [ld] }
    let logged := fun (i : Instr) => (stage i).modCore 0 (fun k => { k with sideLog := [log] })
    let marked := fun (i : Instr) => let s := stage i
      ({ s with fabric := { s.fabric with markers := [⟨0, 5, 0, 0, 0, 1⟩] } } : State)
    let acq : Instr := .phaseAcq ⟨al, .dev⟩
    let rel := fun (sc : Scope) => (.phaseRel ⟨al, sc⟩ : Instr)
    let ar := fun (sc : Scope) => (.phaseAr ⟨al, sc⟩ : Instr)
    (meets (stage acq) acq (fun s c => !c.th.dem && (c.now s).loads.isEmpty) &&
      meets (stageTh loading acq) acq (fun s c => !c.th.dem && !(c.now s).loads.isEmpty) &&
      meets (stageDem acq) acq (fun _ c => c.th.dem) &&
      meets (stage (.fence ⟨al, .dev⟩)) (.fence ⟨al, .dev⟩) (fun s c => s.fenceClear c.blk false) &&
      meets (logged (.fence ⟨al, .gang⟩)) (.fence ⟨al, .gang⟩) (fun s c => !c.th.dem && !s.fenceClear c.blk true) &&
      [Scope.gang, .dev].all (fun sc => meets (stage (rel sc)) (rel sc) (fun s c => releasesNow c s)) &&
      meets (logged (rel .dev)) (rel .dev) (fun s c => !c.th.dem && decide (c.blk.verify = .single) && !(c.now s).released &&
        !s.sideLogClear c.blk) &&
      meets (stage (rel .sys)) (rel .sys) (fun s c => releasesNow c s && sysDone c s) &&
      meets (marked (rel .sys)) (rel .sys) (fun s c => releasesNow c s && s.fabricSent c.id.core &&
        !(c.sysSent s).fabricClear c.id.core) &&
      [Scope.gang, .dev].all (fun sc => meets (stage (ar sc)) (ar sc) (fun s c =>
        releasesNow c s && (c.now (s.writeBackAll c.id.core)).loads.isEmpty)) &&
      meets (stage (ar .sys)) (ar .sys) (fun s c => releasesNow c s && sysDone c s && (c.now (c.sysSent s)).loads.isEmpty)) = true := by
  decide

theorem test_meets_waita :
    let i := fun (k : BitVec 8) (off : BitVec 16) => (.waita ⟨al, dst 6, at_ k off⟩ : Instr)
    (meets (stageDem (i 4 0)) (i 4 0) (fun _ c => c.th.dem) &&
      meets (stage (i 4 8188)) (i 4 8188) (fun s c => !c.th.dem && decide (c.formObj s (at_ 4 8188) 4 1 [1] = .scr none 8188)) &&
      meets (stage (i 4 8192)) (i 4 8192) (fun s c => !c.th.dem && traps (c.formObj s (at_ 4 8192) 4 1 [1])) &&
      meets (stage (i 16 0)) (i 16 0) (fun s c => !c.th.dem && traps (c.formObj s (at_ 16 0) 4 1 [1]))) = true := by decide

/-! ## The conditions of the statements about engines and nodes -/

/-- A list of 32 contributions as the statements about votes and reductions take it. -/
theorem test_meets_contributions :
    let x : List (Option Contrib) := some ⟨5, false, 0⟩ :: List.replicate 30 none ++ [some ⟨7, false, 0⟩]
    (x.length = 32 ∧ x.all (fun v => match v with
      | some c => decide (c.bits < 2 ^ tyWidth .n32)
      | none => true) = true ∧ (x[0]?.getD none).isSome = true) := by decide

/-- The registers of a thread, and an instruction with them on the stage. -/
def withRegs (rs : List (Nat × Word)) : Instr → State := stageTh (fun th => { th with regs := rs.map (fun r => (r.1, ⟨r.2, false⟩)) })

/-- The clauses of a copy: queued, of no bytes, with a record of a wrong form, without access, beyond a limit, demoted. -/
def copyClean (c : Ctx) (src dst g : BitVec 8) (n : Nat) : Bool :=
  !c.th.dem && !(c.blk.record4 src).2 && !(c.blk.record4 dst).2 && (c.group g.toNat n).all (fun x => !x.poison)
def copyGood (c : Ctx) (form : Nat) (src dst : BitVec 8) : Bool :=
  copyRecordsOk form c.blk.rec_.gsize (Rec.of (c.blk.record4 src).1) (Rec.of (c.blk.record4 dst).1)
def copyAllowed (c : Ctx) (src dst : BitVec 8) : Bool :=
  (Rec.of (c.blk.record4 src).1).allows 1 && (Rec.of (c.blk.record4 dst).1).allows 2
def copyRanged (c : Ctx) (form n : Nat) (g : BitVec 8) : Bool := copyRanges form ((c.group g.toNat n).map UVal.nat)
def copyOutside (c : Ctx) (form n comp : Nat) (src dst g : BitVec 8) : Option Nat :=
  outsideAt (copySides form c.blk.alloc (Rec.of (c.blk.record4 src).1) (Rec.of (c.blk.record4 dst).1)
    ((c.group g.toNat n).map UVal.nat) ++ [(comp, decide (comp + 20 ≤ c.blk.alloc))])
def copyFits (c : Ctx) (form n comp : Nat) (src dst g : BitVec 8) : Bool :=
  copyRanged c form n g && (copyOutside c form n comp src dst g).isNone
def strided (b : Block) : Block := { b with
  unif := recordWords 4 0 8192 1 0 ++ [(8, ⟨0x30000, false⟩), (9, ⟨BitVec.ofNat 64 (64 * 2 ^ 40 + 65536), false⟩),
    (10, ⟨BitVec.ofNat 64 (3 * 2 ^ 8), false⟩), (11, ⟨0, false⟩)] ++ [(12, ⟨0x30000, false⟩),
    (13, ⟨BitVec.ofNat 64 (64 * 2 ^ 40 + 65536), false⟩), (14, ⟨BitVec.ofNat 64 (2 ^ 8), false⟩), (15, ⟨0, false⟩)] }
def stageCopy (rs : List (Nat × Word)) : Instr → State := stageOf (strided { stageBlock with
  threads := [{ stageThread with regs := rs.map (fun r => (r.1, ⟨r.2, false⟩)) }] })

theorem test_meets_copies :
    let lin := fun (a b : BitVec 8) => (.cpyLin ⟨al, true, true, a, b, 4, 1⟩ : Instr)
    let q := fun (n : Word) => [(4, (0 : Word)), (5, 0), (6, n), (7, 9)]
    let cmd := fun (c : Ctx) (form : Nat) (src dst : BitVec 8) (n : Nat) => (⟨form, c.id.tid, c.th.pc, (c.blk.record4 src).1,
      (c.blk.record4 dst).1, ((c.group 4 n).map UVal.nat).map (BitVec.ofNat 64), ⟨none, none⟩, 16, c.blk.cmdSeq, false, [], 0, false⟩ : CopyCmd)
    let rows := [(4, (0 : Word)), (5, 0), (6, 0), (7, 0x20040), (8, 0x201), (9, 7)]
    (meets (stageCopy (q 128) (lin 4 8)) (lin 4 8) (fun _ c => copyClean c 4 8 4 4 && copyGood c 0 4 8 && copyAllowed c 4 8 &&
        copyFits c 0 4 16 4 8 4 && (cmd c 0 4 8 4).count != 0) &&
      meets (stageCopy (q 0) (lin 4 8)) (lin 4 8) (fun _ c => copyClean c 4 8 4 4 && copyGood c 0 4 8 && copyAllowed c 4 8 &&
        copyFits c 0 4 16 4 8 4 && (cmd c 0 4 8 4).count == 0) &&
      meets (stageCopy (q 128) (lin 4 16)) (lin 4 16) (fun _ c => copyClean c 4 16 4 4 && !copyGood c 0 4 16) &&
      meets (stageCopy (q 128) (lin 4 12)) (lin 4 12) (fun _ c => copyClean c 4 12 4 4 && copyGood c 0 4 12 && !copyAllowed c 4 12) &&
      meets (stageCopy (q 8193) (lin 4 8)) (lin 4 8) (fun _ c => copyClean c 4 8 4 4 && copyGood c 0 4 8 && copyAllowed c 4 8 &&
        copyRanged c 0 4 4 && (copyOutside c 0 4 16 4 8 4).isSome) &&
      meets (stageCopy (q 0x80000000) (lin 4 8)) (lin 4 8) (fun _ c => copyClean c 4 8 4 4 && copyGood c 0 4 8 && copyAllowed c 4 8 &&
        !copyRanged c 0 4 4) &&
      meets (stageDem (lin 4 8)) (lin 4 8) (fun _ c => c.th.dem) &&
      (let i : Instr := .cpyGath ⟨al, true, true, 8, 4, 4, 1⟩
      meets (stageCopy (q 2) i) i (fun _ c => copyClean c 8 4 4 4 && copyGood c 1 8 4 && copyAllowed c 8 4 && copyFits c 1 4 16 8 4 4 &&
        (cmd c 1 8 4 4).count != 0)) &&
      (let i : Instr := .cpytG2s ⟨al, true, true, 8, 4, 4, 1⟩
      meets (stageCopy rows i) i (fun _ c => copyClean c 8 4 4 6 && copyGood c 2 8 4 && copyAllowed c 8 4 && copyFits c 2 6 16 8 4 4 &&
        (cmd c 2 8 4 6).count != 0)) &&
      (let i : Instr := .cpytS2g ⟨al, true, true, 8, 4, 4, 1⟩
      meets (stageCopy rows i) i (fun _ c => copyClean c 4 8 4 6 && copyGood c 3 4 8 && copyAllowed c 4 8 && copyFits c 3 6 16 4 8 4 &&
        (cmd c 3 4 8 6).count != 0)) &&
      (let i : Instr := .mxldb ⟨al, true, true, 8, 4, 1⟩
      meets (stageCopy [(4, 0), (5, 64), (6, 64), (7, 9)] i) i (fun _ c =>
        let r := Rec.of (c.blk.record4 8).1
        !c.th.dem && (c.group 4 4).all (fun x => !x.poison) && r.engineOk c.blk.rec_.gsize [0, 1, 3] && r.allows 1 &&
          r.holds c.blk.alloc (r.start 0) (256 * 64) && compOk c.blk.alloc true true 16))) = true := by decide

/-- A command block of 64 bytes at the start of the scratchpad: module 0, tenant 0, address 0x30000, 64 bytes, a signal. -/
def withCommand (words : List Nat) (i : Instr) : State :=
  let s := stage i
  { s with scratch := s.scratch.store 0 (words.flatMap (toBytes 8)) false [] }

theorem test_meets_fabric :
    let put := fun (a : Src) (b : Src) (x : BitVec 8) => (.put ⟨al, .rlx, a, b, .v x⟩ : Instr)
    let ok := fun (form : Nat) (s : State) (c : Ctx) (scr : Bool) =>
      let ws := toDwords 8 (s.scratch.read (c.own 0) 64)
      !c.th.dem && !s.scratch.anyPoison (c.own 0) 64 && fabBlockOk form c.blk.alloc scr ws
    let plain := [0x30000, 64, 0, 0, 0, 0, 0, 0]
    let local_ := [0x30000, 64, 0, 0, 0, 0, 1, 0]
    let signal := [0x30000, 64, 1, 0x30040, 0, 0, 1, 0]
    let puts := fun (o : Ord) => (.puts ⟨al, o, .sp .zero, .sp .zero, .v 2⟩ : Instr)
    (meets (withCommand plain (put (.s 8) (.v 2) 2)) (put (.s 8) (.v 2) 2) (fun s c =>
        ok 0 s c false && performs c s true && (c.record 8).engineOk c.blk.rec_.gsize [0] && (c.record 8).allows 1 &&
          (c.record 8).holds c.blk.alloc ((c.record 8).start 0) 64) &&
      meets (withCommand local_ (put (.sp .zero) (.sp .zero) 2)) (put (.sp .zero) (.sp .zero) 2) (fun s c =>
        ok 0 s c true && performs c s true) &&
      meets (withCommand signal (puts .rlx)) (puts .rlx) (fun s c => ok 1 s c true && performs c s true) &&
      meets (withCommand signal (puts .rel)) (puts .rel) (fun s c => ok 1 s c true && releasesNow c s && s.fabricSent c.id.core &&
        performs c (c.sysSent s) true) &&
      (let i : Instr := .get ⟨al, .rlx, .s 8, .v 2, .v 2⟩
      meets (withCommand plain i) i (fun s c => ok 2 s c false && (c.record 8).allows 2)) &&
      meets (stageDem (puts .rlx)) (puts .rlx) (fun _ c => c.th.dem) &&
      meets (stage (put (.s 8) (.v 2) 3)) (put (.s 8) (.v 2) 3) (fun s c => !c.th.dem && (c.src s 0 false (.v 3)).nat % 64 != 0) &&
      (let i := put (.s 8) (.v 2) 6
      meets (withRegs [(2, 0), (6, 8192)] i) i (fun s c => !c.th.dem && (c.src s 0 false (.v 6)).nat % 64 == 0 &&
        decide (c.blk.alloc < (c.src s 0 false (.v 6)).nat + 64)))) = true := by decide

/-- A launch record at 0x30000: one block of one thread, frame 16, in Saffron. -/
def launchRecord : List Nat := [0x1000, 0x301 + 2 ^ 32 + 2 ^ 48, 1 + 2 ^ 32 + 2 ^ 48, 16 * 2 ^ 32, 0, 0, 0x10000, 0x20000, 0, 0, 0, 0, 0, 0, 0, 0]
def withMemory (a : Nat) (words : List Nat) (i : Instr) : State :=
  let s := stage i
  { s with mem := s.mem.store a (words.flatMap (toBytes 8)) false [] }

/-- The stage with a page that may not be read at 0x40000. -/
def unreadable (i : Instr) : State :=
  (stage i).modCore 0 (fun k => { k with tlb := { mapped 0x40000 4 0 0 with rd := false } :: k.tlb.filter (fun e => e.va != 0x40000) })

theorem test_meets_launch :
    let i := fun (a : Src) (imm : Word) (n : Src) => (.launch ⟨al, dst 6, a, n, imm⟩ : Instr)
    let good := i (.s 8) 0 (.v 2)
    let readyB := fun (s : State) (c : Ctx) (a n : Src) (imm : Word) =>
      mayAct c && !(c.src s imm true a).poison && !(c.src s imm false n).poison && actsNow c s
    let goodAddr := fun (x : UVal) => x.val.toNat % 64 == 0 && x.val.extractLsb' 54 10 == 0
    let readB := fun (s : State) (c : Ctx) => c.readUnits (s.writeBackAll c.id.core) 0x30000 2
    (meets (stageFree good) good (fun _ c => !mayAct c) &&
      meets (stage (i (.sp .immz) 0x30010 (.v 2))) (i (.sp .immz) 0x30010 (.v 2)) (fun s c =>
        readyB s c (.sp .immz) (.v 2) 0x30010 && !goodAddr (c.src s 0x30010 true (.sp .immz))) &&
      meets (stage (i (.s 8) 65536 (.sp .imm))) (i (.s 8) 65536 (.sp .imm)) (fun s c => readyB s c (.s 8) (.sp .imm) 65536 &&
        goodAddr (c.src s 65536 true (.s 8)) && decide (65535 < (c.src s 65536 false (.sp .imm)).nat)) &&
      meets (stage good) good (fun s c => readyB s c (.s 8) (.v 2) 0 && goodAddr (c.src s 0 true (.s 8)) && (match readB s c with
        | (s1, .ok bs false) => (match s1.checkLaunch c.blk.tenant (toDwords 15 bs) with
          | (_, .error code) => decide (code < 2 ^ 16)
          | _ => false)
        | _ => false)) &&
      meets (withMemory 0x30000 launchRecord good) good (fun s c => readyB s c (.s 8) (.v 2) 0 && (match readB s c with
        | (s1, .ok bs false) => (match s1.checkLaunch c.blk.tenant (toDwords 15 bs) with
          | (s2, .ok _) => (s2.freeNode c.blk.tenant).isSome
          | _ => false)
        | _ => false)) &&
      meets (unreadable (i (.s 36) 0 (.v 2))) (i (.s 36) 0 (.v 2)) (fun s c => readyB s c (.s 36) (.v 2) 0 &&
        (match c.readUnits (s.writeBackAll c.id.core) 0x40000 2 with
          | (_, .trap _) => true
          | _ => false)) &&
      meets (stage (i (.s 32) 0 (.v 2))) (i (.s 32) 0 (.v 2)) (fun s c => readyB s c (.s 32) (.v 2) 0 &&
        (match c.readUnits (s.writeBackAll c.id.core) 0x50000 2 with
          | (_, .lines) => true
          | _ => false))) = true := by decide +kernel

/-- The stage with node 1 in a state, with a count. -/
def withNode (st : NodeState) (pred : Nat) (i : Instr) : State :=
  let s := stage i
  s.setNode { s.node 1 with num := 1, st := st, pred := pred, tenant := 0 }

theorem test_meets_nsig :
    let arm : Instr := .nsigArm ⟨al, dst 6, .v 3, .v 2, 0⟩
    let dec : Instr := .nsigDec ⟨al, dst 6, .v 3, 0⟩
    let can : Instr := .nsigCan ⟨al, dst 6, .v 3, 0⟩
    let qry : Instr := .nsigQry ⟨al, dst 6, .v 3, .v 2, 0⟩
    ([arm, dec].all (fun i => meets (stage i) i (fun s c => !c.th.dem && actsNow c s)) &&
      [arm, dec, qry].all (fun i => meets (stageDem i) i (fun _ c => c.th.dem)) &&
      meets (stage qry) qry (fun s c => !c.th.dem && performs c s true) &&
      meets (stageFree can) can (fun _ c => !mayAct c) &&
      [NodeState.free, .armed, .ready, .ending].all (fun st => meets (withNode st 1 can) can (fun s c => mayAct c && actsNow c s &&
        (let t := (s.writeBackAll c.id.core).canNode c.blk.tenant 1
        ((c.did t.1 6 true [crcUnit 67 1 0] t.2).thread? c.id).any (fun th => !th.exited)))) &&
      (let own := fun (i : Instr) => stageRec (fun r => { r with node := 1 }) i
      let s := (own can).setNode { (own can).node 1 with num := 1, st := .running, tenant := 0, live := 1 }
      meets s can (fun s c => mayAct c && actsNow c s &&
        (let t := (s.writeBackAll c.id.core).canNode c.blk.tenant 1
        ((c.did t.1 6 true [crcUnit 67 1 0] t.2).thread? c.id).any (fun th => th.exited))))) = true := by decide

/-- Nodes as the statements about single operations take them, at the boundaries of their clauses. -/
theorem test_meets_nodes :
    let s := withNode .armed 2 (.nop ⟨al⟩)
    let s1 := withNode .armed 1 (.nop ⟨al⟩)
    let full := s.modTenant 0 (fun t => { t with nodecnt := 0 })
    (s.ownsNode 0 1 = true ∧ (s.node 1).st = .armed ∧ 1 < (s.node 1).pred ∧ (s1.node 1).pred = 1 ∧ (s1.node 1).event = false ∧
      (s1.node 1).failin = false ∧ s.freeNode 0 = some 0 ∧ s.ownsNode 0 4 = false ∧ full.freeNode 0 = none) := by decide

/-- A communicator record at 0x30000 for two ranks, this module with tenant 0 being rank 0, with its rank map behind it. -/
def commRecord : List Nat := [3 + 2 * 2 ^ 16, 0x301, 0x30000, 4096, 0x30040, 0, 0, 0, 2 ^ 32 * 5, 0, 0, 0, 0, 0, 0, 0]
def withComm (st : CommState) (i : Instr) : State :=
  let s := stage i
  match s.ctx ⟨0, 0, 0⟩ with
  | some c => { s with coll := { s.coll with comms := [{ c.newComm s 0x30000 (commRecord.map (BitVec.ofNat 64)) [(0, 0), (5, 0)] with st := st }] } }
  | none => s

theorem test_meets_coll :
    let step := fun (a : Src) (imm : Word) => (.collStep ⟨al, dst 6, a, imm⟩ : Instr)
    let setup := fun (a : Src) (imm : Word) => (.collSetup ⟨al, dst 6, a, imm⟩ : Instr)
    let free : Instr := .collFree ⟨al, dst 6, .sp .imm, 3⟩
    let goodAddr := fun (x : UVal) => !x.poison && x.val.toNat % 64 == 0 && x.val.extractLsb' 54 10 == 0
    let mem := withMemory 0x30000 commRecord
    let ok := fun (r : State × CollRead) => match r.2 with
      | .ok _ false => true
      | _ => false
    ([step (.s 8) 0, setup (.s 8) 0, free].all (fun i => meets (stageFree i) i (fun _ c => !mayAct c)) &&
      [step (.sp .immz) 0x30010, setup (.sp .immz) 0x30010].all (fun i => meets (stage i) i (fun s c => mayAct c &&
        !goodAddr (c.src s 0x30010 true (.sp .immz)))) &&
      [step (.v 10) 0, setup (.v 10) 0].all (fun i => meets (stage i) i (fun s c => mayAct c && (c.src s 0 true (.v 10)).poison)) &&
      meets (mem (step (.s 8) 0)) (step (.s 8) 0) (fun s c => mayAct c && goodAddr (c.src s 0 true (.s 8)) && actsNow c s &&
        decide (s.coll.chains.length < Config.chainMax) && ok (c.collRead (s.writeBackAll c.id.core) [(0x30000, 64)]) &&
        (match c.collStart 0x30000 (s.writeBackAll c.id.core) with
          | .done r _ => r == 0
          | _ => false)) &&
      meets (unreadable (step (.s 36) 0)) (step (.s 36) 0) (fun s c => mayAct c && actsNow c s &&
        (match c.collRead s [(0x40000, 64)] with
          | (_, .refused) => true
          | _ => false)) &&
      meets (mem (setup (.s 8) 0)) (setup (.s 8) 0) (fun s c => mayAct c && goodAddr (c.src s 0 true (.s 8)) && actsNow c s &&
        (match c.collRead (s.writeBackAll c.id.core) [(0x30000, 32), (0x30020, 32)] with
          | (s1, .ok bs false) => commRecordOk c.blk.alloc (toDwords 8 bs) && (match c.collRead s1 (granuleSpans 0x30040 9 8) with
            | (s2, .ok rs false) => rankMapOk 2 rs && decide ((rankMap 2 rs)[0]? = some (s2.boot.self.toNat, c.blk.tenant)) &&
              (s2.comm? 3).isNone
            | _ => false)
          | _ => false) &&
        (match c.collPost 0x30000 (s.writeBackAll c.id.core) with
          | .done r _ => r == 0
          | _ => false)) &&
      meets (stage (setup (.s 8) 0)) (setup (.s 8) 0) (fun s c => match c.collRead s [(0x30000, 32), (0x30020, 32)] with
        | (_, .ok bs false) => !commRecordOk c.blk.alloc (toDwords 8 bs)
        | _ => false) &&
      [CommState.setup, .up].all (fun st => meets (withComm st free) free (fun s c => mayAct c && actsNow c s &&
        (s.comm? 3).any (fun k => k.tenant == 0 && decide (k.st = st))))) = true := by decide +kernel

/-- A parameter block at the start of the scratchpad: BF16 by BF16, 1 row, 128 columns, K 128, A at 64, no write-out or one
through a record; and the groups of `MXACC`. -/
def mxBlock (wglb : Bool) : List Nat :=
  [1 + 2 ^ 32 + 128 * 2 ^ 48 + (if wglb then 2 ^ 23 + 2 ^ 20 else 0), 128, 64 + 256 * 2 ^ 32,
    (if wglb then 512 * 2 ^ 40 else 0), 0, 0, 0, 0]

theorem test_meets_mxop :
    let i := fun (a : BitVec 8) (b : Src) => (.mxop ⟨al, .v a, b, 0⟩ : Instr)
    let none_ := i 2 (.sp .zero)
    let glb := i 2 (.s 8)
    let gang := fun (i : Instr) => stageOf { stageBlock with
      rec_ := { stageBlock.rec_ with gsize := 2 }
      token := none } i
    let x := fun (s : State) (c : Ctx) => MxParams.of (toDwords 8 (s.scratch.read (c.blk.place 0) 64))
    let form := fun (s : State) (c : Ctx) (g : Bool) => mxFormOk (toDwords 8 (s.scratch.read (c.blk.place 0) 64)) c.blk.contract.rpt g &&
      (x s c).bankOk c.blk.contract.rpt
    let fits := fun (s : State) (c : Ctx) =>
      (outsideAt ((x s c).objects c.blk.alloc ++ (x s c).regions c.blk.alloc ++ (x s c).slices)).isNone
    let may := fun (c : Ctx) => !c.th.dem && c.blk.rec_.gsize == 1
    (meets (gang none_) none_ (fun _ c => c.blk.rec_.gsize != 1 && !mayAct c) &&
      meets (stageDem none_) none_ (fun _ c => c.blk.rec_.gsize == 1 && c.th.dem) &&
      meets (stage (i 3 (.sp .zero))) (i 3 (.sp .zero)) (fun s c => may c && (c.src s 0 false (.v 3)).nat % 64 != 0) &&
      (let j := i 4 (.sp .zero)
      meets (withRegs [(4, 8192)] j) j (fun s c => may c && (c.src s 0 false (.v 4)).nat % 64 == 0 &&
        decide (c.blk.alloc < (c.src s 0 false (.v 4)).nat + 64))) &&
      meets (stage none_) none_ (fun s c => may c && !s.scratch.anyPoison (c.blk.place 0) 64 && !form s c false) &&
      meets (withCommand (mxBlock false) none_) none_ (fun s c => may c && !s.scratch.anyPoison (c.blk.place 0) 64 && form s c false &&
        fits s c) &&
      meets (withCommand ((mxBlock false).set 2 (8192 + 256 * 2 ^ 32)) none_) none_ (fun s c => may c && form s c false && !fits s c) &&
      meets (withCommand (mxBlock true) glb) glb (fun s c =>
        let r := c.record 8
        may c && form s c true && fits s c && r.ok c.blk.rec_.gsize && r.space == 0 && r.allows 2 &&
          decide ((x s c).woff + ((x s c).m - 1) * (x s c).wstride + (x s c).n * (x s c).cSize ≤ r.extent) &&
          decide ((s.destPages c.blk false ((x s c).destAddrs r)).2 = .ok false))) = true := by decide +kernel

theorem test_meets_mxacc :
    let is := fun (f : BitVec 3) => [(.mxaccZero ⟨al, 0, 4⟩ : Instr), .mxaccLd ⟨al, f, 4⟩, .mxaccSt ⟨al, f, 4⟩, .mxaccFree ⟨al, 0, 4⟩]
    let v := fun (c : Ctx) => (c.group 4 4).map (fun u => u.val.extractLsb' 0 32)
    let good := withRegs [(4, 0), (5, 1024), (6, 2 ^ 16), (7, 0)]
    let bad := withRegs [(4, 0), (5, 1024), (6, 2 ^ 16 + 2 ^ 9), (7, 0)]
    let ops := [0, 1, 2, 3]
    let clr : Instr := .mxstatClr ⟨al, dst 6, .v 3, 0⟩
    let pclr : Instr := .mxstatClr ⟨al, dst 6, .v 10, 0⟩
    (((is 0).zip ops).all (fun x => meets (good x.1) x.1 (fun _ c => !c.th.dem && c.blk.rec_.gsize == 1 &&
        accArgsOk x.2 0 (v c) && (outsideAt (accPlaces x.2 0 (v c) c.blk.alloc)).isNone)) &&
      ((is 0).zip ops).all (fun x => meets (bad x.1) x.1 (fun _ c => !c.th.dem && !accArgsOk x.2 0 (v c))) &&
      (let j : Instr := .mxaccLd ⟨al, 4, 4⟩
      meets (withRegs [(4, 0), (5, 2048), (6, 2 ^ 16), (7, 0)] j) j (fun _ c => accArgsOk 1 4 (v c) && (outsideAt (accPlaces 1 4 (v c) c.blk.alloc)).isNone &&
        decide (c.blk.contract.rpt ≠ 2))) &&
      meets (stageDem clr) clr (fun _ c => c.th.dem) && meets (stage clr) clr (fun s c => !c.th.dem && !(c.src s 0 false (.v 3)).poison) &&
      meets (stage pclr) pclr (fun s c => !c.th.dem && (c.src s 0 false (.v 10)).poison)) = true := by decide

/-! ## What the statements about events assume

Bring-up is complete, tenant 0's virtual function is enabled, and its page tables stand at 0xC0000, 0xD0000 and 0xE0000: page
0x30000 may be read and written, 0x50000 may be read only, 0x40000 holds cells, 0x60000 is not mapped. Its peer entry 0 admits
module 5 with tenant 0. -/

def idle : Instr := .nop ⟨al⟩

def paged : State :=
  let s := (stage idle).modTenant 0 (fun t => { t with
    ptroot := 0xC0000
    migqbase := 0x30000
    peers := 0x0000000500050007 :: t.peers.drop 1 })
  let entry := fun (s : State) (x : Nat × Nat) => ({ s with mem := s.mem.store x.1 (toBytes 8 x.2) false [] } : State)
  [(0xC0000, 0xD * 2 ^ 20 + 1), (0xD0000, 0xE * 2 ^ 20 + 1), (0xE0018, 3 * 2 ^ 20 + 0x17),
    (0xE0020, 4 * 2 ^ 20 + 2 ^ 18 + 0x17), (0xE0028, 5 * 2 ^ 20 + 0x13)].foldl entry { s with
      boot := { s.boot with step := 7 }
      shed := none
      fabric := { s.fabric with ports := List.replicate 16 ⟨0, 0, true, 0xFF⟩ } }

/-- An event that ends in a next state of which a condition holds. -/
def goesTo (i : Instr) (s : State) (p : State → Bool) : Bool :=
  match exec i s with
  | .next t => p t
  | _ => false

/-- Walks find a page, find none, and refuse a permission. -/
theorem test_meets_walks : [
    (match paged.walk 0 0x30008 with
      | .ok l => l.pfn == 3 && l.tier == 0 && l.heatR == 0
      | _ => false),
    decide (paged.walk 0 0x60000 = .invalid), decide (paged.walkFor 0 0x60000 .load = .notValid),
    decide (paged.walkFor 0 0x50000 .store = .perm), decide (paged.walk 1 0x30008 = .format),
    decide (paged.tlbFind 4 0 0x30008 = none)].all id = true := by decide +kernel

/-! ### The module and its host -/

theorem test_meets_module :
    let s := paged
    let spared := { s with boot := { s.boot with remapping := [1] } }
    let alarmed := { s with
      halfNs := 2000000
      power := { s.power with alarm := true, trip := true } }
    let grid := (withNode .running 0 idle).modNode 1 (fun n => { n with live := 1, ecap := 10 })
    let merged := { s with merged := [(5 * 4096, 0, 3)] }
    [s.quadOk 2, decide (s.boot.spareFree = (true, true)), !s.boot.remapping.contains 2, (s.boot.quadMap[1]?).any (·.ok),
      spared.boot.remapping.contains 1, !spared.boot.quadMap.any (fun e => e.pq == 24 && !e.die && e.ok),
      spared.blocks.all (fun b => b.core / 4 != 1), spared.images.isEmpty,
      alarmed.power.alarm, !alarmed.power.condition, decide (alarmed.power.lastCondition + 200000 ≤ alarmed.halfNs),
      alarmed.power.trip, !alarmed.power.stopped, decide (alarmed.power.lastHot + 2000000 ≤ alarmed.halfNs),
      decide ((grid.node 1).st = .running), !(grid.node 1).event, decide ((grid.node 1).energy < 10), (grid.node 1).outcome == 0,
      !(grid.node 1).cnv, (s.block? 0 0).any (fun b => !b.killed),
      merged.merged.find? (fun x => x.1 == 5 * 4096) == some (5 * 4096, 0, 3), decide (merged.halfNs < 2000000),
      (s.merged.find? (fun x => x.1 == 5 * 4096)).isNone].all id = true := by decide +kernel

/-- What the module's own events wait for, and what they find. -/
theorem test_meets_module_events :
    let s := { paged with halfNs := 2000000000 }
    let passing := paged.modEngine 0 (fun e => { e with passing := true })
    let use : Usage := ⟨0, 4, 0, some (1, 0), 3⟩
    let metered : State := { (withNode .running 0 idle).modNode 1 (fun n => { n with ecap := 10 }) with
      halfNs := 20000
      power := { paged.power with used := [use] } }
    let remapped := { paged with boot := { paged.boot with remapping := [1] } }
    let unspared := { paged with boot := { paged.boot with spareFree := (false, true) } }
    let saved := { paged with images := paged.blocks.map (fun b => paged.imageOf b 0 0 false) }
    [decide (s.power.samples < s.halfNs / 2000), decide (s.power.processReads < s.halfNs / 2000000000),
      decide (s.power.updates < s.halfNs / 20000), decide (s.power.interval < s.halfNs / 2000000), s.boot.step == 7,
      passing.engines.any (·.passing), paged.engines.all (fun e => !e.passing),
      sharesOf metered.power.used 0 (4, 20) == [(use, 20)], decide (metered.power.updates < metered.halfNs / 20000),
      decide ((metered.node 1).gen = 0), decide ((metered.node 1).energy + ((metered.node 1).micro + 20) / 1000 < 2 ^ 32),
      paged.blocks.map Block.gang == [(0, 0, 0)], paged.blocks.all (fun b => b.core / 4 == 0 && !b.killed),
      paged.block? 0 0 == paged.blocks.head?, remapped.inRemap 1, remapped.quadOk 1, !paged.inRemap 1, !unspared.boot.spareFree.1,
      unspared.boot.remapping.isEmpty, remapped.blocks.all (fun b => b.core / 4 != 1), (remapped.boot.quadMap[1]?).isSome,
      ([7, 8] : List Nat).all (fun f => f * 65536 / 0xC00000000 == 0),
      (saved.images.find? (fun i => i.rec_.node == 0 && i.rec_.block == 0)).any (fun i => i.rec_.gen == (saved.node 0).gen),
      (withNode .running 0 idle).nodes.any (fun n => decide (n.st ≠ .free))].all id = true := by decide +kernel

/-- The three cases of a module reset: an image verifies, the alternate one does, or none. -/
theorem test_meets_reset (r : BootReport) :
    Config.verifyImage r.main.image r.main.signature = true ∨
    (Config.verifyImage r.main.image r.main.signature = false ∧ Config.verifyImage r.alt.image r.alt.signature = true) ∨
    (Config.verifyImage r.main.image r.main.signature = false ∧ Config.verifyImage r.alt.image r.alt.signature = false) := by
  cases Config.verifyImage r.main.image r.main.signature <;> cases Config.verifyImage r.alt.image r.alt.signature <;> simp

/-- Temperature samples at the boundaries of 95 °C, 105 °C and 115 °C, in quarters of a degree (R26, R27). -/
theorem test_temperature_limits :
    let m := fun (t : Int) => (⟨[t], [], [], 0, 0, [], [], 0⟩ : Sample)
    let paged := { paged with halfNs := 2000 }
    [goesTo (.monitorSample (m 379)) paged (fun t => !t.power.hot && !t.power.trip),
      goesTo (.monitorSample (m 380)) paged (fun t => t.power.hot && !t.power.trip),
      goesTo (.monitorSample (m 420)) paged (fun t => t.power.trip && !t.power.stopped),
      goesTo (.monitorSample (m 460)) paged (fun t => t.power.stopped && t.blocks.isEmpty)].all id = true := by decide +kernel

/-- A launch slot at its reset takes SEQ 1; the record of a slot that has been committed is checked. -/
theorem test_meets_host :
    let s := paged
    let queued := { s with requests := [⟨1, 1, 0, zeroBytes 32⟩] }
    let shutOff := s.modTenant 0 (fun t => { t with vfOn := false })
    let last := fun (seq hi : Nat) => toBytes 8 (seq + hi * 2 ^ 32)
    let word := fun (seq hi : Nat) => dword (toDwords 16 (overwrite ((s.tenant 0).slot 0).bytes 120 (last seq hi))) 15
    let s1 := (s.slotBytes 0 120 (last 1 0)).modSlot 0 0 (fun z => { z with expseq := 2 })
    [(s.tenant 0).vfOn, !(shutOff.tenant 0).vfOn, s.tenants.length == 16, (s.tenant 0).slots.length == 32, inSlot 0 8,
      inSlot 120 8, !inSlot 124 8, BitVec.ofNat 32 (word 1 0) == ((s.tenant 0).slot 0).expseq, word 1 0 / 2 ^ 32 % 2 ^ 32 == 0,
      BitVec.ofNat 32 (word 2 0) != ((s.tenant 0).slot 0).expseq, word 1 7 / 2 ^ 32 % 2 ^ 32 != 0,
      (match s1.checkLaunch 0 (toDwords 15 (zeroBytes 120)) with
        | (t, .error _) => decide ((t.tenant 0).slots = (s1.tenant 0).slots) && t.tenants.length == 16
        | _ => false),
      s.fnOpen 0, s.fnOpen 1, !shutOff.fnOpen 1, !(s.attest 1).busy, queued.requests.length == 1,
      !s.inHostWindow 0 0 16544, (s.vectorsOf 1).length == 64, (s.vectorsOf 0).length == 8,
      s.aperOk 0 .load (aperSpans 0x30000 64), !s.aperOk 0 .store (aperSpans 0x50000 64), !s.aperOk 0 .load (aperSpans 0x60000 64),
      (s.fabric.ports[3]?).any (·.up)].all id = true := by decide +kernel

/-! ### Packets -/

/-- A packet of module 5 with tenant 0 to tenant 0 of this module. -/
def sent (kind : BitVec 8) (cls : BitVec 2) (va : CodeAddr) (opnd opnd2 : DWord) : Packet :=
  ⟨kind, cls, 0, 5, 0, 0, 0, 9, va, opnd, opnd2, 0, 0, noReserved, toBytes 8 7, [], [], none⟩

/-- The hypotheses of `Arrives`. -/
def comesIn (s : State) (port : Nat) (p : Packet) (kind : BitVec 8) (cls : BitVec 2) : Bool :=
  decide (port < 16) && s.takesIn port p && p.kind == kind && p.cls == cls && packetOk p &&
    p.dmod == s.boot.self

theorem comesIn_iff (s : State) (port : Nat) (p : Packet) (kind : BitVec 8) (cls : BitVec 2) :
    comesIn s port p kind cls = true ↔ Arrives s port p kind cls := by
  constructor
  · intro h
    simp only [comesIn, Bool.and_eq_true, decide_eq_true_eq, beq_iff_eq] at h
    obtain ⟨⟨⟨⟨⟨h1, h2⟩, h3⟩, h4⟩, h5⟩, h6⟩ := h
    exact ⟨h1, h2, h3, h4, h5, h6⟩
  · intro h
    simp [comesIn, h.present, h.takes, h.ofKind, h.ofClass, h.form, h.here]

theorem test_meets_requests :
    let s := paged
    let write := sent 0x01 2 0x30000 0 0
    let rd := sent 0x03 2 0x30000 64 0
    let at_ := sent 0x05 2 0x30000 4 0
    let down := { s with fabric := { s.fabric with ports := [] } }
    let seen := { s with fabric := { s.fabric with seen := [packetKey write] } }
    let other := { write with sten := 7 }
    [comesIn s 3 write 0x01 2, comesIn s 3 (sent 0x02 2 0x30000 0 0) 0x02 2, comesIn s 3 rd 0x03 2, comesIn s 3 at_ 0x05 2,
      !down.takesIn 3 write, !comesIn s 3 { write with rsv := { noReserved with w6 := 1 } } 0x01 2, seen.fabric.seen.contains (packetKey write),
      s.peerOk write false true, !s.peerOk other false true, s.peerOk rd true false, s.peerOk at_ true true,
      decide (s.regionOk 0 0x30000 8 .store [0, 1, 2] = .ok), decide (s.regionOk 0 0x60000 8 .store [0, 1, 2] = .hold (some 0x60000)),
      decide (s.regionOk 0 0x50000 8 .store [0, 1, 2] = .refuse 3), decide (s.regionOk 0 0x40000 4 .atom [0, 2] = .refuse 8),
      (match s.walkFor 0 0x30000 .atom with
        | .ok e => decide (e.tier ≤ 1) && !(s.homeRead (.tenant_ 0 0x30000) (e.pa 0x30000) 4).2.2
        | _ => false),
      (match s.walkFor 0 0x30000 .atom, s.mem with
        | .ok e, m => ((({ s with mem := m.store (e.pa 0x30000) (toBytes 4 0) true [] } : State).homeRead (.tenant_ 0 0x30000)
            (e.pa 0x30000) 4).2.2)
        | _, _ => false),
      (atomicOf at_ 0).isSome, (s.took write).fabric.seen.isEmpty, (s.decrement 0 1 false nodeFuel).2 == false,
      ((withNode .armed 2 idle).decrement 0 1 false nodeFuel).2].all id = true := by decide +kernel

/-- A step and a communicator of two ranks: this member is rank 0, module 5 with tenant 0 is rank 1. -/
def comm (st : CommState) : Comm :=
  match (withComm st idle).coll.comms with
  | c :: _ => { c with
      agreed := 1
      btree := true
      deadline := some 0 }
  | [] => ⟨0, 0, mapped 0 0 0 0, 0, 0, 0, 0, 0, 0, false, 0, 0, [], none, ⟨⟨0, 0, 0⟩, 0, 0, 0, .single⟩, .failed, 0, none, [], false,
      false, 0⟩

/-- A step of a kind on two elements of F32 with rank 1 as its peer. -/
def stepWords (kind : Nat) : List DWord :=
  [kind + (if kind ≤ 3 then 2 ^ 16 else 0) + 2 ^ 32 * 3 + 2 ^ 48 * 7, 0, 256, 2, 0, 0, 0, 0].map (BitVec.ofNat 64)

def chainOf (kind : Nat) (ph : StepPhase) : Chain :=
  ⟨0, 0, ⟨⟨0, 0, 0⟩, 0, 0, 0, .single⟩, 0, mapped 0x30000 3 0 0, 0x30000, stepWords kind, true, ph, some 0, 0, false, [], 0, 0, none,
    false, [], 0, 1, 0⟩

/-- The state of that step, with what has come. -/
def stepping (h : Chain) (st : CommState) : State :=
  { paged with coll := { paged.coll with comms := [comm st], chains := [h] } }

def stands (s : State) (kind n : Nat) (ph : StepPhase) (h : Chain) (c : Comm) : Bool :=
  decide (s.chain? n = some h) && h.kind == kind && decide (h.phase = ph) && decide (s.comm? h.comm = some c) &&
    (s.badNote h c).isNone

theorem stands_iff (s : State) (kind n : Nat) (ph : StepPhase) (h : Chain) (c : Comm) :
    stands s kind n ph h c = true ↔ Stands s kind n ph h c := by
  constructor
  · intro g
    simp only [stands, Bool.and_eq_true, decide_eq_true_eq, beq_iff_eq, Option.isNone_iff_eq_none] at g
    obtain ⟨⟨⟨⟨h1, h2⟩, h3⟩, h4⟩, h5⟩ := g
    exact ⟨h1, h2, h3, h4, h5⟩
  · intro g
    simp [stands, g.chain, g.ofKind, g.phase, g.comm, g.good]

/-- The part of a ready packet that names a step. -/
def readyOf (h : Chain) (kind : Nat) : Ready := ⟨3, h.tag, 1, kind, h.opn, h.dtype, h.accCode, h.elems⟩

/-- Acknowledgements, responses, resends, held packets, and the packets of steps and of the pod barrier. -/
theorem test_meets_answers :
    let own : Owner := ⟨⟨0, 0, 0⟩, 0, 0, 0, .single⟩
    let asked := fun (kind : BitVec 8) (acked : Bool) (o : Origin) => (⟨{ sent kind 2 0x30000 0 0 with
      smod := 0
      dmod := 5 }, 0, 8, 0, acked, false, o⟩ : Unacked)
    let waiting := fun (u : Unacked) => { paged with fabric := { paged.fabric with unacked := [u] } }
    let ack := sent 0x40 1 0x30000 0 0
    let answer := sent 0x04 2 0x30000 0 9
    let withHeld := fun (k : BitVec 8) => { paged with fabric := { paged.fabric with held := [⟨sent k 2 0x60000 0 0, some 0⟩] } }
    let up := stepping (chainOf 0 .posted) .up
    let ready := { sent 0x20 1 0x703 0 0 with dten := 0 }
    let data := { sent 0x21 2 0x703 0 0 with dten := 0 }
    let joined := { comm .up with
      joined := true
      passedUp := true
      rank := 1
      ranks := [(5, 0), (0, 0)] }
    [comesIn paged 3 ack 0x40 1, comesIn paged 3 (sent 0x41 1 0x30000 2 0) 0x41 1, comesIn paged 3 answer 0x04 2,
      comesIn paged 3 (sent 0x06 2 0x30000 0 9) 0x06 2, comesIn paged 3 (sent 0x10 2 0 0 0) 0x10 2,
      comesIn paged 3 (sent 0x11 1 0 0 0) 0x11 1, comesIn up 3 ready 0x20 1, comesIn up 3 data 0x21 2,
      comesIn up 3 (sent 0x30 0 3 0 0) 0x30 0, comesIn up 3 (sent 0x31 0 3 0 0) 0x31 0,
      ((waiting (asked 0x03 false (.load own 0))).unacked? ack 9).any (fun u => !u.acked && u.responds),
      ((waiting (asked 0x01 false (.command 0))).unacked? ack 9).any (fun u => !u.acked && !u.responds && u.packet.addr == ack.addr),
      (paged.unacked? ack 9).isNone,
      ((waiting (asked 0x03 true (.load own 0))).unacked? answer (answer.opnd2.extractLsb' 0 32)).any (·.responds),
      ((waiting { asked 0x01 false (.store [own]) with held := true }).unacked? ack 9).any (fun u => u.held && !u.responds),
      (paged.thread? ⟨0, 0, 0⟩).any (fun th => !th.exited && th.trapNext.isNone),
      (waiting { asked 0x10 false (.marker 0) with packet := { (asked 0x10 false (.marker 0)).packet with kind := 0x10 } }).fabric.unacked.any
        (fun u => decide (u.origin = .marker 0) && u.packet.kind == 0x10),
      !paged.gathered { sent 0x01 2 0x30000 0 0 with follows := [(0, 0, 4)] }, paged.gathered (sent 0x01 2 0x30000 0 0),
      up.listens 3 7 true 1, !paged.listens 3 7 true 1,
      ({ paged with fabric := { paged.fabric with held := [⟨sent 0x01 2 0x30000 0 0, none⟩] } } : State).fabric.held.any (fun h => h.deadline.isNone),
      (paged.ownerBlock own).isSome, (asked 0x01 false (.command 0)).deadline ≤ paged.halfNs, 8 ≤ (asked 0x01 false (.command 0)).sends,
      (withHeld 0x01).fabric.held.any (fun h => packetKey h.packet == (5, 0, 0, 9) && h.packet.kind != 0x10 && h.deadline.any (fun d => d ≤ paged.halfNs)),
      (withHeld 0x01).fabric.held.any (fun h => h.packet.smod == 5 && h.packet.path == 0 && h.packet.kind != 0x10),
      (up.commFor ready).isSome, decide ((comm .up).rankOf ready = some 1), up.peerOk ready true false, packetOk ready,
      decide ((comm .up).below = [1]), decide (joined.rankOf ready = some 0), joined.above == 0].all id = true := by decide +kernel

/-! ### Collective steps -/

/-- Every kind of step in every phase in which its event goes on, and a step whose check fails. -/
theorem test_meets_steps :
    let kinds : List Nat := [0, 1, 2, 3, 4, 5, 6]
    let s := fun (k : Nat) (ph : StepPhase) => stepping (chainOf k ph) .up
    let told := fun (k kind : Nat) => { s k .posted with coll := { (s k .posted).coll with ready := [readyOf (chainOf k .posted) kind] } }
    let written := fun (k : Nat) => { s k .written with coll := { (s k .written).coll with notes := [⟨3, 7, 1, (chainOf k .written).paired, 1⟩] } }
    let vals : List (BitVec 128 × Bool) := [(1, false), (2, false), (3, false), (4, false)]
    let got := fun (h : Chain) => { stepping h .up with coll := { (stepping h .up).coll with data := [⟨3, 7, 1, h.paired, 0, 0, vals⟩] } }
    let moved := fun (k : Nat) => { chainOf k .moving with
      acc := vals
      count := 4
      sent := true }
    let twin := { stepping (chainOf 0 .read) .up with coll := { (stepping (chainOf 0 .read) .up).coll with
      chains := [chainOf 0 .read, { chainOf 0 .posted with id := 1 }] } }
    let opposite : Nat → Nat := fun k => if k = 2 then 3 else if k = 3 then 2 else k
    [kinds.all (fun k => (s k .read).stepCheck (chainOf k .read) ((s k .read).ownerAlloc (chainOf k .read).owner) == 0 &&
        !(s k .read).postedTwice (chainOf k .read)),
      (stepping (chainOf 0 .read) .failed).stepCheck (chainOf 0 .read) 8192 == 7,
      (stepping (chainOf 7 .read) .up).stepCheck (chainOf 7 .read) 8192 == 0, twin.postedTwice (chainOf 0 .read),
      kinds.all (fun k => [StepPhase.posted, .matched, .moving, .written].all (fun ph => stands (s k ph) k 0 ph (chainOf k ph) (comm .up))),
      kinds.all (fun k => (told k (opposite k)).readyAll (chainOf k .posted) (comm .up) == some [readyOf (chainOf k .posted) (opposite k)] &&
        (readyOf (chainOf k .posted) (opposite k)).compare (chainOf k .posted) == 0),
      ((s 0 .posted).readyAll (chainOf 0 .posted) (comm .up)).isNone, (readyOf (chainOf 2 .posted) 0).compare (chainOf 2 .posted) == 8,
      kinds.all (fun k => match (s k .matched).regionRead (chainOf k .matched) (0x30000 + (chainOf k .matched).sendOff) ((chainOf k .matched).sendElems 2 * 4) with
        | (_, .ok _ p) => !p
        | _ => false),
      (match (s 0 .matched).regionRead (chainOf 0 .matched) 0x60000 8 with
        | (_, .wait) => true
        | _ => false),
      (match (s 0 .moving).regionWrite (chainOf 0 .moving) 0x50000 (zeroBytes 8) with
        | (_, .fail st) => st == 3
        | _ => false),
      kinds.all (fun k => decide ((chainOf k .moving).round < (chainOf k .moving).rounds (comm .up)) && !(chainOf k .moving).sent),
      kinds.all (fun k => ((got (moved k)).receivedAll (moved k) ((moved k).swaps (comm .up))).isSome &&
        stands (got (moved k)) k 0 .moving (moved k) (comm .up)),
      ((s 0 .moving).receivedAll (chainOf 0 .moving) ((chainOf 0 .moving).swaps (comm .up))).isNone,
      (match (s 0 .moving).regionWrite (chainOf 0 .moving) 0x30100 (zeroBytes 8) with
        | (_, .ok [] false) => true
        | _ => false),
      kinds.all (fun k => (written k).allWritten (chainOf k .written) (comm .up) && stands (written k) k 0 .written (chainOf k .written) (comm .up)),
      !(s 0 .written).allWritten (chainOf 0 .written) (comm .up)].all id = true := by decide +kernel

/-- The pod barrier, the end of a chain's step, and communicators in their set-up. -/
theorem test_meets_chains :
    let bar := { chainOf 7 .posted with released := true }
    let s := fun (h : Chain) => stepping h .up
    let ended := { chainOf 0 .ended with status := 1 }
    let report : SetupReport := ⟨1, (comm .setup).size, (comm .setup).mode, (comm .setup).ceil, (comm .setup).ranks, [0x0301]⟩
    let differs := { report with size := 4 }
    let agree := fun (x : SetupReport) => x.size == (comm .setup).size && x.mode == (comm .setup).mode && x.ceil == (comm .setup).ceil &&
      x.ranks == (comm .setup).ranks
    [(s (chainOf 7 .posted)).fabricSent 0, ((s (chainOf 7 .posted)).ownerBlock (chainOf 7 .posted).owner).all (fun b => paged.sideLogClear b),
      (s bar).fabricClear 0, !(comm .up).joined, !(comm .up).passedUp, (comm .up).rank == 0,
      (comm .up).below.any (fun r => !(comm .up).arrived.contains r), bar.kind == 7,
      (s ended).chain? 0 == some ended, ended.barOff.isNone, ended.next == 0,
      (match (s ended).collPage 0 0x30000 .load with
        | .ok e => (match (s ended).readSpans 0 [] [(0x30000, 64)] with
          | (t, .ok _ p) => !p && decide (t.coll = (s ended).coll) && e.tier == 0
          | _ => false)
        | _ => false),
      (chainOf 0 .reading).deadline == some 0, decide ((s (chainOf 0 .reading)).halfNs = 0), decide ((comm .setup).st = .setup),
      (comm .setup).deadline == some 0, (stepping (chainOf 0 .posted) .setup).comm? 3 == some (comm .setup),
      agree report, !agree differs, (List.range (comm .setup).size).all (fun i => i == (comm .setup).rank || report.rank == i),
      catalogue.any (fun k => k.number == 0x0301 && k.speed != 15), 0x0301 ≤ (comm .setup).ceil].all id = true := by decide +kernel

/-! ### Scheduling and issue -/

/-- A launch of one block of one thread, its node ready or running. -/
def launched : Launched := ⟨0x1000, 0, 0, 1, 1, 3, 1, 1, 1, 0, 32, 0, 0, 0, 0, []⟩

def gridNode (st : NodeState) (next live : Nat) : Node :=
  { paged.node 2 with
    num := 2
    st := st
    nextblk := next
    live := live
    ecap := 1000
    launch := some launched }

def bindable : State := { paged with nodes := [gridNode .ready 0 0] }

/-- A block of that grid on core 4, its thread at the block 0x30000 of code. -/
def gridBlock (f : Block → Block) : State :=
  { paged with
    nodes := [gridNode .running 1 1]
    blocks := [f { stageBlock with
      core := 4
      rec_ := { stageBlock.rec_ with node := 2 } }] }

def endedThread : Thread := { stageThread with status := .exited }

theorem test_meets_scheduling :
    let fresh := gridBlock (fun b => { b with started := false })
    let gone := gridBlock (fun b => { b with threads := [endedThread] })
    let closing := gridBlock (fun b => { b with
      threads := [endedThread]
      closing := true })
    let moving := { gridBlock id with boot := { paged.boot with remapping := [1] } }
    let rolled := { gridBlock (fun b => { b with snap := some { SnapSt.start with point := true } }) with
      boot := { paged.boot with remapping := [1] } }
    let image : List Image := match (gridBlock id).blocks with
      | b :: _ => [(gridBlock id).imageOf b 0 0 false]
      | [] => []
    let saved : State := { bindable with
      nodes := [gridNode .running 1 1]
      blocks := []
      images := image }
    let foreign : State := { saved with images := image.map (fun (i : Image) => { i with lanes := 16 }) }
    let all1 := fun (s : State) (p : Block → Bool) => !s.blocks.isEmpty && s.blocks.all p
    [bindable.binding, (match bindable.nextBind bindable.allWork with
        | some (w, [(m, core)]) => !w.restore && m.image.isNone && (bindable.roomFor launched bindable.blocks core m).isSome
        | _ => false),
      (paged.nextBind paged.allWork).isNone, !stageBlock.killed,
      !(fresh.startable 1 2).isEmpty, all1 gone (fun b => gone.endable b && (gone.partner b).isNone),
      all1 closing (fun b => closing.endable b && b.closing && closing.fabricClear 4),
      all1 moving (fun b => moving.mustGo b && b.started && !b.killed && b.savable && !moving.endable b),
      all1 rolled (fun b => rolled.mustGo b && !b.savable),
      (match saved.nextBind saved.allWork with
        | some (w, _) => w.restore && w.node == 2 && w.first == 0 && (w.members.filterMap Member.image).all (fun i => i.format == 1 && i.lanes == 32)
        | _ => false),
      (match foreign.nextBind foreign.allWork with
        | some (w, _) => w.restore && (w.members.filterMap Member.image).length == 1
        | _ => false)].all id = true := by decide +kernel

theorem test_meets_issue :
    let id0 : ThreadId := ⟨0, 0, 0⟩
    let env : CycleEnv := ⟨[], [], none, []⟩
    let load := fun (reg : Option (Nat × Bool)) (cas : Option (BitVec 2 × Nat)) (await : Option Await) =>
      (⟨reg, none, .i32, ⟨7, false⟩, cas, await, false, false⟩ : LoadRec)
    let flying := fun (l : LoadRec) => paged.modThread id0 (fun th => { th with loads := [l] })
    let yields := paged.modThread id0 (fun th => { th with status := .yield })
    let away := paged.modThread id0 (fun th => { th with pc := 0x30004 })
    let spilled := paged.modThread id0 (fun th => { th with spills := [⟨3, 0⟩] })
    let noBacking := { spilled with cores := [] }
    let s1 := (paged.environment 0 env).passControl 0
    let cs := s1.candidates 0 0
    [!s1.power.stopped, s1.shed.isNone, decide ((lookupNat (0, 0) (s1.core 0).busy 0).2 ≤ s1.cycle),
      (match heddle cs with
        | w :: ws => decide (((s1.age cs (w :: ws)).admitAll ((w :: ws).map (fun c => c.blk.idOf c.th.tid))).2 = [id0])
        | [] => false),
      (heddle (paged.candidates 0 5)).isEmpty, decide ((lookupNat (0, 0) (paged.core 0).busy 0).2 ≤ paged.cycle),
      ((flying (load (some (3, false)) none none)).thread? id0).any (fun th => th.loads.all (fun l => l.await.isNone && l.reg.isSome && !l.acq)),
      ((flying (load none (some (1, 7)) none)).thread? id0).any (fun th => th.loads.all (fun l => l.cas.isSome && l.reg.isNone)),
      ((flying (load (some (3, false)) none (some .replay))).thread? id0).any (fun th => th.loads.all (fun l => l.await.isSome)),
      (yields.thread? id0).any (fun th => decide (th.status = .yield)), (paged.thread? id0).any (fun th => decide (th.status ≠ .yield)),
      (away.thread? id0).any (fun th => decide (th.status = .run) && th.trapNext.isNone),
      (away.ibufFind id0 0 0x30000).isNone, (match away.reach id0 0 0x30000 0x30004 false false with
        | (_, .trap n _) => n == 0x03
        | _ => false),
      (match (({ away with
        mem := away.mem.store 0xE0018 (toBytes 8 (3 * 2 ^ 20 + 0x13)) false [] } : State).modCore 0 (fun c =>
        { c with tlb := [] })).reach id0 0 0x30000 0x30004 false false with
        | (_, .trap n _) => n == 0x0C
        | _ => false),
      (match (away.modThread id0 (fun th => { th with pc := 0x60004 })).reach id0 0 0x90000 0x90004 false false with
        | (_, .hold) => true
        | _ => false),
      (match spilled.fillGranule id0 3 with
        | (_, .ready) => true
        | _ => false),
      (match noBacking.fillGranule id0 3 with
        | (_, .hold _) => true
        | _ => false)].all id = true := by decide +kernel

/-! ### Engines, paging and recovery -/

/-- Hypotheses of the clauses of `PhasesAndFences` about lines: a line with dirty bytes below the TIER 2 space, another core's, and an
access inside a line. A store of core 0, its release and an acquire of core 4 pass the byte on (R224, R228, R234). -/
theorem test_meets_lines :
    let e := mapped 0x30000 3 0 0
    let w : Reader := .tenant_ 0 0x30004
    let s := (paged.l1Load w 4 e 0x30004 1 0).1.l1Store 0 e 0x30004 0 [9] false []
    let read := fun (s : State) => (s.l1Load w 4 e 0x30004 1 0).2.1
    let mine := s.l1.filter (fun l => l.core == 0)
    [mine.length == 1, decide ((mine.map (·.line)).Nodup), mine.all (fun l => decide (128 * l.line + 128 ≤ Config.tier2Base) && l.dirty.getLsbD 4),
      s.l1.all (fun l => l.data.length == 128), s.latent.isEmpty, e.tier == 0, e.pa 0x30004 % 128 + 1 ≤ 128,
      read s == [0], read (s.writeBackAll 0) == [0], read ((s.writeBackAll 0).acquire 4) == [9], read (s.acquire 4) == [0]].all id = true := by
  decide +kernel

theorem test_meets_paging :
    let held := fun (va : Nat) => paged.modThread ⟨0, 0, 0⟩ (fun th => { th with status := .fault va false })
    let entry := fun (line op : Nat) => (⟨line, op, 4, 0, .dev, 0, 0, 15, zeroBytes 128, 0, 0, 0x1004⟩ : SideEntry)
    let logged := fun (line op : Nat) => paged.modCore 0 (fun c => { c with sideLog := [entry line op] })
    let found := fun (line op : Nat) => ((logged line op).xlat 0 0 (line * 128) (entry line op).acc).2
    let ws := fun (op page count new : Nat) => [op, page * 65536, count, new, 0, 0, 0, 0].map (BitVec.ofNat 64)
    let queue := fun (cmd : List DWord) (s : State) =>
      ({ s with mem := (s.mem.store 0x30018 (toBytes 8 1) false []).store 0x38000 (cmd.flatMap (fun w => toBytes 8 w.toNat)) false [] } : State)
    let polled := fun (cmd : List DWord) => queue cmd paged
    let busy := paged.modTenant 0 (fun t => { t with service := some (0, ws 1 3 1 0) })
    let farQueue : State := { paged with
      halfNs := 2000
      mem := paged.mem.store 0xE0018 (toBytes 8 (5 * 2 ^ 20 + 0x97)) false [] }
    let told := farQueue.modTenant 0 (fun t => { t with ending := some (ws 1 3 1 0, 1) })
    [(held 0x30000).blocks.all (fun b => b.threads.all (fun th => decide (th.status = .fault 0x30000 false))),
      decide ((held 0x30000).walkFor 0 0x30000 .load ≠ .notValid), decide ((held 0x60000).walkFor 0 0x60000 .load = .notValid),
      (paged.core 0).sideLog.isEmpty, (match found 0x600 1 with
        | .ok e => decide (e.kind ≤ 2)
        | _ => false),
      (match found 0x1200 1 with
        | .ok _ => false
        | x => decide (x = .notValid)),
      (match ((logged 0xA00 2).xlat 4 0 0x50000 .red).2 with
        | .perm => true
        | _ => false),
      (match paged.walk 0 0x30000 with
        | .ok l => l.tier == 0 && !l.mq
        | _ => false),
      (paged.tenant 0).enable, (paged.tenant 0).service.isNone, (paged.queuePage 0).any (fun e => e.tier == 0), paged.mem.nat 0x30010 8 % 256 == 0,
      cmdFieldsOk (ws 1 3 1 0), cmdFieldsOk (ws 2 3 1 6), cmdFieldsOk (ws 3 3 1 (9 * 2 ^ 20)), !cmdFieldsOk (ws 4 3 1 0), !cmdFieldsOk (ws 1 3 0 0),
      [ws 1 3 1 0, ws 2 3 1 6, ws 4 3 1 0].all (fun c => (polled c).mem.nat 0x30018 8 == 1 &&
        decide (toDwords 8 ((polled c).mem.read 0x38000 64) = c) && ((polled c).queuePage 0).isSome),
      (match paged.rangeLeaves 0 3 1 with
        | [l] => leafWhole 3 1 l
        | _ => false),
      !leafWhole 3 1 ⟨3, 0xE0018, true, 0x37⟩, paged.latent.isEmpty, (farQueue.queuePage 0).any (fun e => e.tier == 2),
      decide (lineRead (farQueue.tenant 0).serving.lines 0x30010 16 = .unasked), decide ((farQueue.tenant 0).polled < farQueue.halfNs / 2000),
      (told.tenant 0).ending.isSome, [1, 2, 3].all (fun op => cmdOp (ws op 3 1 0) == op), (busy.tenant 0).service == some (0, ws 1 3 1 0)].all id = true := by decide +kernel

/-- Copy commands and fabric commands in their phases. -/
theorem test_meets_commands :
    let own : Owner := ⟨⟨0, 0, 0⟩, 0, 0, 0, .single⟩
    let rcd := fun (base extent space : Nat) => (⟨BitVec.ofNat 64 base, BitVec.ofNat 64 extent, BitVec.ofNat 64 (space * 2 ^ 12 + 768), 0⟩ : RecWords)
    let copy : CopyCmd := ⟨0, 0, 0x1004, rcd 0 8192 1, rcd 0x30000 65536 0, [0, 0, 64], ⟨none, none⟩, 0, 0, false, [], 0, false⟩
    let copying := fun (k : CopyCmd) => { stageBlock with copies := [k] }
    let tally := fun (k : CopyCmd) => (⟨paged, [], [], false, none⟩ : Tally).all (copying k) k (paged.copyItems (copying k) k)
    let bad := { copy with
      form := 1
      src := rcd 0x30000 (32 + 64 * 2 ^ 40) 0
      args := [0, 0, 1] }
    let cmd : FabCmd := ⟨0, 0, 0, own, 0x1004, List.replicate 8 0, none, false, 0, none, none, false, [], [], [], false, false⟩
    let flying := fun (k : FabCmd) => { paged with fabric := { paged.fabric with cmds := [k] } }
    let final := { cmd with
      started := true
      final := some (sent 0x02 2 0x30000 0 0) }
    [(copying copy).copies[0]? == some copy, !stageBlock.killed, copy.remote.isEmpty && copy.done.bar.isNone && copy.done.flag.isNone,
      decide ((tally copy).2 = .whole), (tally copy).1.asks.isEmpty,
      decide (((tally copy).1.s.putAll (copying copy) ⟨0, 0, (copying copy).grid, .copy own 0⟩ none (groupGranules (tally copy).1.got.reverse)).2 = (0, false)),
      (match (tally bad).2 with
        | .fail f => f.kind == 9
        | _ => false),
      (flying cmd).cmd? 0 == some cmd, (flying cmd).markersDone cmd, !cmd.started, cmd.waiting == 0, cmd.fail.isNone,
      final.started && final.final.isSome, ((flying cmd).ownerBlock own).isSome, cmd.barOff.isNone].all id = true := by decide +kernel

/-- The worked example of R424: the four words of a `CPYT.G2S.BAR`. -/
theorem test_copy_form :
    let g : RecWords := ⟨0x2000000000, 1048576 + 1024 * 2 ^ 40, 0x100, 0⟩
    let s : RecWords := ⟨0x8000, 65536, 0x1300, 0⟩
    (⟨2, 0, 0x1004, g, s, [10, 256, 0x400, 0x40080, 0x10002, 0], ⟨some 0x100, none⟩, 0x100, 0, false, [], 0, false⟩ : CopyCmd).words 98304 =
      [0x1000002000002900, 0x0840000000008400, 0x0020040080000400, 0x0080000000000010] := by decide +kernel

/-- A posted operation, a bank of its gang, and the operation running. -/
def mxEntry (req : MxReq) : MxEntry := ⟨0, (0, 0, 0), 0, 0, 0, 0x1004, 0, req, 0, false, 0, false, 0, []⟩
def mxOp : MxReq := .op ((mxBlock false).map (BitVec.ofNat 64)) none

def withEngine (f : Engine → Engine) : State :=
  paged.modEngine 0 (fun e => f { e with banks := ⟨some (0, 0, 0), 0, false, []⟩ :: e.banks.drop 1 })

theorem test_meets_matrix :
    let posted := withEngine (fun e => { e with table := [mxEntry mxOp] })
    let passing := withEngine (fun e => { e with
      running := some (mxEntry mxOp)
      passing := true })
    let timed := withEngine (fun e => { e with
      running := some (mxEntry mxOp)
      due := 24 })
    let begun := ({ timed with cycle := 24 } : State).startPass 0
    let done := { mxEntry mxOp with nextPass := 1 }
    let ended := withEngine (fun e => { e with running := some done })
    let acc := fun (o : Nat) => withEngine (fun e => { e with running := some (mxEntry (.acc o 0 [0, 1024, 2 ^ 16, 0])) })
    let p := MxParams.of ((mxBlock false).map (BitVec.ofNat 64))
    [(posted.engine 0).running.isNone, ((posted.engine 0).heldPosts.filter (posted.eligible (posted.engine 0))) == [mxEntry mxOp],
      ((posted.engine 0).bank? (0, 0, 0) mxOp.bank).isSome, (paged.engine 0).heldPosts.isEmpty,
      (((passing.startPass 0).engine 0).running).isSome, ((passing.startPass 0).engine 0).passing,
      timed.startPass 0 == timed, (begun.engine 0).passing, decide (24 < (begun.engine 0).due),
      (begun.engine 0).due == 24 + begun.passCycles (mxEntry mxOp) false,
      ((ended.engine 0).running).isSome, decide (mxOp.passes ≤ done.nextPass), mxOp.passes == 1, (ended.entryBlock done).isSome,
      ((ended.engine 0).bank? (0, 0, 0) p.bank).isSome, p.wfmt == 0, !p.amaxv, p.done.isNone,
      (match ended.writePages stageBlock 0 (p.writes none stageBlock.alloc ⟨none, 0, false, []⟩) with
        | (_, .all) => true
        | _ => false),
      [0, 1, 2, 3].all (fun o => ((acc o).engine 0).running.isSome && ((acc o).entryBlock (mxEntry mxOp)).isSome),
      !(AccArgs.of [0, 1024, 2 ^ 16, 0]).barv].all id = true := by decide +kernel

/-- The worked operation: 24 + 64 + 64 + 64 cycles under Saffron; under Clove, whose SPEED is 1, a pass takes 128 (R451 and 'A worked operation'
of spec/14_isa_matrix.md). -/
theorem test_matrix_cycles :
    let op : MxReq := .op ([1 + 64 * 2 ^ 32 + 128 * 2 ^ 48 + 2 ^ 20, 256, 64 + 256 * 2 ^ 32, 0, 0, 0, 0, 0].map (BitVec.ofNat 64)) none
    let under := fun (n : Nat) => ({ paged with blocks := [{ stageBlock with rec_ := { stageBlock.rec_ with contract := n } }] } : State)
    [op.setUp == 24, op.writeOut == 64, op.passes == 2, (under 0x0301).passCycles (mxEntry op) false == 64,
      (under 0x0301).passCycles (mxEntry op) true == 128, (under 0x0101).passCycles (mxEntry op) false == 128].all id = true := by
  decide +kernel

theorem test_meets_recovery :
    let at_ := fun (f : SnapSt → SnapSt) (g : Block → Block) => ({ paged with blocks := [g { stageBlock with snap := some (f SnapSt.start) }] } : State)
    let one := fun (s : State) (p : Block → Bool) => (s.block? 0 0).any p
    let point := at_ (fun x => { x with point := true }) id
    let first := fun (b : Block) => { b with verify := .primary }
    let second := fun (b : Block) => { b with
      core := 4
      verify := .secondary
      threads := b.threads.map (fun th => { th with crc := 1 }) }
    let pair := { point with blocks := point.blocks.map first ++ point.blocks.map second }
    let rolling := at_ (fun x => { x with rolling := true }) id
    let waits := at_ id (fun b => { b with
      verify := .primary
      threads := [{ stageThread with wait := some (.verify 0) }] })
    [one point (fun b => point.pointReady b && (point.partner b).isNone && decide (b.verify = .single)),
      one paged (fun b => !paged.pointReady b),
      one pair (fun b => pair.pointReady b && (pair.partner b).any (fun x => pair.pointReady x && (crcDiffers b x).isSome)),
      one rolling (fun b => b.copies.isEmpty && !rolling.commandsOf b.rec_.node b.rec_.gen b.rec_.block &&
        b.snap.any (fun sn => sn.rolling && sn.log.isEmpty && sn.a.isNone && sn.b.isNone) && !rolling.damaged b (rolling.rbAddr b 0x1000) 0),
      one paged (fun b => b.snap.isNone), (waits.thread? ⟨0, 0, 0⟩).any (fun th => decide (th.wait = some (.verify 0))),
      one waits (fun b => decide (b.verify = .primary) && decide (0 ≤ waits.halfNs))].all id = true := by decide +kernel

end Sys2Proof.Tests
end

section
/-! SUPPORT. What the integer, logic and bit instructions leave: an operand's range, the word of a list of bits, and one rule that turns
a computed result with its flags into the write that the statements speak of (R339, R342). -/

namespace Sys2Proof.Machine

/-! ## Bits of numbers -/

theorem bitOf_eq_testBit (x i : Nat) : bitOf x i = x.testBit i := by
  rw [Nat.testBit_eq_decide_div_mod_eq]
  rfl

theorem bitOf_toNat {n : Nat} (x : BitVec n) (i : Nat) : bitOf x.toNat i = x.getLsbD i := bitOf_eq_testBit _ _

theorem b2n_eq_toNat (b : Bool) : b2n b = b.toNat := by cases b <;> rfl

/-- A number below `2 ^ w` has no bit at `w` or above. -/
theorem testBit_beyond {x w i : Nat} (hx : x < 2 ^ w) (hi : w ≤ i) : x.testBit i = false :=
  Nat.testBit_lt_two_pow (Nat.lt_of_lt_of_le hx (Nat.pow_le_pow_right (by decide) hi))

theorem bitsFrom_lt (f : Nat → Bool) (n : Nat) : bitsFrom f n < 2 ^ n := by
  induction n with
  | zero => simp [bitsFrom]
  | succ n ih =>
    unfold bitsFrom b2n
    split <;> omega

theorem testBit_bitsFrom (f : Nat → Bool) (n i : Nat) : (bitsFrom f n).testBit i = (decide (i < n) && f i) := by
  induction n with
  | zero => simp [bitsFrom]
  | succ n ih =>
    have hb : bitsFrom f (n + 1) = 2 ^ n * (f n).toNat + bitsFrom f n := by
      rw [bitsFrom, b2n_eq_toNat, Nat.mul_comm, Nat.add_comm]
    rw [hb, Nat.testBit_two_pow_mul_add _ (bitsFrom_lt f n), ih]
    rcases Nat.lt_trichotomy i n with h | h | h
    · simp [h, Nat.lt_succ_of_lt h]
    · subst h
      cases f i <;> simp
    · have hz : (f n).toNat.testBit (i - n) = false :=
        testBit_beyond (w := 1) (Bool.toNat_lt (f n)) (Nat.sub_pos_of_lt h)
      rw [if_neg (by omega), hz, decide_eq_false (by omega), Bool.false_and]

/-- The word whose bit `i` below `w` is `f i`. -/
def bitsWord (w : Nat) (f : Nat → Bool) : DWord := BitVec.ofNat 64 (bitsFrom f w)

theorem tyWidth_le (t : Ty) : tyWidth t ≤ 64 := by unfold tyWidth; split <;> omega

theorem bitsWord_toNat {w : Nat} (hw : w ≤ 64) (f : Nat → Bool) : (bitsWord w f).toNat = bitsFrom f w :=
  Nat.mod_eq_of_lt (Nat.lt_of_lt_of_le (bitsFrom_lt f w) (Nat.pow_le_pow_right (by decide) hw))

theorem isBits_bitsWord {w : Nat} (hw : w ≤ 64) (f : Nat → Bool) : IsBits w f (bitsWord w f) := by
  intro i
  rw [BitVec.getLsbD, bitsWord_toNat hw, testBit_bitsFrom]

/-! ## Flags of a word -/

/-- N and Z of a result as the model and as the statements read them. -/
theorem nzFlags_toNat (wide : Bool) (r : DWord) (c v : Bool) :
    nzFlags (if wide then 64 else 32) r.toNat c v = flagsOf wide r c v := by
  have hz : (r.toNat == 0) = (r == 0) := by
    rw [Bool.eq_iff_iff, beq_iff_eq, beq_iff_eq, ← BitVec.toNat_inj]; rfl
  cases wide <;> simp [nzFlags, flagsOf, bitOf_toNat, hz]

/-! ## Operands -/

/-- An operand read at 32 bits lies below `2 ^ 32` (R339). -/
theorem Ctx.src_lt (c : Ctx) (s : State) (imm : Word) (wide : Bool) (x : Src) :
    (c.src s imm wide x).val.toNat < 2 ^ (if wide then 64 else 32) := by
  cases wide
  case true => exact BitVec.isLt _
  case false =>
    have cut : ∀ n : Nat, (BitVec.ofNat 64 (n % 2 ^ 32)).toNat < 2 ^ 32 := by
      intro n; rw [BitVec.toNat_ofNat]; omega
    cases x with
    | v r =>
      have := (c.th.reg (c.th.fbase + r.toNat)).val.isLt
      simp only [Ctx.src, Bool.false_eq_true, if_false, BitVec.zeroExtend_eq_setWidth, BitVec.toNat_setWidth]
      omega
    | s r => exact cut _
    | b l => exact cut _
    | sp k => exact cut _

/-- The second operand of a form that may read it at 32 bits. -/
theorem Ctx.src_lt_second (c : Ctx) (s : State) (imm : Word) (t : Ty) (b32 : Bool) (x : Src) :
    (c.src s imm (t.wide && !b32) x).val.toNat < 2 ^ (if b32 then 32 else tyWidth t) := by
  have h := c.src_lt s imm (t.wide && !b32) x
  cases b32
  case true => rwa [Bool.not_true, Bool.and_false] at h ⊢
  case false => rwa [Bool.not_false, Bool.and_true] at h ⊢

/-! ## Writes of a computed result -/

section
variable {s : State} {sh : Shed} {u : Use} {c : Ctx} {d : Dst} {wide poison cf vf : Bool} {m : Nat × Flags} {r : DWord}

/-- A lane that ends with a result leaves that result. -/
theorem result_wrote (h : Begins s sh u c) (hm : m = (r.toNat, flagsOf wide r cf vf)) :
    Wrote s (s.ends sh u c (c.result (s.begun sh u c) d wide poison m)) sh u c d wide ⟨r, poison⟩
      (some (flagsOf wide r cf vf)) 0 := by
  have hw := wrote h d wide ⟨r, poison⟩ (some (flagsOf wide r cf vf)) 0
  subst hm
  simpa only [State.raiseFP, if_true, Ctx.result, BitVec.ofNat_toNat, BitVec.setWidth_eq] using hw

end

/-- An instruction whose lane ends with the result `m` of its sources writes the word `r` with these flags. -/
theorem writesInt_of {i : Instr} {body : State → Ctx → LaneOut} {d : Dst} {wide : Bool} {sources : State → Ctx → List UVal}
    {r : State → Ctx → DWord} {cf vf : State → Ctx → Bool} (m : State → Ctx → Nat × Flags)
    (he : ∀ s, exec i s = instr i body s)
    (hb : ∀ s sh u c, body (s.begun sh u c) c = c.result (s.begun sh u c) d wide (anyPoison (sources s c)) (m s c))
    (hm : ∀ s c, m s c = ((r s c).toNat, flagsOf wide (r s c) (cf s c) (vf s c))) :
    WritesInt i d wide sources r cf vf := by
  intro s sh u c hu h
  refine ⟨_, (he s).trans (instr_solo hu h body), ?_⟩
  rw [hb]
  exact result_wrote h.toBegins (hm s c)

theorem alu1Writes_of {mk : Alu1 → Instr} {d32 : Bool} {r : Alu1 → DWord → DWord} {vf : Alu1 → DWord → Bool}
    {m : Alu1 → Nat → Nat × Flags} (he : ∀ p s, exec (mk p) s = instr (mk p) (alu1 p d32 (m p)) s)
    (hm : ∀ p, (mk p).wf = true → ∀ a : DWord, a.toNat < 2 ^ tyWidth p.ty →
      m p a.toNat = ((r p a).toNat, flagsOf (p.ty.wide && !d32) (r p a) false (vf p a))) :
    Alu1Writes mk d32 r vf := by
  intro p hp
  refine writesInt_of (fun s c => m p (c.src s p.imm p.ty.wide p.a).nat) (he p) (fun s sh u c => ?_)
    (fun s c => hm p hp _ (Ctx.src_lt ..))
  simp only [alu1, src_begun, anyPoison, List.any_cons, List.any_nil, Bool.or_false]

theorem alu2Writes_of {mk : Alu2 → Instr} {b32 : Bool} {r : Alu2 → DWord → DWord → DWord}
    {cf vf : Alu2 → DWord → DWord → Bool} {m : Alu2 → Nat → Nat → Nat × Flags}
    (he : ∀ p s, exec (mk p) s = instr (mk p) (alu2 p b32 (m p)) s)
    (hm : ∀ p, (mk p).wf = true → ∀ a b : DWord, a.toNat < 2 ^ tyWidth p.ty →
      b.toNat < 2 ^ (if b32 then 32 else tyWidth p.ty) →
      m p a.toNat b.toNat = ((r p a b).toNat, flagsOf p.ty.wide (r p a b) (cf p a b) (vf p a b))) :
    Alu2Writes mk b32 r cf vf := by
  intro p hp
  refine writesInt_of
    (fun s c => m p (c.src s p.imm p.ty.wide p.a).nat (c.src s p.imm (p.ty.wide && !b32) p.b).nat) (he p)
    (fun s sh u c => ?_) (fun s c => hm p hp _ _ (Ctx.src_lt ..) (Ctx.src_lt_second ..))
  simp only [alu2, src_begun, anyPoison, List.any_cons, List.any_nil, Bool.or_false]

theorem alu3Writes_of {mk : Alu3 → Instr} {dw aw bw qw : Ty → Bool} {r : Alu3 → DWord → DWord → DWord → DWord}
    {cf vf : Alu3 → DWord → DWord → DWord → Bool} {m : Alu3 → Nat → Nat → Nat → Nat × Flags}
    (he : ∀ p s, exec (mk p) s = instr (mk p) (alu3 p (dw p.ty) (aw p.ty) (bw p.ty) (qw p.ty) (m p)) s)
    (hm : ∀ p, (mk p).wf = true → ∀ a b q : DWord, a.toNat < 2 ^ (if aw p.ty then 64 else 32) →
      b.toNat < 2 ^ (if bw p.ty then 64 else 32) → q.toNat < 2 ^ (if qw p.ty then 64 else 32) →
      m p a.toNat b.toNat q.toNat
        = ((r p a b q).toNat, flagsOf (dw p.ty) (r p a b q) (cf p a b q) (vf p a b q))) :
    Alu3Writes mk dw aw bw qw r cf vf := by
  intro p hp
  refine writesInt_of
    (fun s c => m p (c.src s 0 (aw p.ty) p.a).nat (c.src s 0 (bw p.ty) p.b).nat (c.src s 0 (qw p.ty) p.c).nat) (he p)
    (fun s sh u c => ?_) (fun s c => hm p hp _ _ _ (Ctx.src_lt ..) (Ctx.src_lt ..) (Ctx.src_lt ..))
  simp only [alu3, src_begun, anyPoison, List.any_cons, List.any_nil, Bool.or_false, Bool.or_assoc]

/-! ## Results given bit by bit -/

/-- A computed result of `w` bits has the bits `f`, with flag C as given and V clear. -/
structure BitResult (w : Nat) (m : Nat × Flags) (f : Nat → Bool) (c : Bool) : Prop where
  bits : ∀ i, m.1.testBit i = (decide (i < w) && f i)
  flags : m.2 = nzFlags w m.1 c false

theorem BitResult.eq {t : Ty} {m : Nat × Flags} {f : Nat → Bool} {c : Bool} (h : BitResult (tyWidth t) m f c) :
    m = ((bitsWord (tyWidth t) f).toNat, flagsOf t.wide (bitsWord (tyWidth t) f) c false) := by
  have hr : m.1 = (bitsWord (tyWidth t) f).toNat := Nat.eq_of_testBit_eq fun i => by
    rw [h.bits, bitsWord_toNat (tyWidth_le t), testBit_bitsFrom]
  have hf : m.2 = flagsOf t.wide (bitsWord (tyWidth t) f) c false := by
    rw [h.flags, hr]
    exact nzFlags_toNat t.wide _ c false
  exact Prod.ext hr hf

/-- A result below `2 ^ w` with C and V clear. -/
theorem BitResult.plain {w x : Nat} {f : Nat → Bool} (hx : x < 2 ^ w) (h : ∀ i < w, x.testBit i = f i) :
    BitResult w (plainR w x) f false where
  bits i := by
    by_cases hi : i < w
    · rw [decide_eq_true hi, Bool.true_and]
      exact h i hi
    · rw [decide_eq_false hi, Bool.false_and]
      exact testBit_beyond hx (Nat.not_lt.1 hi)
  flags := rfl

/-- A result that the model builds from its bits. -/
theorem BitResult.ofBits {w : Nat} {f g : Nat → Bool} (h : ∀ i < w, g i = f i) : BitResult w (plainR w (bitsFrom g w)) f false :=
  .plain (bitsFrom_lt g w) fun i hi => by rw [testBit_bitsFrom, h i hi, decide_eq_true hi, Bool.true_and]

theorem alu2Bits_of {mk : Alu2 → Instr} {b32 : Bool} {f : Alu2 → DWord → DWord → Nat → Bool}
    {cf : Alu2 → DWord → DWord → Bool} {m : Alu2 → Nat → Nat → Nat × Flags}
    (he : ∀ p s, exec (mk p) s = instr (mk p) (alu2 p b32 (m p)) s)
    (hm : ∀ p, (mk p).wf = true → ∀ a b : DWord, a.toNat < 2 ^ tyWidth p.ty →
      b.toNat < 2 ^ (if b32 then 32 else tyWidth p.ty) →
      BitResult (tyWidth p.ty) (m p a.toNat b.toNat) (f p a b) (cf p a b)) :
    Alu2Bits mk b32 f cf :=
  ⟨fun p a b => bitsWord (tyWidth p.ty) (f p a b), fun p _ _ => isBits_bitsWord (tyWidth_le p.ty) _,
    alu2Writes_of he fun p hp a b ha hb => (hm p hp a b ha hb).eq⟩

theorem alu3Bits_of {mk : Alu3 → Instr} {bw qw : Ty → Bool} {f : Alu3 → DWord → DWord → DWord → Nat → Bool}
    {m : Alu3 → Nat → Nat → Nat → Nat × Flags}
    (he : ∀ p s, exec (mk p) s = instr (mk p) (alu3 p p.ty.wide p.ty.wide (bw p.ty) (qw p.ty) (m p)) s)
    (hm : ∀ p, (mk p).wf = true → ∀ a b q : DWord, a.toNat < 2 ^ tyWidth p.ty →
      b.toNat < 2 ^ (if bw p.ty then 64 else 32) →
      BitResult (tyWidth p.ty) (m p a.toNat b.toNat q.toNat) (f p a b q) false) :
    Alu3Bits mk bw qw f :=
  ⟨fun p a b q => bitsWord (tyWidth p.ty) (f p a b q), fun p _ _ _ => isBits_bitsWord (tyWidth_le p.ty) _,
    alu3Writes_of he fun p hp a b q ha hb _ => (hm p hp a b q ha hb).eq⟩

end Sys2Proof.Machine
end

section
/-! SUPPORT. Exact integers: the model's cuts, clamps and readings of an operand are those of R339 and R342. -/

namespace Sys2Proof.Machine

/-! ## Words as integers -/

theorem signedOf_eq_toInt (n x : Nat) : signedOf n x = (BitVec.ofNat n x).toInt := by
  rw [BitVec.toInt_eq_toNat_cond, BitVec.toNat_ofNat]
  rfl

theorem lowBits_eq_toNat (n : Nat) (x : Int) : lowBits n x = (BitVec.ofInt n x).toNat := (BitVec.toNat_ofInt x).symm

theorem natCast_lowBits (n : Nat) (x : Int) : (lowBits n x : Int) = x % 2 ^ n := by
  have hn : (0 : Int) < 2 ^ n := Int.pow_pos (by decide)
  rw [lowBits, Int.natCast_pow, Int.cast_ofNat_Int, Int.toNat_of_nonneg (Int.emod_nonneg x (Int.ne_of_gt hn))]

/-- The high half of a product, cut to its own width (R357). -/
theorem lowBits_div (w : Nat) (e : Int) : lowBits (2 * w) e / 2 ^ w = lowBits w (e / 2 ^ w) := by
  have hm : (0 : Int) < 2 ^ w := Int.pow_pos (by decide)
  rw [← Int.natCast_inj, Int.natCast_ediv, natCast_lowBits, natCast_lowBits, Int.natCast_pow, Int.cast_ofNat_Int, Nat.two_mul,
    Int.pow_add, Int.emod_def, Int.mul_assoc, Int.sub_mul_ediv_left _ _ (Int.ne_of_gt hm),
    ← Int.ediv_ediv_of_nonneg (Int.le_of_lt hm), ← Int.emod_def]

/-! ## Integer types -/

section
variable {t : Ty} (ht : t ∈ intTys)
include ht

theorem tySigned_eq : tySigned t = decide (t = .i32 ∨ t = .i64) := by revert t; decide

theorem tyLo_eq_leastOf : tyLo t = leastOf t := by revert t; decide

theorem tyHi_eq_greatestOf : tyHi t = greatestOf t := by revert t; decide

theorem leastOf_le_greatestOf : leastOf t ≤ greatestOf t := by revert t; decide

/-- `ext` reads an operand of the type's width as its value (R342). -/
theorem ext_toNat {a : DWord} (ha : a.toNat < 2 ^ tyWidth t) : ext t a.toNat = valueOf t a := by
  simp only [intTys, List.mem_cons, List.not_mem_nil, or_false] at ht
  rcases ht with rfl | rfl | rfl | rfl
  · exact (signedOf_eq_toInt 32 a.toNat).trans (by rw [low_half]; rfl)
  · exact (signedOf_eq_toInt 64 a.toNat).trans (by rw [BitVec.ofNat_toNat, BitVec.setWidth_eq]; rfl)
  · have : (a.extractLsb' 0 32).toNat = a.toNat := by rw [← low_half]; exact Nat.mod_eq_of_lt ha
    exact congrArg Int.ofNat this.symm
  · rfl

end

/-! ## Cut and clamped results -/

theorem clampInt_eq {lo hi : Int} (h : lo ≤ hi) (e : Int) : clampInt e lo hi = max lo (min e hi) := by
  unfold clampInt
  split
  · omega
  · split <;> omega

theorem cutTo_toNat (t : Ty) (sat : Bool) (e : Int) :
    (cutTo t sat e).toNat = lowBits (tyWidth t) (if sat then max (leastOf t) (min e (greatestOf t)) else e) := by
  rw [lowBits_eq_toNat]
  unfold cutTo tyWidth
  cases t.wide
  · simp only [Bool.false_eq_true, if_false, BitVec.zeroExtend_eq_setWidth, BitVec.toNat_setWidth]
    exact Nat.mod_eq_of_lt (Nat.lt_trans (BitVec.isLt _) (by decide))
  · rfl

theorem satOr_eq_cutTo {t : Ty} (ht : t ∈ intTys) (sat : Bool) (e : Int) : satOr t sat e = (cutTo t sat e).toNat := by
  rw [cutTo_toNat, satOr, tyLo_eq_leastOf ht, tyHi_eq_greatestOf ht, clampInt_eq (leastOf_le_greatestOf ht)]
  rfl

/-- A multiplicative result is the cut of its exact value; V says that the value lies outside the type (R357). -/
theorem mulR_eq {t : Ty} (ht : t ∈ intTys) (sat : Bool) (e : Int) :
    mulR t sat e = ((cutTo t sat e).toNat, flagsOf t.wide (cutTo t sat e) false (outside t e)) := by
  rw [← nzFlags_toNat, ← satOr_eq_cutTo ht, mulR, tyLo_eq_leastOf ht, tyHi_eq_greatestOf ht]
  rfl

theorem imulhR_eq {t : Ty} (a b : Nat) :
    imulhR t a b = ((cutTo t false (ext t a * ext t b / 2 ^ tyWidth t)).toNat,
      flagsOf t.wide (cutTo t false (ext t a * ext t b / 2 ^ tyWidth t)) false false) := by
  have hr : lowBits (2 * tyBits t) (ext t a * ext t b) / 2 ^ tyBits t
      = (cutTo t false (ext t a * ext t b / 2 ^ tyWidth t)).toNat := by
    rw [lowBits_div, cutTo_toNat]; rfl
  rw [imulhR, hr, ← nzFlags_toNat]
  rfl

/-- The types of `IMADW` are integer types of 32 bits. -/
theorem narrow_types {t : Ty} (ht : t ∈ [Ty.i32, .n32]) : t ∈ intTys ∧ tyWidth t = 32 := by revert t; decide

/-- The 64-bit type of the same signedness (R357). -/
theorem wideOf_eq {t : Ty} (ht : t ∈ [Ty.i32, .n32]) : wideOf t = if t == .i32 then Ty.i64 else .n64 := by
  revert t; decide

theorem wideOf_mem (t : Ty) : wideOf t ∈ intTys := by
  unfold wideOf; split <;> decide

theorem wideOf_wide (t : Ty) : (wideOf t).wide = true := by
  unfold wideOf; split <;> rfl

/-! ## Types of well-formed operands -/

theorem Alu1.wf_mem {tys : List Ty} {satOk cceOk d32 : Bool} {p : Alu1} (h : p.wf tys satOk cceOk d32 = true) : p.ty ∈ tys := by
  simp only [Alu1.wf, Bool.and_eq_true, List.contains_iff_mem] at h
  obtain ⟨⟨⟨⟨⟨⟨-, -⟩, ht⟩, -⟩, -⟩, -⟩, -⟩ := h
  exact ht

theorem Alu2.wf_mem {tys : List Ty} {satOk cceOk b32 : Bool} {p : Alu2} (h : p.wf tys satOk cceOk b32 = true) : p.ty ∈ tys := by
  simp only [Alu2.wf, Bool.and_eq_true, List.contains_iff_mem] at h
  obtain ⟨⟨⟨⟨⟨⟨⟨-, -⟩, ht⟩, -⟩, -⟩, -⟩, -⟩, -⟩ := h
  exact ht

theorem Alu3.wf_mem {tys : List Ty} {satOk dw aw bw cw : Bool} {p : Alu3} (h : p.wf tys satOk dw aw bw cw = true) :
    p.ty ∈ tys := by
  simp only [Alu3.wf, Bool.and_eq_true, List.contains_iff_mem] at h
  obtain ⟨⟨⟨⟨⟨⟨⟨-, -⟩, ht⟩, -⟩, -⟩, -⟩, -⟩, -⟩ := h
  exact ht

end Sys2Proof.Machine
end

section
/-! The integer products (R357). -/

namespace Sys2Proof.Machine

/-- `IMUL`: the exact product, cut or clamped to the type. -/
theorem imul_writes : Alu2Writes .imul false (fun p a b => cutTo p.ty p.sat (valueOf p.ty a * valueOf p.ty b))
    (fun _ _ _ => false) (fun p a b => outside p.ty (valueOf p.ty a * valueOf p.ty b)) :=
  alu2Writes_of (m := fun p a b => mulR p.ty p.sat (ext p.ty a * ext p.ty b)) (fun _ _ => rfl) fun p hp a b ha hb => by
    have ht := Alu2.wf_mem hp
    rw [ext_toNat ht ha, ext_toNat ht hb, mulR_eq ht]

/-- `IMULH`: the high half of the exact product. -/
theorem imulh_writes : Alu2Writes .imulh false
    (fun p a b => cutTo p.ty false (valueOf p.ty a * valueOf p.ty b / 2 ^ (tyWidth p.ty)))
    (fun _ _ _ => false) (fun _ _ _ => false) :=
  alu2Writes_of (m := fun p => imulhR p.ty) (fun _ _ => rfl) fun p hp a b ha hb => by
    have ht := Alu2.wf_mem hp
    rw [imulhR_eq, ext_toNat ht ha, ext_toNat ht hb]

/-- `IMAD`: the exact product and sum, cut or clamped to the type. -/
theorem imad_writes : Alu3Writes .imad Ty.wide Ty.wide Ty.wide Ty.wide
    (fun p a b q => cutTo p.ty p.sat (valueOf p.ty a * valueOf p.ty b + valueOf p.ty q)) (fun _ _ _ _ => false)
    (fun p a b q => outside p.ty (valueOf p.ty a * valueOf p.ty b + valueOf p.ty q)) :=
  alu3Writes_of (m := fun p a b q => mulR p.ty p.sat (ext p.ty a * ext p.ty b + ext p.ty q)) (fun _ _ => rfl)
    fun p hp a b q ha hb hq => by
      have ht := Alu3.wf_mem hp
      rw [ext_toNat ht ha, ext_toNat ht hb, ext_toNat ht hq, mulR_eq ht]

/-- `IMADW`: operands of 32 bits, addend and result of 64. -/
theorem imadw_writes : Alu3Writes .imadw (fun _ => true) (fun _ => false) (fun _ => false) (fun _ => true)
    (fun p a b q =>
      let t := if p.ty == .i32 then Ty.i64 else .n64
      cutTo t p.sat (valueOf p.ty a * valueOf p.ty b + valueOf t q)) (fun _ _ _ _ => false)
    (fun p a b q =>
      let t := if p.ty == .i32 then Ty.i64 else .n64
      outside t (valueOf p.ty a * valueOf p.ty b + valueOf t q)) :=
  alu3Writes_of (m := fun p => imadwR p.ty p.sat) (fun _ _ => rfl) fun p hp a b q ha hb _ => by
    have ht : p.ty ∈ [Ty.i32, .n32] := Alu3.wf_mem ((Bool.and_eq_true _ _).mp hp).1
    obtain ⟨hi, hw⟩ := narrow_types ht
    have hq : q.toNat < 2 ^ tyWidth (wideOf p.ty) := by
      rw [tyWidth, wideOf_wide]; exact q.isLt
    rw [imadwR, ext_toNat hi (by rwa [hw]), ext_toNat hi (by rwa [hw]), ext_toNat (wideOf_mem _) hq,
      mulR_eq (wideOf_mem _), wideOf_wide, wideOf_eq ht]

/-- Settles O3: each product's exact value is the product of the operands' values, and the model's cut and clamp of it are
those of R357. -/
theorem products : Obligations.Products := ⟨imul_writes, imulh_writes, imad_writes, imadw_writes⟩

end Sys2Proof.Machine
end

section
/-! The bitwise opcodes, shifts, rotations and funnel shifts (R361, R362). -/

namespace Sys2Proof.Machine

/-! ## Bitwise opcodes -/

theorem and_bits : Alu2Bits .and false (fun _ a b i => a.getLsbD i && b.getLsbD i) (fun _ _ _ => false) :=
  alu2Bits_of (m := fun p a b => plainR (tyBits p.ty) (a &&& b)) (fun _ _ => rfl) fun _ _ _ _ ha _ =>
    .plain (Nat.lt_of_le_of_lt Nat.and_le_left ha) fun _ _ => Nat.testBit_and ..

theorem or_bits : Alu2Bits .or false (fun _ a b i => a.getLsbD i || b.getLsbD i) (fun _ _ _ => false) :=
  alu2Bits_of (m := fun p a b => plainR (tyBits p.ty) (a ||| b)) (fun _ _ => rfl) fun _ _ _ _ ha hb =>
    .plain (Nat.or_lt_two_pow ha hb) fun _ _ => Nat.testBit_or ..

theorem xor_bits : Alu2Bits .xor false (fun _ a b i => a.getLsbD i ^^ b.getLsbD i) (fun _ _ _ => false) :=
  alu2Bits_of (m := fun p a b => plainR (tyBits p.ty) (a ^^^ b)) (fun _ _ => rfl) fun _ _ _ _ ha hb =>
    .plain (Nat.xor_lt_two_pow ha hb) fun _ _ => Nat.testBit_xor ..

/-- The complement within `w` bits. -/
theorem testBit_complement {w b i : Nat} (hb : b < 2 ^ w) (hi : i < w) : (2 ^ w - 1 - b).testBit i = !b.testBit i := by
  rw [Nat.sub_sub, Nat.add_comm, Nat.testBit_two_pow_sub_succ hb, decide_eq_true hi, Bool.true_and]

theorem andn_bits : Alu2Bits .andn false (fun _ a b i => a.getLsbD i && !b.getLsbD i) (fun _ _ _ => false) :=
  alu2Bits_of (m := fun p a b => plainR (tyBits p.ty) (a &&& (2 ^ tyBits p.ty - 1 - b))) (fun _ _ => rfl)
    fun _ _ _ _ ha hb => by
      refine .plain (Nat.lt_of_le_of_lt Nat.and_le_left ha) fun i hi => ?_
      rw [Nat.testBit_and]
      exact congrArg (_ && ·) (testBit_complement hb hi)

/-- The result of `BOOL3` reads its table at the three bits (R361). -/
theorem bool3R_bits (w : Nat) (tt : BitVec 8) (a b q : DWord) :
    BitResult w (bool3R w tt.toNat a.toNat b.toNat q.toNat)
      (fun i => tt.getLsbD ((a.getLsbD i).toNat + 2 * (b.getLsbD i).toNat + 4 * (q.getLsbD i).toNat)) false :=
  .ofBits fun i _ => by simp only [bitOf_toNat, b2n_eq_toNat]

/-- Settles O7: each bit of a result is the function of the operands' bits at its place, and a result lies within the
type's width because an operand does. -/
theorem bitwiseLogic : Obligations.BitwiseLogic := by
  refine ⟨and_bits, or_bits, xor_bits, andn_bits, fun p _ => ?_⟩
  refine ⟨fun s c => bitsWord (tyWidth p.ty) _, fun s c => isBits_bitsWord (tyWidth_le p.ty) _, ?_⟩
  refine writesInt_of (body := bool3Lane p) (fun s c => bool3R (tyBits p.ty) p.tt.toNat (c.src s 0 p.ty.wide p.a).nat
    (c.src s 0 p.ty.wide p.b).nat (c.src s 0 p.ty.wide p.c).nat) (fun _ => rfl) (fun s sh u c => ?_)
    (fun s c => (bool3R_bits _ p.tt _ _ _).eq)
  simp only [bool3Lane, src_begun, anyPoison, List.any_cons, List.any_nil, Bool.or_false, Bool.or_assoc]

/-! ## Shifts -/

theorem shlR_bits (w a s : Nat) : BitResult w (shlR w a s) (fun i => decide (s ≤ i) && a.testBit (i - s))
    (decide (1 ≤ s) && decide (s ≤ w) && a.testBit (w - s)) where
  bits i := by
    simp only [shlR]
    split
    case isTrue h =>
      by_cases hi : i < w
      · simp [show ¬ s ≤ i by omega]
      · simp [hi]
    case isFalse h => rw [Nat.testBit_mod_two_pow, Nat.testBit_mul_two_pow]
  flags := by simp only [shlR, bitOf_eq_testBit]

theorem shrR_bits {w a : Nat} (ha : a < 2 ^ w) (s : Nat) :
    BitResult w (shrR w a s) (fun i => decide (i + s < w) && a.testBit (i + s))
      (decide (1 ≤ s) && decide (s ≤ w) && a.testBit (s - 1)) where
  bits i := by
    have hz : ¬ i + s < w → a.testBit (i + s) = false := fun h => testBit_beyond ha (Nat.not_lt.1 h)
    simp only [shrR]
    split
    case isTrue h => simp [show ¬ i + s < w by omega]
    case isFalse h =>
      rw [Nat.testBit_div_two_pow]
      by_cases hi : i + s < w
      · simp [hi, show i < w by omega]
      · simp [hi, hz hi]
  flags := by simp only [shrR, bitOf_eq_testBit]

/-- An arithmetic shift by less than the width is that of the word (R362). -/
theorem lowBits_signedOf_div (w a s : Nat) :
    lowBits w (signedOf w a / (2 ^ s : Nat)) = ((BitVec.ofNat w a).sshiftRight s).toNat := by
  rw [lowBits_eq_toNat, signedOf_eq_toInt, ← Int.shiftRight_eq_div_pow, ← BitVec.toInt_sshiftRight, BitVec.ofInt_toInt]

theorem testBit_signedOf_div {w a s i : Nat} (hi : i < w) (hs : s < w) :
    (lowBits w (signedOf w a / (2 ^ s : Nat))).testBit i = a.testBit (min (i + s) (w - 1)) := by
  rw [lowBits_signedOf_div, BitVec.testBit_toNat, BitVec.getLsbD_sshiftRight, decide_eq_false (Nat.not_le.2 hi), Bool.not_false,
    Bool.true_and]
  split
  case isTrue h =>
    rw [BitVec.getLsbD_ofNat, decide_eq_true h, Bool.true_and, Nat.min_eq_left (by omega), Nat.add_comm]
  case isFalse h =>
    rw [BitVec.msb_eq_getLsbD_last, BitVec.getLsbD_ofNat, decide_eq_true (by omega), Bool.true_and, Nat.min_eq_right (by omega)]

theorem sarR_bits {w : Nat} (hw : 0 < w) (a s : Nat) :
    BitResult w (sarR w a s) (fun i => a.testBit (min (i + s) (w - 1)))
      (decide (1 ≤ s) && a.testBit (min (s - 1) (w - 1))) where
  bits i := by
    simp only [sarR, bitOf_eq_testBit]
    by_cases hs : w ≤ s
    case pos =>
      rw [if_pos hs, Nat.min_eq_right (by omega)]
      cases a.testBit (w - 1)
      · simp
      · simp [Nat.testBit_two_pow_sub_one]
    case neg =>
      rw [if_neg hs]
      by_cases hi : i < w
      · rw [testBit_signedOf_div hi (Nat.not_le.1 hs), decide_eq_true hi, Bool.true_and]
      · rw [lowBits_signedOf_div, testBit_beyond (BitVec.isLt _) (Nat.not_lt.1 hi), decide_eq_false hi, Bool.false_and]
  flags := by
    have hc : (if w < s then bitOf a (w - 1) else decide (1 ≤ s) && bitOf a (s - 1))
        = (decide (1 ≤ s) && a.testBit (min (s - 1) (w - 1))) := by
      simp only [bitOf_eq_testBit]
      split
      case isTrue h => rw [Nat.min_eq_right (by omega), decide_eq_true (by omega), Bool.true_and]
      case isFalse h => rw [Nat.min_eq_left (by omega)]
    rw [← hc]
    rfl

/-! ## Rotations and funnel shifts -/

/-- A bit of two joined halves. -/
theorem testBit_joined {w b : Nat} (hb : b < 2 ^ w) (a j : Nat) :
    (a * 2 ^ w + b).testBit j = if j < w then b.testBit j else a.testBit (j - w) := by
  rw [Nat.mul_comm, Nat.testBit_two_pow_mul_add a hb]

theorem funnelL_bits {w b : Nat} (hw : 0 < w) (hb : b < 2 ^ w) (a s : Nat) : BitResult w (plainR w (funnelL w a b s))
    (fun i => if s % w ≤ i then a.testBit (i - s % w) else b.testBit (i + w - s % w)) false := by
  refine .plain (Nat.mod_lt _ (Nat.two_pow_pos w)) fun i hi => ?_
  have hs : s % w < w := Nat.mod_lt s hw
  rw [funnelL, Nat.testBit_mod_two_pow, Nat.testBit_div_two_pow, Nat.testBit_mul_two_pow, testBit_joined hb, decide_eq_true hi,
    decide_eq_true (by omega), Bool.true_and, Bool.true_and]
  by_cases h : s % w ≤ i
  · rw [if_pos h, if_neg (by omega), show i + w - s % w - w = i - s % w by omega]
  · rw [if_neg h, if_pos (by omega)]

theorem funnelR_bits {w b : Nat} (hb : b < 2 ^ w) (a s : Nat) : BitResult w (plainR w (funnelR w a b s))
    (fun i => if i + s % w < w then b.testBit (i + s % w) else a.testBit (i + s % w - w)) false := by
  refine .plain (Nat.mod_lt _ (Nat.two_pow_pos w)) fun i hi => ?_
  rw [funnelR, Nat.testBit_mod_two_pow, Nat.testBit_div_two_pow, testBit_joined hb, decide_eq_true hi, Bool.true_and]

/-- The same bits in other words. -/
theorem BitResult.congr {w : Nat} {m : Nat × Flags} {f g : Nat → Bool} {c : Bool} (h : BitResult w m f c)
    (hfg : ∀ i < w, f i = g i) : BitResult w m g c where
  bits i := by
    rw [h.bits]
    by_cases hi : i < w
    · rw [hfg i hi]
    · simp [hi]
  flags := h.flags

/-- A rotation is a funnel shift of a word joined with itself; its bits come round modulo the width. -/
theorem rotlR_bits {w a : Nat} (hw : 0 < w) (ha : a < 2 ^ w) (s : Nat) :
    BitResult w (rotlR w a s) (fun i => a.testBit ((i + w - s % w) % w)) false := by
  refine (funnelL_bits hw ha a s).congr fun i hi => ?_
  have hs : s % w < w := Nat.mod_lt s hw
  generalize s % w = k at hs
  split
  case isTrue h => rw [show i + w - k = (i - k) + w by omega, Nat.add_mod_right, Nat.mod_eq_of_lt (by omega)]
  case isFalse h => rw [Nat.mod_eq_of_lt (by omega)]

theorem rotrR_bits {w a : Nat} (ha : a < 2 ^ w) (s : Nat) :
    BitResult w (rotrR w a s) (fun i => a.testBit ((i + s) % w)) false := by
  refine (funnelR_bits ha a s).congr fun i hi => ?_
  have hs : s % w < w := Nat.mod_lt s (by omega)
  rw [← Nat.add_mod_mod]
  generalize s % w = k at hs
  split
  case isTrue h => rw [Nat.mod_eq_of_lt h]
  case isFalse h => rw [Nat.mod_eq_sub_mod (by omega), Nat.mod_eq_of_lt (by omega)]

theorem tyWidth_pos (t : Ty) : 0 < tyWidth t := by unfold tyWidth; split <;> decide

/-- Settles O8: each result's bits are the operand's at a shifted place, the shifts' flag C is the last bit out, and a rotation is a
funnel shift of a word joined with itself. -/
theorem shiftsAndRotations : Obligations.ShiftsAndRotations :=
  ⟨⟨alu2Bits_of (m := fun p => shlR (tyBits p.ty)) (fun _ _ => rfl) fun _ _ _ _ _ _ => shlR_bits ..,
    alu2Bits_of (m := fun p => shrR (tyBits p.ty)) (fun _ _ => rfl) fun _ _ _ _ ha _ => shrR_bits ha _,
    alu2Bits_of (m := fun p => sarR (tyBits p.ty)) (fun _ _ => rfl) fun p _ _ _ _ _ => sarR_bits (tyWidth_pos p.ty) ..⟩,
   ⟨alu2Bits_of (m := fun p => rotlR (tyBits p.ty)) (fun _ _ => rfl) fun p _ _ _ ha _ => rotlR_bits (tyWidth_pos p.ty) ha _,
    alu2Bits_of (m := fun p => rotrR (tyBits p.ty)) (fun _ _ => rfl) fun _ _ _ _ ha _ => rotrR_bits ha _,
    alu3Bits_of (m := fun p a b q => plainR (tyBits p.ty) (funnelL (tyBits p.ty) a b q)) (fun _ _ => rfl)
      fun p _ _ _ _ _ hb => funnelL_bits (tyWidth_pos p.ty) hb ..,
    alu3Bits_of (m := fun p a b q => plainR (tyBits p.ty) (funnelR (tyBits p.ty) a b q)) (fun _ _ => rfl)
      fun _ _ _ _ _ _ hb => funnelR_bits hb ..⟩⟩

end Sys2Proof.Machine
end

section
/-! Fields, bit counts and bit reversal (R363, R364). -/

namespace Sys2Proof.Machine

/-! ## Fields -/

/-- Byte `i` of a field description. -/
theorem field_eq_byteOf (b : DWord) (i : Nat) : field b.toNat (8 * i) 8 = (byteOf b i).toNat := by
  rw [byteOf, BitVec.extractLsb'_toNat, Nat.shiftRight_eq_div_pow]
  rfl

/-- The length of a field is cut to the width (R363). -/
theorem fieldLen_eq (b : DWord) (w : Nat) :
    (if field b.toNat 8 8 < w then field b.toNat 8 8 else w) = min (byteOf b 1).toNat w := by
  rw [show field b.toNat 8 8 = (byteOf b 1).toNat from field_eq_byteOf b 1]
  split <;> omega

theorem bfx_bits : Alu2Bits .bfx true (fun p a b i =>
      let pos := (byteOf b 0).toNat
      let len := min (byteOf b 1).toNat (tyWidth p.ty)
      let sign := decide (p.ty = .i32 ∨ p.ty = .i64)
      let bit := fun j => if pos + j < tyWidth p.ty then a.getLsbD (pos + j) else sign && a.getLsbD (tyWidth p.ty - 1)
      if i < len then bit i else sign && decide (0 < len) && bit (len - 1))
    (fun _ _ _ => false) :=
  alu2Bits_of (m := fun p => bfxR p.ty) (fun _ _ => rfl) fun p hp a b _ _ => by
    rw [bfxR]
    refine .ofBits fun i _ => ?_
    simp only [fieldLen_eq, ← field_eq_byteOf b 0, ← tySigned_eq (Alu2.wf_mem hp), bitOf_toNat]
    rfl

theorem bfi_bits : Alu3Bits .bfi (fun _ => false) Ty.wide (fun p a b q i =>
    let pos := (byteOf b 0).toNat
    let len := min (byteOf b 1).toNat (tyWidth p.ty)
    if pos ≤ i ∧ i < pos + len then a.getLsbD (i - pos) else q.getLsbD i) :=
  alu3Bits_of (m := fun p => bfiR (tyBits p.ty)) (fun _ _ => rfl) fun p _ a b q _ _ => by
    rw [bfiR]
    refine .ofBits fun i _ => ?_
    simp only [fieldLen_eq, ← field_eq_byteOf b 0, bitOf_toNat, Bool.and_eq_true, decide_eq_true_eq]
    rfl

/-- Settles O9: the model builds both results bit by bit from the same position and cut length. -/
theorem fieldExtractAndInsert : Obligations.FieldExtractAndInsert := ⟨bfx_bits, bfi_bits⟩

/-! ## Counts -/

/-- A count of at most 64 as a result of 32 bits (R364). -/
theorem countResult_eq {n : Nat} (hn : n ≤ 64) (wide : Bool) :
    plainR 32 n = ((BitVec.ofNat 64 n).toNat, flagsOf (wide && !true) (BitVec.ofNat 64 n) false false) := by
  have ht : (BitVec.ofNat 64 n).toNat = n := Nat.mod_eq_of_lt (by omega)
  rw [Bool.not_true, Bool.and_false, ← nzFlags_toNat, ht]
  rfl

theorem popCount_eq_countP (a : DWord) (w : Nat) : popCount a.toNat w = (List.range w).countP a.getLsbD := by
  induction w with
  | zero => rfl
  | succ w ih =>
    rw [popCount, ih, bitOf_toNat, List.range_succ, List.countP_append, List.countP_singleton]
    rfl

theorem popc_writes :
    Alu1Writes .popc true (fun p a => BitVec.ofNat 64 ((List.range (tyWidth p.ty)).countP a.getLsbD)) (fun _ _ => false) :=
  alu1Writes_of (m := fun p => popcR (tyBits p.ty)) (fun _ _ => rfl) fun p _ a _ => by
    have hle : (List.range (tyWidth p.ty)).countP a.getLsbD ≤ 64 :=
      Nat.le_trans List.countP_le_length (by rw [List.length_range]; exact tyWidth_le p.ty)
    rw [popcR, popCount_eq_countP]
    exact countResult_eq hle _

theorem leadZeros_le (a w : Nat) : leadZeros a w ≤ w := by
  induction w with
  | zero => exact Nat.le_refl 0
  | succ w ih =>
    unfold leadZeros
    split <;> omega

/-- The bits counted are zero. -/
theorem leadZeros_above {a w i : Nat} (hi : w - leadZeros a w ≤ i) (hw : i < w) : a.testBit i = false := by
  induction w with
  | zero => omega
  | succ w ih =>
    rw [leadZeros, bitOf_eq_testBit] at hi
    by_cases hb : a.testBit w = true
    case pos => rw [if_pos hb] at hi; omega
    case neg =>
      rw [if_neg hb] at hi
      rcases Nat.lt_succ_iff_lt_or_eq.1 hw with h | rfl
      · exact ih (by omega) h
      · exact Bool.eq_false_iff.2 hb

/-- The bit below those counted is one. -/
theorem leadZeros_top {a w : Nat} (h : leadZeros a w < w) : a.testBit (w - leadZeros a w - 1) = true := by
  induction w with
  | zero => omega
  | succ w ih =>
    rw [leadZeros, bitOf_eq_testBit] at h ⊢
    by_cases hb : a.testBit w = true
    case pos => rwa [if_pos hb]
    case neg =>
      rw [if_neg hb] at h ⊢
      rw [show w + 1 - (1 + leadZeros a w) - 1 = w - leadZeros a w - 1 by omega]
      exact ih (by omega)

theorem clz_writes :
    Alu1Writes .clz true (fun p a => BitVec.ofNat 64 (leadZeros a.toNat (tyWidth p.ty))) (fun _ _ => false) :=
  alu1Writes_of (m := fun p => clzR (tyBits p.ty)) (fun _ _ => rfl) fun p _ _ _ =>
    countResult_eq (Nat.le_trans (leadZeros_le ..) (tyWidth_le p.ty)) _

/-! ## Reversal -/

theorem brevR_bits (w : Nat) (a : DWord) : BitResult w (brevR w a.toNat) (fun i => a.getLsbD (w - 1 - i)) false :=
  .ofBits fun _ _ => bitOf_toNat ..

theorem brev_writes :
    Alu1Writes .brev false (fun p a => bitsWord (tyWidth p.ty) (fun i => a.getLsbD (tyWidth p.ty - 1 - i))) (fun _ _ => false) :=
  alu1Writes_of (m := fun p => brevR (tyBits p.ty)) (fun _ _ => rfl) fun p _ a _ => by
    rw [Bool.not_false, Bool.and_true]
    exact (brevR_bits (tyWidth p.ty) a).eq

/-- Settles O10: counting up the word gives the number of its one bits, counting down from its highest bit those above the
highest one, and the reversed word is built bit by bit. -/
theorem bitCounts : Obligations.BitCounts :=
  ⟨popc_writes,
   ⟨fun p a => leadZeros a.toNat (tyWidth p.ty),
     fun _ _ => ⟨leadZeros_le .., fun _ hi hw => leadZeros_above hi hw, leadZeros_top⟩, clz_writes⟩,
   ⟨_, fun p _ => isBits_bitsWord (tyWidth_le p.ty) _, brev_writes⟩⟩

end Sys2Proof.Machine
end
